-- ==== Sys2Proof/Word.lean ====
section
/-! DEFINITION. Word.lean: the word types of the model.

The spec numbers the bits of every register and record (conventions chapter, R4), so these are bit vectors.
A cell key, an identifier, a count or an exact value is a `Nat` or an `Int`. -/
namespace Sys2Proof

/-- One byte. -/
abbrev Byte := BitVec 8

/-- A 64-bit register or memory word (R607). -/
abbrev W64 := BitVec 64

/-- One 64-byte line: byte `i` is bits `8 i + 7` to `8 i` (R4, little-endian). -/
abbrev Line := BitVec 512

/-- One 128-byte descriptor or record. -/
abbrev Desc := BitVec 1024

end Sys2Proof
end

