-- ==== Sys2Proof/Machine/Map.lean ====
section
/-! DEFINITION. Map.lean: sparse maps as plain data, a list of (key, value) pairs in one canonical form:
keys strictly rising, and, where the map has a value that an unlisted key reads as, no entry equal to it. -/
namespace Sys2Proof.Machine

/-- A sparse map from numbers. -/
abbrev AMap (α : Type) := List (Nat × α)

/-- The value listed at key `k`. -/
def mget {α : Type} : AMap α → Nat → Option α
  | [], _ => none
  | (k', v) :: m, k => if k' = k then some v else mget m k

/-- `m` with `v` listed at key `k`. -/
def mput {α : Type} : AMap α → Nat → α → AMap α
  | [], k, v => [(k, v)]
  | (k', v') :: m, k, v =>
    if k < k' then (k, v) :: (k', v') :: m
    else if k = k' then (k, v) :: m
    else (k', v') :: mput m k v

/-- `m` with nothing listed at key `k`. -/
def mdel {α : Type} : AMap α → Nat → AMap α
  | [], _ => []
  | (k', v') :: m, k => if k' = k then mdel m k else (k', v') :: mdel m k

/-- What key `k` reads as, an unlisted key reading as `d`. -/
def mgetD {α : Type} (d : α) (m : AMap α) (k : Nat) : α := (mget m k).getD d

/-- Writing `v` at `k`; writing what an unlisted key reads as removes the entry. -/
def mputD {α : Type} [DecidableEq α] (d : α) (m : AMap α) (k : Nat) (v : α) : AMap α :=
  if v = d then mdel m k else mput m k v

/-- Changing the value at `k`, where one is listed. -/
def mmod {α : Type} (m : AMap α) (k : Nat) (f : α → α) : AMap α :=
  match mget m k with
  | some v => mput m k (f v)
  | none => m

/-- The entries `l` written over `m`. -/
def mputAll {α : Type} [DecidableEq α] (d : α) (m : AMap α) (l : List (Nat × α)) : AMap α :=
  l.foldl (fun m e => mputD d m e.1 e.2) m

/-- Keys strictly rising. -/
def msorted {α : Type} : AMap α → Bool
  | [] => true
  | [_] => true
  | (k, _) :: (k', v') :: m => decide (k < k') && msorted ((k', v') :: m)

/-- The canonical form of a map whose unlisted keys read as `d`. -/
def mcanon {α : Type} [DecidableEq α] (d : α) (m : AMap α) : Bool :=
  msorted m && m.all fun e => decide (e.2 ≠ d)

/-- The keys listed. -/
def mkeys {α : Type} (m : AMap α) : List Nat := m.map (·.1)

/-- The values listed, in key order. -/
def mvals {α : Type} (m : AMap α) : List α := m.map (·.2)

/-- The entries that satisfy `p`. -/
def mfilter {α : Type} (m : AMap α) (p : Nat → α → Bool) : AMap α := m.filter fun e => p e.1 e.2

/-- Every listed value changed by `f`. -/
def mmap {α β : Type} (m : AMap α) (f : Nat → α → β) : AMap β := m.map fun e => (e.1, f e.1 e.2)

/-- The least number below `n` that `used` does not hold: one free place among `n`. -/
def firstFree (n : Nat) (used : Nat → Bool) : Option Nat := (List.range n).find? fun i => !used i

end Sys2Proof.Machine
end

