-- ==== Sys2Proof/Machine/Bits.lean ====
section
/-! DEFINITION. Bits.lean: bit fields of registers and records, and the byte order (R4). -/
namespace Sys2Proof.Machine

/-- A bit field as the field tables give it: its lowest bit and its width. -/
structure BF where
  lo : Nat
  w  : Nat
  deriving DecidableEq, Repr

/-- The number held by field `f` of `v`. -/
def bget {n : Nat} (v : BitVec n) (f : BF) : Nat := (v.extractLsb' f.lo f.w).toNat

/-- The field `f` of `v` is non-zero. For a one-bit field: the bit is set. -/
def btst {n : Nat} (v : BitVec n) (f : BF) : Bool := bget v f != 0

/-- The bits of field `f`, all ones. -/
def bmask (n : Nat) (f : BF) : BitVec n := BitVec.ofNat n (2 ^ f.w - 1) <<< f.lo

/-- `v` with field `f` holding `x` (its low bits). Every other bit is unchanged. -/
def bset {n : Nat} (v : BitVec n) (f : BF) (x : Nat) : BitVec n :=
  (v &&& ~~~ (bmask n f)) ||| (BitVec.ofNat n (x % 2 ^ f.w) <<< f.lo)

/-- The `k` low bytes of the number `x`, lowest first (R4). -/
def leBytes : Nat → Nat → List Byte
  | 0, _ => []
  | k + 1, x => BitVec.ofNat 8 x :: leBytes k (x / 256)

/-- The number whose bytes, lowest first, are `bs` (R4). -/
def leNat : List Byte → Nat
  | [] => 0
  | b :: bs => b.toNat + 256 * leNat bs

/-- The bytes of a bit vector, lowest first. -/
def bytesOf {n : Nat} (v : BitVec n) : List Byte := leBytes (n / 8) v.toNat

/-- `k` bytes of `v` from byte `off`. -/
def sliceBytes {n : Nat} (v : BitVec n) (off k : Nat) : List Byte := leBytes k (v.toNat / 256 ^ off)

/-- The bytes `bs` as a bit vector of width `n`. -/
def ofBytes (n : Nat) (bs : List Byte) : BitVec n := BitVec.ofNat n (leNat bs)

/-- `v` with its bytes from `off` replaced by `bs`. -/
def putBytes {n : Nat} (v : BitVec n) (off : Nat) (bs : List Byte) : BitVec n :=
  bset v ⟨8 * off, 8 * bs.length⟩ (leNat bs)

/-- Bit `i` of a 64-bit mask. -/
def maskBit (m : W64) (i : Nat) : Bool := m.getLsbD i

/-- `m` with bit `i` set. -/
def maskSet (m : W64) (i : Nat) : W64 := m ||| BitVec.ofNat 64 (2 ^ i)

/-- `m` with bit `i` clear. -/
def maskClr (m : W64) (i : Nat) : W64 := m &&& ~~~ BitVec.ofNat 64 (2 ^ i)

/-- How many of the `n` low bits of `m` are set. -/
def maskCount {w : Nat} (m : BitVec w) (n : Nat) : Nat := ((List.range n).filter fun i => m.getLsbD i).length

/-- Signed reading of the low `w` bits of `x`. -/
def sgn (w x : Nat) : Int := (BitVec.ofNat w x).toInt

/-- Saturating increment of a `w`-bit count. -/
def satInc (w x : Nat) (k : Nat := 1) : Nat := min (x + k) (2 ^ w - 1)

/-- Ceiling of a quotient. -/
def ceilDiv (a b : Nat) : Nat := (a + b - 1) / b

end Sys2Proof.Machine
end

