-- ==== Sys2Proof/Machine/Registers.lean ====
section
/-! DEFINITION. Registers.lean: every register of the register map (Tables REG-4 to REG-19) and every field of the
owning chapters' field maps: lowest bit, width, access code (Table REG-2) and reset value; and the fields of the
records that the chip keeps in memory (extent, version, queue context, descriptor, completion and so on). -/
namespace Sys2Proof.Machine

/-- Access codes (Table REG-2). -/
inductive Acc where
  | ro | rw | w1c | w1s | wo | rws | rwl
  deriving DecidableEq, Repr

/-- Reset kinds (R614): sill power-on, cold, warm, function-level reset of the physical function, tenant reset. -/
inductive ResetKind where
  | sill | cold | warm | pf | tenant
  deriving DecidableEq, Repr

/-- The registers of Tables REG-4 to REG-19, in their order. -/
inductive Reg where
  | GLB_ID | GLB_STAT | GLB_CHIPID | GLB_RST | HST_LINK | HST_EVT | HST_IDECFG | QUE_GSTAT | XLT_INVAL_ADDR 
  | XLT_INVAL_LEN | XLT_INVAL_CTL | XLT_INVAL_STAT | XLT_SPILL | XLT_PARKSTAT | HOME_DIRCFG | HOME_DIRSTAT 
  | HOME_EVT | HOME_DEAD | TIER_NEARILV | TIER_NEARCAP | TIER_FARCAP | TIER_STGPOOL | TIER_STGSTAT | TIER_STGWM 
  | TIER_EVT | TIER_QUARCNT | TIER_WEAR | TIER_SCRUB | ARR_CFG | ARR_FENCED | ARR_BUSY | ARR_EVT | ARR_KVLTAB 
  | VSC_CTAB | VSC_CACT | VSC_CSTAT | VSC_PESTAT | VSC_EVT | EMB_TTAB | EMB_TACT | EMB_TSTAT | EMB_EVT 
  | SCR_EVT | SCR_POOL | SCR_CFG | SCR_FOLD | SCR_CTL | SCR_VAL | SCR_EXP | SCR_DATA8 | SCR_DATA16 | SCR_DATA32 
  | SCR_STAT | SCR_CNT | SCR_RES | TIM_FTNOW | TIM_CFG | TIM_SYNC | TIM_OFFSET | TIM_RATE | TIM_EPOCH 
  | TIM_EVT | TIM_RSTAT | LNK_CFG | LNK_STAT | LNK_KEYCFG | LNK_ERRFEC | LNK_ERRFLIT | LNK_ERRRTY | LNK_ERRDROP 
  | LNK_HB | LNK_RANK | LNK_EVT | LNK_RT | RED_WARD | RED_EVT | RED_RPTSTAT | RED_FMCFG | RED_PLUMB | RED_PLUMBSTAT 
  | RED_CUTCFG | RED_CUTAREA | RED_CUTSTAT | RED_CUTSEAL | RED_STANDIN | RED_FENCED | RED_RPT | SEC_MODE 
  | SEC_BOOT | SEC_EVT | SEC_FSID | SEC_FSCMD | SEC_OSEQ | SEC_DBG | PWR_STATE | PWR_CFG | PWR_LIMIT 
  | PWR_MON | PWR_EVT | PWR_SLED | CNT_CTL | CNT_DUMPCTL | CNT_DTIME | CNT_DRING | CNT_DHEAD | CNT_DSTAT 
  | CNT_SMPCTL | CNT_SRING | CNT_SHEAD | CNT_SSTAT | CNT_EVT | CNT_GCFG | CNT_GSALO | CNT_GSAHI | CNT_EVSEL 
  | CNT_VAL | LDG_SEQ | LDG_STAT | LDG_WINSEL | LDG_STREAM | LDG_EVT | LDG_WIN | TEN_XLTROOT | TEN_FRING_BASE 
  | TEN_FRING_CTL | TEN_FRING_HEAD | TEN_FRING_TAIL | TEN_FSTAT | TEN_FRESUME | TEN_XLTEPOCH | TEN_PARKQ 
  | TEN_QSLOTQ | TEN_CAGRP | TEN_COHEVT | TEN_QUOTA_NEAR | TEN_QUOTA_FAR | TEN_QUOTA_STG | TEN_QUOTA_TALLY 
  | TEN_QUOTA_QUEUE | TEN_QSTAT | TEN_ARRQ | TEN_KVPOOL | TEN_KVLEASE | TEN_KVSTAT | TEN_KVEVT | TEN_LSTAT 
  | TEN_EMBSTAT | TEN_VSCQ | TEN_VSCSTAT | TEN_SCRQ | TEN_FTNOW | TEN_RAISESTAT | TEN_LNKQ | TEN_SECCTL 
  | TEN_DIRQ | TEN_NEARQ | TEN_CNTGRP | TEN_CNT
  deriving DecidableEq, Repr

/-- A field of a register: the register, its bits, its access code and its value at reset. -/
structure Fld where
  reg : Reg
  bf  : BF
  acc : Acc
  rst : Nat
  deriving DecidableEq, Repr

/-! Fields, named REGISTER.FIELD as the field maps name them. -/
def GLB_ID.REV : Fld := ⟨.GLB_ID, ⟨32, 16⟩, .ro, 1⟩
def GLB_ID.DEVICE : Fld := ⟨.GLB_ID, ⟨16, 16⟩, .ro, 29192⟩
def GLB_ID.VENDOR : Fld := ⟨.GLB_ID, ⟨0, 16⟩, .ro, 8012⟩
def GLB_STAT.CAUSE : Fld := ⟨.GLB_STAT, ⟨32, 2⟩, .ro, 0⟩
def GLB_STAT.STAGE : Fld := ⟨.GLB_STAT, ⟨8, 4⟩, .ro, 0⟩
def GLB_STAT.FAILED : Fld := ⟨.GLB_STAT, ⟨1, 1⟩, .ro, 0⟩
def GLB_STAT.READY : Fld := ⟨.GLB_STAT, ⟨0, 1⟩, .ro, 0⟩
def GLB_CHIPID.VALID : Fld := ⟨.GLB_CHIPID, ⟨16, 1⟩, .rwl, 0⟩
def GLB_CHIPID.CHIP : Fld := ⟨.GLB_CHIPID, ⟨0, 10⟩, .rwl, 0⟩
def GLB_RST.WARM : Fld := ⟨.GLB_RST, ⟨1, 1⟩, .wo, 0⟩
def GLB_RST.COLD : Fld := ⟨.GLB_RST, ⟨0, 1⟩, .wo, 0⟩
def HST_LINK.RETRAINS : Fld := ⟨.HST_LINK, ⟨16, 8⟩, .ro, 0⟩
def HST_LINK.FLIT : Fld := ⟨.HST_LINK, ⟨8, 1⟩, .ro, 0⟩
def HST_LINK.WIDTH : Fld := ⟨.HST_LINK, ⟨4, 4⟩, .ro, 0⟩
def HST_LINK.SPEED : Fld := ⟨.HST_LINK, ⟨0, 4⟩, .ro, 0⟩
def HST_EVT.VEC : Fld := ⟨.HST_EVT, ⟨32, 11⟩, .rw, 0⟩
def HST_EVT.IDEFAIL : Fld := ⟨.HST_EVT, ⟨4, 1⟩, .w1c, 0⟩
def HST_EVT.HOSTERR : Fld := ⟨.HST_EVT, ⟨3, 1⟩, .w1c, 0⟩
def HST_EVT.BADACC : Fld := ⟨.HST_EVT, ⟨2, 1⟩, .w1c, 0⟩
def HST_EVT.DOWNGRADE : Fld := ⟨.HST_EVT, ⟨1, 1⟩, .w1c, 0⟩
def HST_EVT.READY : Fld := ⟨.HST_EVT, ⟨0, 1⟩, .w1c, 0⟩
def HST_IDECFG.ACTIVE : Fld := ⟨.HST_IDECFG, ⟨4, 4⟩, .ro, 0⟩
def HST_IDECFG.REQUIRED : Fld := ⟨.HST_IDECFG, ⟨0, 1⟩, .rwl, 0⟩
def QUE_GSTAT.ENABLED : Fld := ⟨.QUE_GSTAT, ⟨32, 13⟩, .ro, 0⟩
def QUE_GSTAT.SLOTS : Fld := ⟨.QUE_GSTAT, ⟨0, 15⟩, .ro, 0⟩
def XLT_INVAL_ADDR.ADDR : Fld := ⟨.XLT_INVAL_ADDR, ⟨0, 64⟩, .rw, 0⟩
def XLT_INVAL_LEN.LEN : Fld := ⟨.XLT_INVAL_LEN, ⟨0, 64⟩, .rw, 0⟩
def XLT_INVAL_CTL.GO : Fld := ⟨.XLT_INVAL_CTL, ⟨19, 1⟩, .wo, 0⟩
def XLT_INVAL_CTL.IRQ : Fld := ⟨.XLT_INVAL_CTL, ⟨18, 1⟩, .rw, 0⟩
def XLT_INVAL_CTL.SCOPE : Fld := ⟨.XLT_INVAL_CTL, ⟨17, 1⟩, .rw, 0⟩
def XLT_INVAL_CTL.KIND : Fld := ⟨.XLT_INVAL_CTL, ⟨12, 3⟩, .rw, 0⟩
def XLT_INVAL_CTL.TENANT : Fld := ⟨.XLT_INVAL_CTL, ⟨0, 9⟩, .rw, 0⟩
def XLT_INVAL_STAT.VEC : Fld := ⟨.XLT_INVAL_STAT, ⟨32, 11⟩, .rw, 0⟩
def XLT_INVAL_STAT.HOLDERS : Fld := ⟨.XLT_INVAL_STAT, ⟨8, 24⟩, .ro, 0⟩
def XLT_INVAL_STAT.OPEN : Fld := ⟨.XLT_INVAL_STAT, ⟨3, 5⟩, .ro, 0⟩
def XLT_INVAL_STAT.BUSY : Fld := ⟨.XLT_INVAL_STAT, ⟨2, 1⟩, .ro, 0⟩
def XLT_INVAL_STAT.DROPPED : Fld := ⟨.XLT_INVAL_STAT, ⟨1, 1⟩, .w1c, 0⟩
def XLT_INVAL_STAT.DONE : Fld := ⟨.XLT_INVAL_STAT, ⟨0, 1⟩, .w1c, 0⟩
def XLT_SPILL.SIZE : Fld := ⟨.XLT_SPILL, ⟨60, 4⟩, .rwl, 0⟩
def XLT_SPILL.BASE : Fld := ⟨.XLT_SPILL, ⟨20, 40⟩, .rwl, 0⟩
def XLT_PARKSTAT.INUSE : Fld := ⟨.XLT_PARKSTAT, ⟨0, 12⟩, .ro, 0⟩
def HOME_DIRCFG.NOFWD : Fld := ⟨.HOME_DIRCFG, ⟨1, 1⟩, .rwl, 0⟩
def HOME_DIRCFG.EN : Fld := ⟨.HOME_DIRCFG, ⟨0, 1⟩, .rwl, 0⟩
def HOME_DIRSTAT.RETRYQ : Fld := ⟨.HOME_DIRSTAT, ⟨47, 11⟩, .ro, 0⟩
def HOME_DIRSTAT.OPEN : Fld := ⟨.HOME_DIRSTAT, ⟨32, 15⟩, .ro, 0⟩
def HOME_DIRSTAT.ENTRIES : Fld := ⟨.HOME_DIRSTAT, ⟨0, 23⟩, .ro, 0⟩
def HOME_EVT.VEC : Fld := ⟨.HOME_EVT, ⟨32, 11⟩, .rw, 0⟩
def HOME_EVT.DEAD : Fld := ⟨.HOME_EVT, ⟨4, 1⟩, .w1c, 0⟩
def HOME_EVT.STRAY : Fld := ⟨.HOME_EVT, ⟨3, 1⟩, .w1c, 0⟩
def HOME_EVT.BADREQ : Fld := ⟨.HOME_EVT, ⟨2, 1⟩, .w1c, 0⟩
def HOME_EVT.TIMEOUT : Fld := ⟨.HOME_EVT, ⟨1, 1⟩, .w1c, 0⟩
def HOME_EVT.CREDIT : Fld := ⟨.HOME_EVT, ⟨0, 1⟩, .w1c, 0⟩
def HOME_DEAD.AGENT : Fld := ⟨.HOME_DEAD, ⟨32, 13⟩, .ro, 0⟩
def HOME_DEAD.POISONED : Fld := ⟨.HOME_DEAD, ⟨0, 32⟩, .ro, 0⟩
def TIER_NEARILV.HASH_OFF : Fld := ⟨.TIER_NEARILV, ⟨2, 1⟩, .rwl, 0⟩
def TIER_NEARILV.GRAN : Fld := ⟨.TIER_NEARILV, ⟨0, 2⟩, .rwl, 0⟩
def TIER_NEARCAP.RETIRED : Fld := ⟨.TIER_NEARCAP, ⟨16, 8⟩, .ro, 0⟩
def TIER_NEARCAP.EXTENTS : Fld := ⟨.TIER_NEARCAP, ⟨0, 10⟩, .ro, 576⟩
def TIER_FARCAP.SLED3 : Fld := ⟨.TIER_FARCAP, ⟨48, 16⟩, .ro, 0⟩
def TIER_FARCAP.SLED2 : Fld := ⟨.TIER_FARCAP, ⟨32, 16⟩, .ro, 0⟩
def TIER_FARCAP.SLED1 : Fld := ⟨.TIER_FARCAP, ⟨16, 16⟩, .ro, 0⟩
def TIER_FARCAP.SLED0 : Fld := ⟨.TIER_FARCAP, ⟨0, 16⟩, .ro, 0⟩
def TIER_STGPOOL.SYSRES : Fld := ⟨.TIER_STGPOOL, ⟨24, 24⟩, .rwl, 0⟩
def TIER_STGPOOL.COUNT : Fld := ⟨.TIER_STGPOOL, ⟨10, 9⟩, .rwl, 0⟩
def TIER_STGPOOL.BASE : Fld := ⟨.TIER_STGPOOL, ⟨0, 10⟩, .rwl, 0⟩
def TIER_STGSTAT.DIRTYPG : Fld := ⟨.TIER_STGSTAT, ⟨32, 27⟩, .ro, 0⟩
def TIER_STGSTAT.FREEPG : Fld := ⟨.TIER_STGSTAT, ⟨0, 27⟩, .ro, 0⟩
def TIER_STGWM.MAXAGE : Fld := ⟨.TIER_STGWM, ⟨16, 16⟩, .rw, 0⟩
def TIER_STGWM.HIGH : Fld := ⟨.TIER_STGWM, ⟨8, 8⟩, .rw, 16⟩
def TIER_STGWM.LOW : Fld := ⟨.TIER_STGWM, ⟨0, 8⟩, .rw, 8⟩
def TIER_EVT.VEC : Fld := ⟨.TIER_EVT, ⟨32, 11⟩, .rw, 0⟩
def TIER_EVT.WEAR : Fld := ⟨.TIER_EVT, ⟨3, 1⟩, .w1c, 0⟩
def TIER_EVT.QUAR : Fld := ⟨.TIER_EVT, ⟨2, 1⟩, .w1c, 0⟩
def TIER_EVT.REPAIRED : Fld := ⟨.TIER_EVT, ⟨1, 1⟩, .w1c, 0⟩
def TIER_EVT.LATE : Fld := ⟨.TIER_EVT, ⟨0, 1⟩, .w1c, 0⟩
def TIER_QUARCNT.BLOCKS : Fld := ⟨.TIER_QUARCNT, ⟨0, 32⟩, .ro, 0⟩
def TIER_WEAR.RETIRED : Fld := ⟨.TIER_WEAR, ⟨32, 32⟩, .ro, 0⟩
def TIER_WEAR.FAILCH : Fld := ⟨.TIER_WEAR, ⟨16, 8⟩, .ro, 0⟩
def TIER_WEAR.SPARE : Fld := ⟨.TIER_WEAR, ⟨0, 8⟩, .ro, 0⟩
def TIER_SCRUB.CORR : Fld := ⟨.TIER_SCRUB, ⟨32, 32⟩, .ro, 0⟩
def TIER_SCRUB.HOURS : Fld := ⟨.TIER_SCRUB, ⟨0, 8⟩, .rw, 24⟩
def ARR_CFG.MAXARR : Fld := ⟨.ARR_CFG, ⟨0, 6⟩, .rwl, 32⟩
def ARR_FENCED.FENCED : Fld := ⟨.ARR_FENCED, ⟨0, 32⟩, .ro, 0⟩
def ARR_BUSY.BUSY : Fld := ⟨.ARR_BUSY, ⟨0, 32⟩, .ro, 0⟩
def ARR_EVT.VEC : Fld := ⟨.ARR_EVT, ⟨32, 11⟩, .rw, 0⟩
def ARR_EVT.REPLAY : Fld := ⟨.ARR_EVT, ⟨1, 1⟩, .w1c, 0⟩
def ARR_EVT.FENCE : Fld := ⟨.ARR_EVT, ⟨0, 1⟩, .w1c, 0⟩
def ARR_KVLTAB.BASE : Fld := ⟨.ARR_KVLTAB, ⟨22, 38⟩, .rwl, 0⟩
def ARR_KVLTAB.EN : Fld := ⟨.ARR_KVLTAB, ⟨0, 1⟩, .rwl, 0⟩
def VSC_CTAB.BASE : Fld := ⟨.VSC_CTAB, ⟨19, 41⟩, .rwl, 0⟩
def VSC_CTAB.EN : Fld := ⟨.VSC_CTAB, ⟨0, 1⟩, .rwl, 0⟩
def VSC_CACT.ACTION : Fld := ⟨.VSC_CACT, ⟨16, 2⟩, .wo, 0⟩
def VSC_CACT.COLL : Fld := ⟨.VSC_CACT, ⟨0, 12⟩, .wo, 0⟩
def VSC_CSTAT.ACTIVE : Fld := ⟨.VSC_CSTAT, ⟨32, 13⟩, .ro, 0⟩
def VSC_CSTAT.CAUSE : Fld := ⟨.VSC_CSTAT, ⟨8, 4⟩, .ro, 0⟩
def VSC_CSTAT.REFUSED : Fld := ⟨.VSC_CSTAT, ⟨0, 1⟩, .w1c, 0⟩
def VSC_PESTAT.FAILED : Fld := ⟨.VSC_PESTAT, ⟨0, 64⟩, .ro, 0⟩
def VSC_EVT.VEC : Fld := ⟨.VSC_EVT, ⟨32, 11⟩, .rw, 0⟩
def VSC_EVT.PEFAIL : Fld := ⟨.VSC_EVT, ⟨1, 1⟩, .w1c, 0⟩
def VSC_EVT.PARTIAL : Fld := ⟨.VSC_EVT, ⟨0, 1⟩, .w1c, 0⟩
def EMB_TTAB.BASE : Fld := ⟨.EMB_TTAB, ⟨19, 41⟩, .rwl, 0⟩
def EMB_TTAB.EN : Fld := ⟨.EMB_TTAB, ⟨0, 1⟩, .rwl, 0⟩
def EMB_TACT.ACTION : Fld := ⟨.EMB_TACT, ⟨16, 2⟩, .wo, 0⟩
def EMB_TACT.TABLE : Fld := ⟨.EMB_TACT, ⟨0, 12⟩, .wo, 0⟩
def EMB_TSTAT.ACTIVE : Fld := ⟨.EMB_TSTAT, ⟨32, 13⟩, .ro, 0⟩
def EMB_TSTAT.CAUSE : Fld := ⟨.EMB_TSTAT, ⟨12, 4⟩, .ro, 0⟩
def EMB_TSTAT.REFUSED : Fld := ⟨.EMB_TSTAT, ⟨8, 1⟩, .w1c, 0⟩
def EMB_TSTAT.SKETCHES : Fld := ⟨.EMB_TSTAT, ⟨0, 6⟩, .ro, 0⟩
def EMB_EVT.VEC : Fld := ⟨.EMB_EVT, ⟨32, 11⟩, .rw, 0⟩
def EMB_EVT.VCONF : Fld := ⟨.EMB_EVT, ⟨2, 1⟩, .w1c, 0⟩
def EMB_EVT.LATEWIN : Fld := ⟨.EMB_EVT, ⟨1, 1⟩, .w1c, 0⟩
def EMB_EVT.WINTO : Fld := ⟨.EMB_EVT, ⟨0, 1⟩, .w1c, 0⟩
def SCR_EVT.VEC : Fld := ⟨.SCR_EVT, ⟨32, 11⟩, .rw, 0⟩
def SCR_EVT.DESCMIS : Fld := ⟨.SCR_EVT, ⟨1, 1⟩, .w1c, 0⟩
def SCR_EVT.REGMIS : Fld := ⟨.SCR_EVT, ⟨0, 1⟩, .w1c, 0⟩
def SCR_POOL.FREE : Fld := ⟨.SCR_POOL, ⟨0, 6⟩, .ro, 0⟩
def SCR_CFG.OWNER : Fld := ⟨.SCR_CFG, ⟨8, 2⟩, .rwl, 0⟩
def SCR_CFG.EXPEN : Fld := ⟨.SCR_CFG, ⟨4, 1⟩, .rw, 0⟩
def SCR_CFG.FOLDSEL : Fld := ⟨.SCR_CFG, ⟨2, 2⟩, .rw, 0⟩
def SCR_CFG.POLY : Fld := ⟨.SCR_CFG, ⟨0, 2⟩, .rw, 0⟩
def SCR_FOLD.FOLD : Fld := ⟨.SCR_FOLD, ⟨0, 64⟩, .rw, 0⟩
def SCR_CTL.ABORT : Fld := ⟨.SCR_CTL, ⟨2, 1⟩, .wo, 0⟩
def SCR_CTL.FINISH : Fld := ⟨.SCR_CTL, ⟨1, 1⟩, .wo, 0⟩
def SCR_CTL.START : Fld := ⟨.SCR_CTL, ⟨0, 1⟩, .wo, 0⟩
def SCR_VAL.VAL : Fld := ⟨.SCR_VAL, ⟨0, 64⟩, .rw, 0⟩
def SCR_EXP.EXP : Fld := ⟨.SCR_EXP, ⟨0, 64⟩, .rw, 0⟩
def SCR_DATA8.DATA : Fld := ⟨.SCR_DATA8, ⟨0, 8⟩, .wo, 0⟩
def SCR_DATA16.DATA : Fld := ⟨.SCR_DATA16, ⟨0, 16⟩, .wo, 0⟩
def SCR_DATA32.DATA : Fld := ⟨.SCR_DATA32, ⟨0, 32⟩, .wo, 0⟩
def SCR_STAT.ACTIVE : Fld := ⟨.SCR_STAT, ⟨3, 1⟩, .ro, 0⟩
def SCR_STAT.BUSY : Fld := ⟨.SCR_STAT, ⟨2, 1⟩, .ro, 0⟩
def SCR_STAT.MISMATCH : Fld := ⟨.SCR_STAT, ⟨1, 1⟩, .w1c, 0⟩
def SCR_STAT.DONE : Fld := ⟨.SCR_STAT, ⟨0, 1⟩, .w1c, 0⟩
def SCR_CNT.COUNT : Fld := ⟨.SCR_CNT, ⟨0, 64⟩, .rw, 0⟩
def SCR_RES.RES : Fld := ⟨.SCR_RES, ⟨0, 64⟩, .ro, 0⟩
def TIM_FTNOW.FT : Fld := ⟨.TIM_FTNOW, ⟨0, 64⟩, .ro, 0⟩
def TIM_CFG.PRIO : Fld := ⟨.TIM_CFG, ⟨32, 8⟩, .rwl, 0⟩
def TIM_CFG.HOLDMAX : Fld := ⟨.TIM_CFG, ⟨16, 16⟩, .rwl, 0⟩
def TIM_CFG.EXTREF : Fld := ⟨.TIM_CFG, ⟨2, 1⟩, .rwl, 0⟩
def TIM_CFG.EDGESYNC : Fld := ⟨.TIM_CFG, ⟨1, 1⟩, .rwl, 0⟩
def TIM_CFG.EN : Fld := ⟨.TIM_CFG, ⟨0, 1⟩, .rwl, 0⟩
def TIM_SYNC.STEPS : Fld := ⟨.TIM_SYNC, ⟨48, 16⟩, .ro, 0⟩
def TIM_SYNC.GM : Fld := ⟨.TIM_SYNC, ⟨32, 10⟩, .ro, 0⟩
def TIM_SYNC.DEPTH : Fld := ⟨.TIM_SYNC, ⟨28, 4⟩, .ro, 0⟩
def TIM_SYNC.PORT : Fld := ⟨.TIM_SYNC, ⟨24, 4⟩, .ro, 15⟩
def TIM_SYNC.BOUND : Fld := ⟨.TIM_SYNC, ⟨8, 11⟩, .ro, 2047⟩
def TIM_SYNC.STATE : Fld := ⟨.TIM_SYNC, ⟨0, 3⟩, .ro, 0⟩
def TIM_OFFSET.OFFSET : Fld := ⟨.TIM_OFFSET, ⟨0, 64⟩, .ro, 0⟩
def TIM_RATE.RATE : Fld := ⟨.TIM_RATE, ⟨0, 64⟩, .ro, 439804651110⟩
def TIM_EPOCH.EPOCH : Fld := ⟨.TIM_EPOCH, ⟨0, 64⟩, .ro, 0⟩
def TIM_EVT.VEC : Fld := ⟨.TIM_EVT, ⟨32, 11⟩, .rw, 0⟩
def TIM_EVT.REFFAR : Fld := ⟨.TIM_EVT, ⟨4, 1⟩, .w1c, 0⟩
def TIM_EVT.GMCHG : Fld := ⟨.TIM_EVT, ⟨3, 1⟩, .w1c, 0⟩
def TIM_EVT.STEP : Fld := ⟨.TIM_EVT, ⟨2, 1⟩, .w1c, 0⟩
def TIM_EVT.HOLD : Fld := ⟨.TIM_EVT, ⟨1, 1⟩, .w1c, 0⟩
def TIM_EVT.LOST : Fld := ⟨.TIM_EVT, ⟨0, 1⟩, .w1c, 0⟩
def TIM_RSTAT.MISSED : Fld := ⟨.TIM_RSTAT, ⟨32, 32⟩, .ro, 0⟩
def TIM_RSTAT.LATE : Fld := ⟨.TIM_RSTAT, ⟨0, 32⟩, .ro, 0⟩
def LNK_CFG.SLOT : Fld := ⟨.LNK_CFG, ⟨3, 3⟩, .rwl, 0⟩
def LNK_CFG.MODE : Fld := ⟨.LNK_CFG, ⟨1, 2⟩, .rwl, 0⟩
def LNK_CFG.EN : Fld := ⟨.LNK_CFG, ⟨0, 1⟩, .rw, 0⟩
def LNK_STAT.PEER : Fld := ⟨.LNK_STAT, ⟨38, 10⟩, .ro, 0⟩
def LNK_STAT.CACHING : Fld := ⟨.LNK_STAT, ⟨34, 1⟩, .ro, 0⟩
def LNK_STAT.RTT : Fld := ⟨.LNK_STAT, ⟨20, 12⟩, .ro, 0⟩
def LNK_STAT.NRANK : Fld := ⟨.LNK_STAT, ⟨4, 16⟩, .ro, 0⟩
def LNK_STAT.STATE : Fld := ⟨.LNK_STAT, ⟨0, 4⟩, .ro, 0⟩
def LNK_KEYCFG.INTERVAL : Fld := ⟨.LNK_KEYCFG, ⟨32, 16⟩, .rw, 0⟩
def LNK_KEYCFG.KEYSEL : Fld := ⟨.LNK_KEYCFG, ⟨1, 1⟩, .ro, 0⟩
def LNK_KEYCFG.NEWKEY : Fld := ⟨.LNK_KEYCFG, ⟨0, 1⟩, .ro, 0⟩
def LNK_ERRFEC.UNCORR : Fld := ⟨.LNK_ERRFEC, ⟨32, 32⟩, .ro, 0⟩
def LNK_ERRFEC.CORR : Fld := ⟨.LNK_ERRFEC, ⟨0, 32⟩, .ro, 0⟩
def LNK_ERRFLIT.TAG : Fld := ⟨.LNK_ERRFLIT, ⟨32, 32⟩, .ro, 0⟩
def LNK_ERRFLIT.CRC : Fld := ⟨.LNK_ERRFLIT, ⟨0, 32⟩, .ro, 0⟩
def LNK_ERRRTY.REPLAY : Fld := ⟨.LNK_ERRRTY, ⟨32, 32⟩, .ro, 0⟩
def LNK_ERRRTY.RETRAIN : Fld := ⟨.LNK_ERRRTY, ⟨16, 16⟩, .ro, 0⟩
def LNK_ERRRTY.TRAINFAIL : Fld := ⟨.LNK_ERRRTY, ⟨0, 16⟩, .ro, 0⟩
def LNK_ERRDROP.STOMP : Fld := ⟨.LNK_ERRDROP, ⟨48, 16⟩, .ro, 0⟩
def LNK_ERRDROP.SRC : Fld := ⟨.LNK_ERRDROP, ⟨32, 16⟩, .ro, 0⟩
def LNK_ERRDROP.HOP : Fld := ⟨.LNK_ERRDROP, ⟨16, 16⟩, .ro, 0⟩
def LNK_ERRDROP.ROUTE : Fld := ⟨.LNK_ERRDROP, ⟨0, 16⟩, .ro, 0⟩
def LNK_HB.TXSEQ : Fld := ⟨.LNK_HB, ⟨32, 16⟩, .ro, 0⟩
def LNK_HB.RXSEQ : Fld := ⟨.LNK_HB, ⟨16, 16⟩, .ro, 0⟩
def LNK_HB.MISSES : Fld := ⟨.LNK_HB, ⟨0, 2⟩, .ro, 0⟩
def LNK_RANK.RTVER : Fld := ⟨.LNK_RANK, ⟨32, 16⟩, .rw, 0⟩
def LNK_RANK.RANK : Fld := ⟨.LNK_RANK, ⟨0, 16⟩, .rw, 0⟩
def LNK_EVT.VEC : Fld := ⟨.LNK_EVT, ⟨32, 11⟩, .rw, 0⟩
def LNK_EVT.BADPARAM : Fld := ⟨.LNK_EVT, ⟨4, 1⟩, .w1c, 0⟩
def LNK_EVT.DROP : Fld := ⟨.LNK_EVT, ⟨3, 1⟩, .w1c, 0⟩
def LNK_EVT.TAGFAIL : Fld := ⟨.LNK_EVT, ⟨2, 1⟩, .w1c, 0⟩
def LNK_EVT.RETRAIN : Fld := ⟨.LNK_EVT, ⟨1, 1⟩, .w1c, 0⟩
def LNK_EVT.DOWN : Fld := ⟨.LNK_EVT, ⟨0, 1⟩, .w1c, 0⟩
def LNK_RT.VALID : Fld := ⟨.LNK_RT, ⟨63, 1⟩, .rw, 0⟩
def LNK_RT.HOPS : Fld := ⟨.LNK_RT, ⟨59, 4⟩, .rw, 0⟩
def LNK_RT.AMASK : Fld := ⟨.LNK_RT, ⟨12, 12⟩, .rw, 0⟩
def LNK_RT.PMASK : Fld := ⟨.LNK_RT, ⟨0, 12⟩, .rw, 0⟩
def RED_WARD.BASE : Fld := ⟨.RED_WARD, ⟨23, 37⟩, .rw, 0⟩
def RED_WARD.EN : Fld := ⟨.RED_WARD, ⟨0, 1⟩, .rw, 0⟩
def RED_EVT.VEC : Fld := ⟨.RED_EVT, ⟨32, 11⟩, .rw, 0⟩
def RED_EVT.CUT : Fld := ⟨.RED_EVT, ⟨6, 1⟩, .w1c, 0⟩
def RED_EVT.PLUMB : Fld := ⟨.RED_EVT, ⟨5, 1⟩, .w1c, 0⟩
def RED_EVT.LOST : Fld := ⟨.RED_EVT, ⟨4, 1⟩, .w1c, 0⟩
def RED_EVT.DEGRADED : Fld := ⟨.RED_EVT, ⟨3, 1⟩, .w1c, 0⟩
def RED_EVT.FENCE : Fld := ⟨.RED_EVT, ⟨2, 1⟩, .w1c, 0⟩
def RED_EVT.NOWARD : Fld := ⟨.RED_EVT, ⟨1, 1⟩, .w1c, 0⟩
def RED_EVT.REBUILD : Fld := ⟨.RED_EVT, ⟨0, 1⟩, .w1c, 0⟩
def RED_RPTSTAT.NEXTSEQ : Fld := ⟨.RED_RPTSTAT, ⟨32, 32⟩, .ro, 0⟩
def RED_RPTSTAT.UNACK : Fld := ⟨.RED_RPTSTAT, ⟨9, 9⟩, .ro, 0⟩
def RED_RPTSTAT.OVF : Fld := ⟨.RED_RPTSTAT, ⟨0, 1⟩, .w1c, 0⟩
def RED_FMCFG.UDPPORT : Fld := ⟨.RED_FMCFG, ⟨48, 16⟩, .rwl, 0⟩
def RED_FMCFG.IPV4 : Fld := ⟨.RED_FMCFG, ⟨16, 32⟩, .rwl, 0⟩
def RED_FMCFG.EN : Fld := ⟨.RED_FMCFG, ⟨0, 1⟩, .rwl, 0⟩
def RED_PLUMB.TOL : Fld := ⟨.RED_PLUMB, ⟨32, 8⟩, .rw, 0⟩
def RED_PLUMB.PERIOD : Fld := ⟨.RED_PLUMB, ⟨0, 16⟩, .rw, 4096⟩
def RED_PLUMBSTAT.UNRES : Fld := ⟨.RED_PLUMBSTAT, ⟨48, 16⟩, .ro, 0⟩
def RED_PLUMBSTAT.FENCED : Fld := ⟨.RED_PLUMBSTAT, ⟨32, 16⟩, .ro, 0⟩
def RED_PLUMBSTAT.CHECKS : Fld := ⟨.RED_PLUMBSTAT, ⟨0, 32⟩, .ro, 0⟩
def RED_CUTCFG.MAXHOLD : Fld := ⟨.RED_CUTCFG, ⟨32, 16⟩, .rw, 1500⟩
def RED_CUTCFG.RESCOUNT : Fld := ⟨.RED_CUTCFG, ⟨16, 10⟩, .rw, 0⟩
def RED_CUTCFG.RESBASE : Fld := ⟨.RED_CUTCFG, ⟨0, 10⟩, .rw, 0⟩
def RED_CUTAREA.PERSLOT : Fld := ⟨.RED_CUTAREA, ⟨18, 10⟩, .rw, 0⟩
def RED_CUTAREA.FIRST : Fld := ⟨.RED_CUTAREA, ⟨0, 18⟩, .rw, 0⟩
def RED_CUTSTAT.HOLDMS : Fld := ⟨.RED_CUTSTAT, ⟨32, 32⟩, .ro, 0⟩
def RED_CUTSTAT.SLOT : Fld := ⟨.RED_CUTSTAT, ⟨9, 1⟩, .ro, 0⟩
def RED_CUTSTAT.STATE : Fld := ⟨.RED_CUTSTAT, ⟨0, 3⟩, .ro, 0⟩
def RED_CUTSEAL.CUTID : Fld := ⟨.RED_CUTSEAL, ⟨0, 64⟩, .ro, 0⟩
def RED_STANDIN.VALID : Fld := ⟨.RED_STANDIN, ⟨63, 1⟩, .rw, 0⟩
def RED_STANDIN.CHIP : Fld := ⟨.RED_STANDIN, ⟨0, 10⟩, .rw, 0⟩
def RED_FENCED.CHIPS : Fld := ⟨.RED_FENCED, ⟨0, 64⟩, .ro, 0⟩
def RED_RPT.WORD : Fld := ⟨.RED_RPT, ⟨0, 64⟩, .ro, 0⟩
def SEC_MODE.SYSNEAR : Fld := ⟨.SEC_MODE, ⟨1, 8⟩, .rwl, 0⟩
def SEC_MODE.MODE : Fld := ⟨.SEC_MODE, ⟨0, 1⟩, .rwl, 0⟩
def SEC_BOOT.VAULT : Fld := ⟨.SEC_BOOT, ⟨11, 1⟩, .ro, 0⟩
def SEC_BOOT.SEALED : Fld := ⟨.SEC_BOOT, ⟨10, 1⟩, .ro, 0⟩
def SEC_BOOT.ERR : Fld := ⟨.SEC_BOOT, ⟨6, 4⟩, .ro, 0⟩
def SEC_BOOT.STAGE : Fld := ⟨.SEC_BOOT, ⟨0, 3⟩, .ro, 0⟩
def SEC_EVT.VEC : Fld := ⟨.SEC_EVT, ⟨32, 11⟩, .rw, 0⟩
def SEC_EVT.ORDER : Fld := ⟨.SEC_EVT, ⟨2, 1⟩, .w1c, 0⟩
def SEC_EVT.LINKAUTH : Fld := ⟨.SEC_EVT, ⟨1, 1⟩, .w1c, 0⟩
def SEC_EVT.REFUSED : Fld := ⟨.SEC_EVT, ⟨0, 1⟩, .w1c, 0⟩
def SEC_FSID.FSID : Fld := ⟨.SEC_FSID, ⟨0, 64⟩, .ro, 0⟩
def SEC_FSCMD.CREATE : Fld := ⟨.SEC_FSCMD, ⟨0, 1⟩, .wo, 0⟩
def SEC_OSEQ.OSEQ : Fld := ⟨.SEC_OSEQ, ⟨0, 64⟩, .ro, 0⟩
def SEC_DBG.LEVEL : Fld := ⟨.SEC_DBG, ⟨1, 3⟩, .ro, 0⟩
def SEC_DBG.UNLOCKED : Fld := ⟨.SEC_DBG, ⟨0, 1⟩, .ro, 0⟩
def PWR_STATE.REQ : Fld := ⟨.PWR_STATE, ⟨3, 3⟩, .wo, 0⟩
def PWR_STATE.CUR : Fld := ⟨.PWR_STATE, ⟨0, 3⟩, .ro, 0⟩
def PWR_CFG.AIDLE : Fld := ⟨.PWR_CFG, ⟨2, 16⟩, .rwl, 1000⟩
def PWR_CFG.EGATE : Fld := ⟨.PWR_CFG, ⟨1, 1⟩, .rwl, 1⟩
def PWR_CFG.AGATE : Fld := ⟨.PWR_CFG, ⟨0, 1⟩, .rwl, 1⟩
def PWR_LIMIT.PEAK : Fld := ⟨.PWR_LIMIT, ⟨32, 32⟩, .rwl, 1300⟩
def PWR_LIMIT.SUST : Fld := ⟨.PWR_LIMIT, ⟨0, 32⟩, .rwl, 1100⟩
def PWR_MON.TMAX : Fld := ⟨.PWR_MON, ⟨48, 16⟩, .ro, 0⟩
def PWR_MON.STEP : Fld := ⟨.PWR_MON, ⟨44, 4⟩, .ro, 0⟩
def PWR_MON.MEAN : Fld := ⟨.PWR_MON, ⟨16, 16⟩, .ro, 0⟩
def PWR_MON.LAST : Fld := ⟨.PWR_MON, ⟨0, 16⟩, .ro, 0⟩
def PWR_EVT.VEC : Fld := ⟨.PWR_EVT, ⟨32, 11⟩, .rw, 0⟩
def PWR_EVT.THERMTRIP : Fld := ⟨.PWR_EVT, ⟨3, 1⟩, .w1c, 0⟩
def PWR_EVT.SLED : Fld := ⟨.PWR_EVT, ⟨2, 1⟩, .w1c, 0⟩
def PWR_EVT.THROT : Fld := ⟨.PWR_EVT, ⟨1, 1⟩, .w1c, 0⟩
def PWR_EVT.BADREQ : Fld := ⟨.PWR_EVT, ⟨0, 1⟩, .w1c, 0⟩
def PWR_SLED.LEFT : Fld := ⟨.PWR_SLED, ⟨32, 32⟩, .rws, 0⟩
def PWR_SLED.STATE : Fld := ⟨.PWR_SLED, ⟨4, 4⟩, .rws, 0⟩
def PWR_SLED.SURPRISE : Fld := ⟨.PWR_SLED, ⟨3, 1⟩, .rws, 0⟩
def PWR_SLED.PRESS : Fld := ⟨.PWR_SLED, ⟨0, 1⟩, .wo, 0⟩
def CNT_CTL.EN : Fld := ⟨.CNT_CTL, ⟨0, 1⟩, .rw, 0⟩
def CNT_DUMPCTL.PERIOD : Fld := ⟨.CNT_DUMPCTL, ⟨32, 32⟩, .rw, 0⟩
def CNT_DUMPCTL.NOW : Fld := ⟨.CNT_DUMPCTL, ⟨3, 1⟩, .wo, 0⟩
def CNT_DUMPCTL.CLR : Fld := ⟨.CNT_DUMPCTL, ⟨2, 1⟩, .rw, 0⟩
def CNT_DUMPCTL.MODE : Fld := ⟨.CNT_DUMPCTL, ⟨0, 1⟩, .rw, 0⟩
def CNT_DTIME.DTIME : Fld := ⟨.CNT_DTIME, ⟨0, 64⟩, .rw, 0⟩
def CNT_DRING.ADDR : Fld := ⟨.CNT_DRING, ⟨11, 53⟩, .rw, 0⟩
def CNT_DRING.LOG2N : Fld := ⟨.CNT_DRING, ⟨1, 4⟩, .rw, 0⟩
def CNT_DRING.LOC : Fld := ⟨.CNT_DRING, ⟨0, 1⟩, .rw, 0⟩
def CNT_DHEAD.INDEX : Fld := ⟨.CNT_DHEAD, ⟨0, 16⟩, .rw, 0⟩
def CNT_DSTAT.SKIPPED : Fld := ⟨.CNT_DSTAT, ⟨32, 32⟩, .ro, 0⟩
def CNT_DSTAT.TAIL : Fld := ⟨.CNT_DSTAT, ⟨0, 16⟩, .ro, 0⟩
def CNT_SMPCTL.PERIOD : Fld := ⟨.CNT_SMPCTL, ⟨32, 32⟩, .rw, 0⟩
def CNT_SMPCTL.CTR : Fld := ⟨.CNT_SMPCTL, ⟨0, 7⟩, .rw, 0⟩
def CNT_SRING.ADDR : Fld := ⟨.CNT_SRING, ⟨6, 58⟩, .rw, 0⟩
def CNT_SRING.LOG2N : Fld := ⟨.CNT_SRING, ⟨1, 5⟩, .rw, 0⟩
def CNT_SRING.LOC : Fld := ⟨.CNT_SRING, ⟨0, 1⟩, .rw, 0⟩
def CNT_SHEAD.INDEX : Fld := ⟨.CNT_SHEAD, ⟨0, 16⟩, .rw, 0⟩
def CNT_SSTAT.DROPPED : Fld := ⟨.CNT_SSTAT, ⟨32, 32⟩, .ro, 0⟩
def CNT_SSTAT.BUF : Fld := ⟨.CNT_SSTAT, ⟨16, 9⟩, .ro, 0⟩
def CNT_SSTAT.TAIL : Fld := ⟨.CNT_SSTAT, ⟨0, 16⟩, .ro, 0⟩
def CNT_EVT.VEC : Fld := ⟨.CNT_EVT, ⟨32, 11⟩, .rw, 0⟩
def CNT_EVT.SMPDROP : Fld := ⟨.CNT_EVT, ⟨3, 1⟩, .w1c, 0⟩
def CNT_EVT.SMP : Fld := ⟨.CNT_EVT, ⟨2, 1⟩, .w1c, 0⟩
def CNT_EVT.DSKIP : Fld := ⟨.CNT_EVT, ⟨1, 1⟩, .w1c, 0⟩
def CNT_EVT.DUMP : Fld := ⟨.CNT_EVT, ⟨0, 1⟩, .w1c, 0⟩
def CNT_GCFG.CLASS : Fld := ⟨.CNT_GCFG, ⟨48, 16⟩, .rw, 0⟩
def CNT_GCFG.CLASSEN : Fld := ⟨.CNT_GCFG, ⟨47, 1⟩, .rw, 0⟩
def CNT_GCFG.SAEN : Fld := ⟨.CNT_GCFG, ⟨46, 1⟩, .rw, 0⟩
def CNT_GCFG.MKIND : Fld := ⟨.CNT_GCFG, ⟨43, 3⟩, .rw, 0⟩
def CNT_GCFG.MNUM : Fld := ⟨.CNT_GCFG, ⟨33, 10⟩, .rw, 0⟩
def CNT_GCFG.TOWN : Fld := ⟨.CNT_GCFG, ⟨32, 1⟩, .rw, 0⟩
def CNT_GCFG.TENANT : Fld := ⟨.CNT_GCFG, ⟨14, 9⟩, .rw, 0⟩
def CNT_GCFG.TSEL : Fld := ⟨.CNT_GCFG, ⟨3, 1⟩, .rw, 0⟩
def CNT_GCFG.PRIV : Fld := ⟨.CNT_GCFG, ⟨0, 3⟩, .rw, 0⟩
def CNT_GSALO.SA : Fld := ⟨.CNT_GSALO, ⟨0, 60⟩, .rw, 0⟩
def CNT_GSAHI.SA : Fld := ⟨.CNT_GSAHI, ⟨0, 60⟩, .rw, 0⟩
def CNT_EVSEL.EVENT : Fld := ⟨.CNT_EVSEL, ⟨0, 16⟩, .rw, 0⟩
def CNT_VAL.COUNT : Fld := ⟨.CNT_VAL, ⟨0, 64⟩, .rw, 0⟩
def LDG_SEQ.NEXT : Fld := ⟨.LDG_SEQ, ⟨0, 64⟩, .ro, 1⟩
def LDG_STAT.SUPPR : Fld := ⟨.LDG_STAT, ⟨0, 64⟩, .ro, 0⟩
def LDG_WINSEL.PAGE : Fld := ⟨.LDG_WINSEL, ⟨0, 8⟩, .rw, 0⟩
def LDG_STREAM.UDPPORT : Fld := ⟨.LDG_STREAM, ⟨48, 16⟩, .rw, 0⟩
def LDG_STREAM.IPV4 : Fld := ⟨.LDG_STREAM, ⟨16, 32⟩, .rw, 0⟩
def LDG_STREAM.MINSEV : Fld := ⟨.LDG_STREAM, ⟨1, 2⟩, .rw, 0⟩
def LDG_STREAM.EN : Fld := ⟨.LDG_STREAM, ⟨0, 1⟩, .rw, 0⟩
def LDG_EVT.VEC : Fld := ⟨.LDG_EVT, ⟨32, 11⟩, .rw, 0⟩
def LDG_EVT.SUPPR : Fld := ⟨.LDG_EVT, ⟨2, 1⟩, .w1c, 0⟩
def LDG_EVT.FATAL : Fld := ⟨.LDG_EVT, ⟨1, 1⟩, .w1c, 0⟩
def LDG_EVT.ERROR : Fld := ⟨.LDG_EVT, ⟨0, 1⟩, .w1c, 0⟩
def LDG_WIN.WORD : Fld := ⟨.LDG_WIN, ⟨0, 64⟩, .ro, 0⟩
def TEN_XLTROOT.BASE : Fld := ⟨.TEN_XLTROOT, ⟨12, 48⟩, .rw, 0⟩
def TEN_XLTROOT.VALID : Fld := ⟨.TEN_XLTROOT, ⟨0, 1⟩, .rw, 0⟩
def TEN_FRING_BASE.ADDR : Fld := ⟨.TEN_FRING_BASE, ⟨5, 59⟩, .rw, 0⟩
def TEN_FRING_BASE.LOC : Fld := ⟨.TEN_FRING_BASE, ⟨0, 1⟩, .rw, 0⟩
def TEN_FRING_CTL.VEC : Fld := ⟨.TEN_FRING_CTL, ⟨16, 11⟩, .rw, 0⟩
def TEN_FRING_CTL.LOG2N : Fld := ⟨.TEN_FRING_CTL, ⟨1, 4⟩, .rw, 0⟩
def TEN_FRING_CTL.EN : Fld := ⟨.TEN_FRING_CTL, ⟨0, 1⟩, .rw, 0⟩
def TEN_FRING_HEAD.INDEX : Fld := ⟨.TEN_FRING_HEAD, ⟨0, 16⟩, .rw, 0⟩
def TEN_FRING_TAIL.INDEX : Fld := ⟨.TEN_FRING_TAIL, ⟨0, 16⟩, .ro, 0⟩
def TEN_FSTAT.PARKED : Fld := ⟨.TEN_FSTAT, ⟨32, 12⟩, .ro, 0⟩
def TEN_FSTAT.STALE : Fld := ⟨.TEN_FSTAT, ⟨2, 1⟩, .w1c, 0⟩
def TEN_FSTAT.PFULL : Fld := ⟨.TEN_FSTAT, ⟨1, 1⟩, .w1c, 0⟩
def TEN_FSTAT.OVF : Fld := ⟨.TEN_FSTAT, ⟨0, 1⟩, .w1c, 0⟩
def TEN_FRESUME.ACTION : Fld := ⟨.TEN_FRESUME, ⟨16, 2⟩, .wo, 0⟩
def TEN_FRESUME.GEN : Fld := ⟨.TEN_FRESUME, ⟨11, 5⟩, .wo, 0⟩
def TEN_FRESUME.SLOT : Fld := ⟨.TEN_FRESUME, ⟨0, 11⟩, .wo, 0⟩
def TEN_XLTEPOCH.EPOCH : Fld := ⟨.TEN_XLTEPOCH, ⟨0, 16⟩, .ro, 0⟩
def TEN_PARKQ.LIMIT : Fld := ⟨.TEN_PARKQ, ⟨0, 12⟩, .rw, 0⟩
def TEN_QSLOTQ.LIMIT : Fld := ⟨.TEN_QSLOTQ, ⟨0, 15⟩, .rw, 0⟩
def TEN_CAGRP.GROUPS : Fld := ⟨.TEN_CAGRP, ⟨0, 64⟩, .rw, 0⟩
def TEN_COHEVT.PEND : Fld := ⟨.TEN_COHEVT, ⟨63, 1⟩, .w1c, 0⟩
def TEN_COHEVT.VEC : Fld := ⟨.TEN_COHEVT, ⟨48, 11⟩, .rw, 0⟩
def TEN_COHEVT.AGENT : Fld := ⟨.TEN_COHEVT, ⟨32, 13⟩, .ro, 0⟩
def TEN_COHEVT.COUNT : Fld := ⟨.TEN_COHEVT, ⟨0, 32⟩, .ro, 0⟩
def TEN_QUOTA_NEAR.USED : Fld := ⟨.TEN_QUOTA_NEAR, ⟨32, 32⟩, .ro, 0⟩
def TEN_QUOTA_NEAR.LIMIT : Fld := ⟨.TEN_QUOTA_NEAR, ⟨0, 32⟩, .rw, 0⟩
def TEN_QUOTA_FAR.USED : Fld := ⟨.TEN_QUOTA_FAR, ⟨32, 32⟩, .ro, 0⟩
def TEN_QUOTA_FAR.LIMIT : Fld := ⟨.TEN_QUOTA_FAR, ⟨0, 32⟩, .rw, 0⟩
def TEN_QUOTA_STG.USED : Fld := ⟨.TEN_QUOTA_STG, ⟨32, 32⟩, .ro, 0⟩
def TEN_QUOTA_STG.LIMIT : Fld := ⟨.TEN_QUOTA_STG, ⟨0, 32⟩, .rw, 0⟩
def TEN_QUOTA_TALLY.USED : Fld := ⟨.TEN_QUOTA_TALLY, ⟨32, 32⟩, .ro, 0⟩
def TEN_QUOTA_TALLY.LIMIT : Fld := ⟨.TEN_QUOTA_TALLY, ⟨0, 32⟩, .rw, 0⟩
def TEN_QUOTA_QUEUE.USED : Fld := ⟨.TEN_QUOTA_QUEUE, ⟨32, 32⟩, .ro, 0⟩
def TEN_QUOTA_QUEUE.LIMIT : Fld := ⟨.TEN_QUOTA_QUEUE, ⟨0, 32⟩, .rw, 0⟩
def TEN_QSTAT.QUEUE : Fld := ⟨.TEN_QSTAT, ⟨4, 1⟩, .w1c, 0⟩
def TEN_QSTAT.TALLY : Fld := ⟨.TEN_QSTAT, ⟨3, 1⟩, .w1c, 0⟩
def TEN_QSTAT.STG : Fld := ⟨.TEN_QSTAT, ⟨2, 1⟩, .w1c, 0⟩
def TEN_QSTAT.FAR : Fld := ⟨.TEN_QSTAT, ⟨1, 1⟩, .w1c, 0⟩
def TEN_QSTAT.NEAR : Fld := ⟨.TEN_QSTAT, ⟨0, 1⟩, .w1c, 0⟩
def TEN_ARRQ.SHARE : Fld := ⟨.TEN_ARRQ, ⟨0, 9⟩, .rw, 0⟩
def TEN_KVPOOL.EN : Fld := ⟨.TEN_KVPOOL, ⟨63, 1⟩, .rw, 0⟩
def TEN_KVPOOL.TIER : Fld := ⟨.TEN_KVPOOL, ⟨62, 1⟩, .rw, 0⟩
def TEN_KVPOOL.FIRST : Fld := ⟨.TEN_KVPOOL, ⟨44, 18⟩, .rw, 0⟩
def TEN_KVPOOL.COUNT : Fld := ⟨.TEN_KVPOOL, ⟨28, 16⟩, .rw, 0⟩
def TEN_KVPOOL.SLOT : Fld := ⟨.TEN_KVPOOL, ⟨17, 11⟩, .rw, 0⟩
def TEN_KVLEASE.USED : Fld := ⟨.TEN_KVLEASE, ⟨32, 32⟩, .ro, 0⟩
def TEN_KVLEASE.LIMIT : Fld := ⟨.TEN_KVLEASE, ⟨0, 32⟩, .rw, 0⟩
def TEN_KVSTAT.FREE : Fld := ⟨.TEN_KVSTAT, ⟨0, 32⟩, .ro, 0⟩
def TEN_KVEVT.PEND : Fld := ⟨.TEN_KVEVT, ⟨63, 1⟩, .w1c, 0⟩
def TEN_KVEVT.VEC : Fld := ⟨.TEN_KVEVT, ⟨48, 11⟩, .rw, 0⟩
def TEN_KVEVT.EXPIRED : Fld := ⟨.TEN_KVEVT, ⟨0, 32⟩, .ro, 0⟩
def TEN_LSTAT.LATEEND : Fld := ⟨.TEN_LSTAT, ⟨32, 32⟩, .ro, 0⟩
def TEN_LSTAT.LATEW : Fld := ⟨.TEN_LSTAT, ⟨0, 32⟩, .ro, 0⟩
def TEN_EMBSTAT.WINTO : Fld := ⟨.TEN_EMBSTAT, ⟨32, 32⟩, .ro, 0⟩
def TEN_EMBSTAT.VCONF : Fld := ⟨.TEN_EMBSTAT, ⟨0, 32⟩, .ro, 0⟩
def TEN_VSCQ.SHARE : Fld := ⟨.TEN_VSCQ, ⟨0, 9⟩, .rw, 0⟩
def TEN_VSCSTAT.DROPPED : Fld := ⟨.TEN_VSCSTAT, ⟨32, 32⟩, .ro, 0⟩
def TEN_VSCSTAT.PARTIAL : Fld := ⟨.TEN_VSCSTAT, ⟨0, 32⟩, .ro, 0⟩
def TEN_SCRQ.LIMIT : Fld := ⟨.TEN_SCRQ, ⟨0, 6⟩, .rw, 0⟩
def TEN_FTNOW.FT : Fld := ⟨.TEN_FTNOW, ⟨0, 64⟩, .ro, 0⟩
def TEN_RAISESTAT.MISSED : Fld := ⟨.TEN_RAISESTAT, ⟨32, 32⟩, .ro, 0⟩
def TEN_RAISESTAT.LATE : Fld := ⟨.TEN_RAISESTAT, ⟨0, 32⟩, .ro, 0⟩
def TEN_LNKQ.SHARE : Fld := ⟨.TEN_LNKQ, ⟨0, 9⟩, .rw, 0⟩
def TEN_SECCTL.KGEN : Fld := ⟨.TEN_SECCTL, ⟨48, 16⟩, .ro, 0⟩
def TEN_SECCTL.EDGE : Fld := ⟨.TEN_SECCTL, ⟨16, 8⟩, .rw, 0⟩
def TEN_SECCTL.PART : Fld := ⟨.TEN_SECCTL, ⟨12, 4⟩, .rw, 0⟩
def TEN_SECCTL.EDONE : Fld := ⟨.TEN_SECCTL, ⟨5, 1⟩, .w1c, 0⟩
def TEN_SECCTL.RSTDONE : Fld := ⟨.TEN_SECCTL, ⟨4, 1⟩, .w1c, 0⟩
def TEN_SECCTL.ERASE : Fld := ⟨.TEN_SECCTL, ⟨3, 1⟩, .wo, 0⟩
def TEN_SECCTL.RESET : Fld := ⟨.TEN_SECCTL, ⟨2, 1⟩, .wo, 0⟩
def TEN_SECCTL.EN : Fld := ⟨.TEN_SECCTL, ⟨0, 1⟩, .rw, 0⟩
def TEN_DIRQ.WAYS : Fld := ⟨.TEN_DIRQ, ⟨0, 16⟩, .rw, 0⟩
def TEN_NEARQ.SHARE : Fld := ⟨.TEN_NEARQ, ⟨0, 9⟩, .rw, 0⟩
def TEN_CNTGRP.VALID : Fld := ⟨.TEN_CNTGRP, ⟨4, 1⟩, .ro, 0⟩
def TEN_CNTGRP.GROUP : Fld := ⟨.TEN_CNTGRP, ⟨0, 4⟩, .ro, 0⟩
def TEN_CNT.COUNT : Fld := ⟨.TEN_CNT, ⟨0, 64⟩, .ro, 0⟩

/-- The field map of a register, reserved bits left out (R6: they read zero and ignore writes). -/
def fieldsOf : Reg → List Fld
  | .GLB_ID => [GLB_ID.REV, GLB_ID.DEVICE, GLB_ID.VENDOR]
  | .GLB_STAT => [GLB_STAT.CAUSE, GLB_STAT.STAGE, GLB_STAT.FAILED, GLB_STAT.READY]
  | .GLB_CHIPID => [GLB_CHIPID.VALID, GLB_CHIPID.CHIP]
  | .GLB_RST => [GLB_RST.WARM, GLB_RST.COLD]
  | .HST_LINK => [HST_LINK.RETRAINS, HST_LINK.FLIT, HST_LINK.WIDTH, HST_LINK.SPEED]
  | .HST_EVT => [HST_EVT.VEC, HST_EVT.IDEFAIL, HST_EVT.HOSTERR, HST_EVT.BADACC, HST_EVT.DOWNGRADE, HST_EVT.READY]
  | .HST_IDECFG => [HST_IDECFG.ACTIVE, HST_IDECFG.REQUIRED]
  | .QUE_GSTAT => [QUE_GSTAT.ENABLED, QUE_GSTAT.SLOTS]
  | .XLT_INVAL_ADDR => [XLT_INVAL_ADDR.ADDR]
  | .XLT_INVAL_LEN => [XLT_INVAL_LEN.LEN]
  | .XLT_INVAL_CTL => [XLT_INVAL_CTL.GO, XLT_INVAL_CTL.IRQ, XLT_INVAL_CTL.SCOPE, XLT_INVAL_CTL.KIND, XLT_INVAL_CTL.TENANT]
  | .XLT_INVAL_STAT => [XLT_INVAL_STAT.VEC, XLT_INVAL_STAT.HOLDERS, XLT_INVAL_STAT.OPEN, XLT_INVAL_STAT.BUSY, XLT_INVAL_STAT.DROPPED, XLT_INVAL_STAT.DONE]
  | .XLT_SPILL => [XLT_SPILL.SIZE, XLT_SPILL.BASE]
  | .XLT_PARKSTAT => [XLT_PARKSTAT.INUSE]
  | .HOME_DIRCFG => [HOME_DIRCFG.NOFWD, HOME_DIRCFG.EN]
  | .HOME_DIRSTAT => [HOME_DIRSTAT.RETRYQ, HOME_DIRSTAT.OPEN, HOME_DIRSTAT.ENTRIES]
  | .HOME_EVT => [HOME_EVT.VEC, HOME_EVT.DEAD, HOME_EVT.STRAY, HOME_EVT.BADREQ, HOME_EVT.TIMEOUT, HOME_EVT.CREDIT]
  | .HOME_DEAD => [HOME_DEAD.AGENT, HOME_DEAD.POISONED]
  | .TIER_NEARILV => [TIER_NEARILV.HASH_OFF, TIER_NEARILV.GRAN]
  | .TIER_NEARCAP => [TIER_NEARCAP.RETIRED, TIER_NEARCAP.EXTENTS]
  | .TIER_FARCAP => [TIER_FARCAP.SLED3, TIER_FARCAP.SLED2, TIER_FARCAP.SLED1, TIER_FARCAP.SLED0]
  | .TIER_STGPOOL => [TIER_STGPOOL.SYSRES, TIER_STGPOOL.COUNT, TIER_STGPOOL.BASE]
  | .TIER_STGSTAT => [TIER_STGSTAT.DIRTYPG, TIER_STGSTAT.FREEPG]
  | .TIER_STGWM => [TIER_STGWM.MAXAGE, TIER_STGWM.HIGH, TIER_STGWM.LOW]
  | .TIER_EVT => [TIER_EVT.VEC, TIER_EVT.WEAR, TIER_EVT.QUAR, TIER_EVT.REPAIRED, TIER_EVT.LATE]
  | .TIER_QUARCNT => [TIER_QUARCNT.BLOCKS]
  | .TIER_WEAR => [TIER_WEAR.RETIRED, TIER_WEAR.FAILCH, TIER_WEAR.SPARE]
  | .TIER_SCRUB => [TIER_SCRUB.CORR, TIER_SCRUB.HOURS]
  | .ARR_CFG => [ARR_CFG.MAXARR]
  | .ARR_FENCED => [ARR_FENCED.FENCED]
  | .ARR_BUSY => [ARR_BUSY.BUSY]
  | .ARR_EVT => [ARR_EVT.VEC, ARR_EVT.REPLAY, ARR_EVT.FENCE]
  | .ARR_KVLTAB => [ARR_KVLTAB.BASE, ARR_KVLTAB.EN]
  | .VSC_CTAB => [VSC_CTAB.BASE, VSC_CTAB.EN]
  | .VSC_CACT => [VSC_CACT.ACTION, VSC_CACT.COLL]
  | .VSC_CSTAT => [VSC_CSTAT.ACTIVE, VSC_CSTAT.CAUSE, VSC_CSTAT.REFUSED]
  | .VSC_PESTAT => [VSC_PESTAT.FAILED]
  | .VSC_EVT => [VSC_EVT.VEC, VSC_EVT.PEFAIL, VSC_EVT.PARTIAL]
  | .EMB_TTAB => [EMB_TTAB.BASE, EMB_TTAB.EN]
  | .EMB_TACT => [EMB_TACT.ACTION, EMB_TACT.TABLE]
  | .EMB_TSTAT => [EMB_TSTAT.ACTIVE, EMB_TSTAT.CAUSE, EMB_TSTAT.REFUSED, EMB_TSTAT.SKETCHES]
  | .EMB_EVT => [EMB_EVT.VEC, EMB_EVT.VCONF, EMB_EVT.LATEWIN, EMB_EVT.WINTO]
  | .SCR_EVT => [SCR_EVT.VEC, SCR_EVT.DESCMIS, SCR_EVT.REGMIS]
  | .SCR_POOL => [SCR_POOL.FREE]
  | .SCR_CFG => [SCR_CFG.OWNER, SCR_CFG.EXPEN, SCR_CFG.FOLDSEL, SCR_CFG.POLY]
  | .SCR_FOLD => [SCR_FOLD.FOLD]
  | .SCR_CTL => [SCR_CTL.ABORT, SCR_CTL.FINISH, SCR_CTL.START]
  | .SCR_VAL => [SCR_VAL.VAL]
  | .SCR_EXP => [SCR_EXP.EXP]
  | .SCR_DATA8 => [SCR_DATA8.DATA]
  | .SCR_DATA16 => [SCR_DATA16.DATA]
  | .SCR_DATA32 => [SCR_DATA32.DATA]
  | .SCR_STAT => [SCR_STAT.ACTIVE, SCR_STAT.BUSY, SCR_STAT.MISMATCH, SCR_STAT.DONE]
  | .SCR_CNT => [SCR_CNT.COUNT]
  | .SCR_RES => [SCR_RES.RES]
  | .TIM_FTNOW => [TIM_FTNOW.FT]
  | .TIM_CFG => [TIM_CFG.PRIO, TIM_CFG.HOLDMAX, TIM_CFG.EXTREF, TIM_CFG.EDGESYNC, TIM_CFG.EN]
  | .TIM_SYNC => [TIM_SYNC.STEPS, TIM_SYNC.GM, TIM_SYNC.DEPTH, TIM_SYNC.PORT, TIM_SYNC.BOUND, TIM_SYNC.STATE]
  | .TIM_OFFSET => [TIM_OFFSET.OFFSET]
  | .TIM_RATE => [TIM_RATE.RATE]
  | .TIM_EPOCH => [TIM_EPOCH.EPOCH]
  | .TIM_EVT => [TIM_EVT.VEC, TIM_EVT.REFFAR, TIM_EVT.GMCHG, TIM_EVT.STEP, TIM_EVT.HOLD, TIM_EVT.LOST]
  | .TIM_RSTAT => [TIM_RSTAT.MISSED, TIM_RSTAT.LATE]
  | .LNK_CFG => [LNK_CFG.SLOT, LNK_CFG.MODE, LNK_CFG.EN]
  | .LNK_STAT => [LNK_STAT.PEER, LNK_STAT.CACHING, LNK_STAT.RTT, LNK_STAT.NRANK, LNK_STAT.STATE]
  | .LNK_KEYCFG => [LNK_KEYCFG.INTERVAL, LNK_KEYCFG.KEYSEL, LNK_KEYCFG.NEWKEY]
  | .LNK_ERRFEC => [LNK_ERRFEC.UNCORR, LNK_ERRFEC.CORR]
  | .LNK_ERRFLIT => [LNK_ERRFLIT.TAG, LNK_ERRFLIT.CRC]
  | .LNK_ERRRTY => [LNK_ERRRTY.REPLAY, LNK_ERRRTY.RETRAIN, LNK_ERRRTY.TRAINFAIL]
  | .LNK_ERRDROP => [LNK_ERRDROP.STOMP, LNK_ERRDROP.SRC, LNK_ERRDROP.HOP, LNK_ERRDROP.ROUTE]
  | .LNK_HB => [LNK_HB.TXSEQ, LNK_HB.RXSEQ, LNK_HB.MISSES]
  | .LNK_RANK => [LNK_RANK.RTVER, LNK_RANK.RANK]
  | .LNK_EVT => [LNK_EVT.VEC, LNK_EVT.BADPARAM, LNK_EVT.DROP, LNK_EVT.TAGFAIL, LNK_EVT.RETRAIN, LNK_EVT.DOWN]
  | .LNK_RT => [LNK_RT.VALID, LNK_RT.HOPS, LNK_RT.AMASK, LNK_RT.PMASK]
  | .RED_WARD => [RED_WARD.BASE, RED_WARD.EN]
  | .RED_EVT => [RED_EVT.VEC, RED_EVT.CUT, RED_EVT.PLUMB, RED_EVT.LOST, RED_EVT.DEGRADED, RED_EVT.FENCE, RED_EVT.NOWARD, RED_EVT.REBUILD]
  | .RED_RPTSTAT => [RED_RPTSTAT.NEXTSEQ, RED_RPTSTAT.UNACK, RED_RPTSTAT.OVF]
  | .RED_FMCFG => [RED_FMCFG.UDPPORT, RED_FMCFG.IPV4, RED_FMCFG.EN]
  | .RED_PLUMB => [RED_PLUMB.TOL, RED_PLUMB.PERIOD]
  | .RED_PLUMBSTAT => [RED_PLUMBSTAT.UNRES, RED_PLUMBSTAT.FENCED, RED_PLUMBSTAT.CHECKS]
  | .RED_CUTCFG => [RED_CUTCFG.MAXHOLD, RED_CUTCFG.RESCOUNT, RED_CUTCFG.RESBASE]
  | .RED_CUTAREA => [RED_CUTAREA.PERSLOT, RED_CUTAREA.FIRST]
  | .RED_CUTSTAT => [RED_CUTSTAT.HOLDMS, RED_CUTSTAT.SLOT, RED_CUTSTAT.STATE]
  | .RED_CUTSEAL => [RED_CUTSEAL.CUTID]
  | .RED_STANDIN => [RED_STANDIN.VALID, RED_STANDIN.CHIP]
  | .RED_FENCED => [RED_FENCED.CHIPS]
  | .RED_RPT => [RED_RPT.WORD]
  | .SEC_MODE => [SEC_MODE.SYSNEAR, SEC_MODE.MODE]
  | .SEC_BOOT => [SEC_BOOT.VAULT, SEC_BOOT.SEALED, SEC_BOOT.ERR, SEC_BOOT.STAGE]
  | .SEC_EVT => [SEC_EVT.VEC, SEC_EVT.ORDER, SEC_EVT.LINKAUTH, SEC_EVT.REFUSED]
  | .SEC_FSID => [SEC_FSID.FSID]
  | .SEC_FSCMD => [SEC_FSCMD.CREATE]
  | .SEC_OSEQ => [SEC_OSEQ.OSEQ]
  | .SEC_DBG => [SEC_DBG.LEVEL, SEC_DBG.UNLOCKED]
  | .PWR_STATE => [PWR_STATE.REQ, PWR_STATE.CUR]
  | .PWR_CFG => [PWR_CFG.AIDLE, PWR_CFG.EGATE, PWR_CFG.AGATE]
  | .PWR_LIMIT => [PWR_LIMIT.PEAK, PWR_LIMIT.SUST]
  | .PWR_MON => [PWR_MON.TMAX, PWR_MON.STEP, PWR_MON.MEAN, PWR_MON.LAST]
  | .PWR_EVT => [PWR_EVT.VEC, PWR_EVT.THERMTRIP, PWR_EVT.SLED, PWR_EVT.THROT, PWR_EVT.BADREQ]
  | .PWR_SLED => [PWR_SLED.LEFT, PWR_SLED.STATE, PWR_SLED.SURPRISE, PWR_SLED.PRESS]
  | .CNT_CTL => [CNT_CTL.EN]
  | .CNT_DUMPCTL => [CNT_DUMPCTL.PERIOD, CNT_DUMPCTL.NOW, CNT_DUMPCTL.CLR, CNT_DUMPCTL.MODE]
  | .CNT_DTIME => [CNT_DTIME.DTIME]
  | .CNT_DRING => [CNT_DRING.ADDR, CNT_DRING.LOG2N, CNT_DRING.LOC]
  | .CNT_DHEAD => [CNT_DHEAD.INDEX]
  | .CNT_DSTAT => [CNT_DSTAT.SKIPPED, CNT_DSTAT.TAIL]
  | .CNT_SMPCTL => [CNT_SMPCTL.PERIOD, CNT_SMPCTL.CTR]
  | .CNT_SRING => [CNT_SRING.ADDR, CNT_SRING.LOG2N, CNT_SRING.LOC]
  | .CNT_SHEAD => [CNT_SHEAD.INDEX]
  | .CNT_SSTAT => [CNT_SSTAT.DROPPED, CNT_SSTAT.BUF, CNT_SSTAT.TAIL]
  | .CNT_EVT => [CNT_EVT.VEC, CNT_EVT.SMPDROP, CNT_EVT.SMP, CNT_EVT.DSKIP, CNT_EVT.DUMP]
  | .CNT_GCFG => [CNT_GCFG.CLASS, CNT_GCFG.CLASSEN, CNT_GCFG.SAEN, CNT_GCFG.MKIND, CNT_GCFG.MNUM, CNT_GCFG.TOWN, CNT_GCFG.TENANT, CNT_GCFG.TSEL, CNT_GCFG.PRIV]
  | .CNT_GSALO => [CNT_GSALO.SA]
  | .CNT_GSAHI => [CNT_GSAHI.SA]
  | .CNT_EVSEL => [CNT_EVSEL.EVENT]
  | .CNT_VAL => [CNT_VAL.COUNT]
  | .LDG_SEQ => [LDG_SEQ.NEXT]
  | .LDG_STAT => [LDG_STAT.SUPPR]
  | .LDG_WINSEL => [LDG_WINSEL.PAGE]
  | .LDG_STREAM => [LDG_STREAM.UDPPORT, LDG_STREAM.IPV4, LDG_STREAM.MINSEV, LDG_STREAM.EN]
  | .LDG_EVT => [LDG_EVT.VEC, LDG_EVT.SUPPR, LDG_EVT.FATAL, LDG_EVT.ERROR]
  | .LDG_WIN => [LDG_WIN.WORD]
  | .TEN_XLTROOT => [TEN_XLTROOT.BASE, TEN_XLTROOT.VALID]
  | .TEN_FRING_BASE => [TEN_FRING_BASE.ADDR, TEN_FRING_BASE.LOC]
  | .TEN_FRING_CTL => [TEN_FRING_CTL.VEC, TEN_FRING_CTL.LOG2N, TEN_FRING_CTL.EN]
  | .TEN_FRING_HEAD => [TEN_FRING_HEAD.INDEX]
  | .TEN_FRING_TAIL => [TEN_FRING_TAIL.INDEX]
  | .TEN_FSTAT => [TEN_FSTAT.PARKED, TEN_FSTAT.STALE, TEN_FSTAT.PFULL, TEN_FSTAT.OVF]
  | .TEN_FRESUME => [TEN_FRESUME.ACTION, TEN_FRESUME.GEN, TEN_FRESUME.SLOT]
  | .TEN_XLTEPOCH => [TEN_XLTEPOCH.EPOCH]
  | .TEN_PARKQ => [TEN_PARKQ.LIMIT]
  | .TEN_QSLOTQ => [TEN_QSLOTQ.LIMIT]
  | .TEN_CAGRP => [TEN_CAGRP.GROUPS]
  | .TEN_COHEVT => [TEN_COHEVT.PEND, TEN_COHEVT.VEC, TEN_COHEVT.AGENT, TEN_COHEVT.COUNT]
  | .TEN_QUOTA_NEAR => [TEN_QUOTA_NEAR.USED, TEN_QUOTA_NEAR.LIMIT]
  | .TEN_QUOTA_FAR => [TEN_QUOTA_FAR.USED, TEN_QUOTA_FAR.LIMIT]
  | .TEN_QUOTA_STG => [TEN_QUOTA_STG.USED, TEN_QUOTA_STG.LIMIT]
  | .TEN_QUOTA_TALLY => [TEN_QUOTA_TALLY.USED, TEN_QUOTA_TALLY.LIMIT]
  | .TEN_QUOTA_QUEUE => [TEN_QUOTA_QUEUE.USED, TEN_QUOTA_QUEUE.LIMIT]
  | .TEN_QSTAT => [TEN_QSTAT.QUEUE, TEN_QSTAT.TALLY, TEN_QSTAT.STG, TEN_QSTAT.FAR, TEN_QSTAT.NEAR]
  | .TEN_ARRQ => [TEN_ARRQ.SHARE]
  | .TEN_KVPOOL => [TEN_KVPOOL.EN, TEN_KVPOOL.TIER, TEN_KVPOOL.FIRST, TEN_KVPOOL.COUNT, TEN_KVPOOL.SLOT]
  | .TEN_KVLEASE => [TEN_KVLEASE.USED, TEN_KVLEASE.LIMIT]
  | .TEN_KVSTAT => [TEN_KVSTAT.FREE]
  | .TEN_KVEVT => [TEN_KVEVT.PEND, TEN_KVEVT.VEC, TEN_KVEVT.EXPIRED]
  | .TEN_LSTAT => [TEN_LSTAT.LATEEND, TEN_LSTAT.LATEW]
  | .TEN_EMBSTAT => [TEN_EMBSTAT.WINTO, TEN_EMBSTAT.VCONF]
  | .TEN_VSCQ => [TEN_VSCQ.SHARE]
  | .TEN_VSCSTAT => [TEN_VSCSTAT.DROPPED, TEN_VSCSTAT.PARTIAL]
  | .TEN_SCRQ => [TEN_SCRQ.LIMIT]
  | .TEN_FTNOW => [TEN_FTNOW.FT]
  | .TEN_RAISESTAT => [TEN_RAISESTAT.MISSED, TEN_RAISESTAT.LATE]
  | .TEN_LNKQ => [TEN_LNKQ.SHARE]
  | .TEN_SECCTL => [TEN_SECCTL.KGEN, TEN_SECCTL.EDGE, TEN_SECCTL.PART, TEN_SECCTL.EDONE, TEN_SECCTL.RSTDONE, TEN_SECCTL.ERASE, TEN_SECCTL.RESET, TEN_SECCTL.EN]
  | .TEN_DIRQ => [TEN_DIRQ.WAYS]
  | .TEN_NEARQ => [TEN_NEARQ.SHARE]
  | .TEN_CNTGRP => [TEN_CNTGRP.VALID, TEN_CNTGRP.GROUP]
  | .TEN_CNT => [TEN_CNT.COUNT]

/-- Where a register lies in PF BAR0: base, stride and count (Tables REG-4 to REG-19). For a tenant window register
the index is the tenant; TEN_CNT has 8 words a tenant and index 8 t + i. -/
structure RegPlace where
  base : Nat
  stride : Nat
  count : Nat
  deriving DecidableEq, Repr

def regPlace : Reg → RegPlace
  | .GLB_ID => ⟨0x0000000, 0x0, 1⟩
  | .GLB_STAT => ⟨0x0000008, 0x0, 1⟩
  | .GLB_CHIPID => ⟨0x0000010, 0x0, 1⟩
  | .GLB_RST => ⟨0x0000018, 0x0, 1⟩
  | .HST_LINK => ⟨0x0100000, 0x0, 1⟩
  | .HST_EVT => ⟨0x0100008, 0x0, 1⟩
  | .HST_IDECFG => ⟨0x0100010, 0x0, 1⟩
  | .QUE_GSTAT => ⟨0x0200000, 0x0, 1⟩
  | .XLT_INVAL_ADDR => ⟨0x0400000, 0x0, 1⟩
  | .XLT_INVAL_LEN => ⟨0x0400008, 0x0, 1⟩
  | .XLT_INVAL_CTL => ⟨0x0400010, 0x0, 1⟩
  | .XLT_INVAL_STAT => ⟨0x0400018, 0x0, 1⟩
  | .XLT_SPILL => ⟨0x0400020, 0x0, 1⟩
  | .XLT_PARKSTAT => ⟨0x0400028, 0x0, 1⟩
  | .HOME_DIRCFG => ⟨0x0600000, 0x0, 1⟩
  | .HOME_DIRSTAT => ⟨0x0600008, 0x0, 1⟩
  | .HOME_EVT => ⟨0x0600010, 0x0, 1⟩
  | .HOME_DEAD => ⟨0x0600018, 0x0, 1⟩
  | .TIER_NEARILV => ⟨0x0800000, 0x0, 1⟩
  | .TIER_NEARCAP => ⟨0x0800008, 0x0, 1⟩
  | .TIER_FARCAP => ⟨0x0800010, 0x0, 1⟩
  | .TIER_STGPOOL => ⟨0x0800018, 0x0, 1⟩
  | .TIER_STGSTAT => ⟨0x0800020, 0x0, 1⟩
  | .TIER_STGWM => ⟨0x0800028, 0x0, 1⟩
  | .TIER_EVT => ⟨0x0800030, 0x0, 1⟩
  | .TIER_QUARCNT => ⟨0x0800038, 0x0, 1⟩
  | .TIER_WEAR => ⟨0x0800040, 0x8, 4⟩
  | .TIER_SCRUB => ⟨0x0800060, 0x0, 1⟩
  | .ARR_CFG => ⟨0x0A00000, 0x0, 1⟩
  | .ARR_FENCED => ⟨0x0A00008, 0x0, 1⟩
  | .ARR_BUSY => ⟨0x0A00010, 0x0, 1⟩
  | .ARR_EVT => ⟨0x0A00018, 0x0, 1⟩
  | .ARR_KVLTAB => ⟨0x0A00020, 0x0, 1⟩
  | .VSC_CTAB => ⟨0x0C00000, 0x0, 1⟩
  | .VSC_CACT => ⟨0x0C00008, 0x0, 1⟩
  | .VSC_CSTAT => ⟨0x0C00010, 0x0, 1⟩
  | .VSC_PESTAT => ⟨0x0C00018, 0x0, 1⟩
  | .VSC_EVT => ⟨0x0C00020, 0x0, 1⟩
  | .EMB_TTAB => ⟨0x0D00000, 0x0, 1⟩
  | .EMB_TACT => ⟨0x0D00008, 0x0, 1⟩
  | .EMB_TSTAT => ⟨0x0D00010, 0x0, 1⟩
  | .EMB_EVT => ⟨0x0D00018, 0x0, 1⟩
  | .SCR_EVT => ⟨0x0E00000, 0x0, 1⟩
  | .SCR_POOL => ⟨0x0E00008, 0x0, 1⟩
  | .SCR_CFG => ⟨0x0E01000, 0x80, 32⟩
  | .SCR_FOLD => ⟨0x0E01008, 0x80, 32⟩
  | .SCR_CTL => ⟨0x0E01010, 0x80, 32⟩
  | .SCR_VAL => ⟨0x0E01018, 0x80, 32⟩
  | .SCR_EXP => ⟨0x0E01020, 0x80, 32⟩
  | .SCR_DATA8 => ⟨0x0E01028, 0x80, 32⟩
  | .SCR_DATA16 => ⟨0x0E01030, 0x80, 32⟩
  | .SCR_DATA32 => ⟨0x0E01038, 0x80, 32⟩
  | .SCR_STAT => ⟨0x0E01040, 0x80, 32⟩
  | .SCR_CNT => ⟨0x0E01048, 0x80, 32⟩
  | .SCR_RES => ⟨0x0E01050, 0x80, 32⟩
  | .TIM_FTNOW => ⟨0x0F00000, 0x0, 1⟩
  | .TIM_CFG => ⟨0x0F00008, 0x0, 1⟩
  | .TIM_SYNC => ⟨0x0F00010, 0x0, 1⟩
  | .TIM_OFFSET => ⟨0x0F00018, 0x0, 1⟩
  | .TIM_RATE => ⟨0x0F00020, 0x0, 1⟩
  | .TIM_EPOCH => ⟨0x0F00028, 0x0, 1⟩
  | .TIM_EVT => ⟨0x0F00030, 0x0, 1⟩
  | .TIM_RSTAT => ⟨0x0F00038, 0x0, 1⟩
  | .LNK_CFG => ⟨0x1000000, 0x100, 12⟩
  | .LNK_STAT => ⟨0x1000008, 0x100, 12⟩
  | .LNK_KEYCFG => ⟨0x1000010, 0x100, 12⟩
  | .LNK_ERRFEC => ⟨0x1000018, 0x100, 12⟩
  | .LNK_ERRFLIT => ⟨0x1000020, 0x100, 12⟩
  | .LNK_ERRRTY => ⟨0x1000028, 0x100, 12⟩
  | .LNK_ERRDROP => ⟨0x1000030, 0x100, 12⟩
  | .LNK_HB => ⟨0x1000038, 0x100, 12⟩
  | .LNK_RANK => ⟨0x1000F00, 0x0, 1⟩
  | .LNK_EVT => ⟨0x1000F08, 0x0, 1⟩
  | .LNK_RT => ⟨0x1001000, 0x8, 1024⟩
  | .RED_WARD => ⟨0x1200000, 0x0, 1⟩
  | .RED_EVT => ⟨0x1200008, 0x0, 1⟩
  | .RED_RPTSTAT => ⟨0x1200010, 0x0, 1⟩
  | .RED_FMCFG => ⟨0x1200018, 0x0, 1⟩
  | .RED_PLUMB => ⟨0x1200020, 0x0, 1⟩
  | .RED_PLUMBSTAT => ⟨0x1200028, 0x0, 1⟩
  | .RED_CUTCFG => ⟨0x1200030, 0x0, 1⟩
  | .RED_CUTAREA => ⟨0x1200038, 0x0, 1⟩
  | .RED_CUTSTAT => ⟨0x1200040, 0x0, 1⟩
  | .RED_CUTSEAL => ⟨0x1200048, 0x0, 1⟩
  | .RED_STANDIN => ⟨0x1201000, 0x8, 1024⟩
  | .RED_FENCED => ⟨0x1203000, 0x8, 16⟩
  | .RED_RPT => ⟨0x1204000, 0x8, 2048⟩
  | .SEC_MODE => ⟨0x1300000, 0x0, 1⟩
  | .SEC_BOOT => ⟨0x1300008, 0x0, 1⟩
  | .SEC_EVT => ⟨0x1300010, 0x0, 1⟩
  | .SEC_FSID => ⟨0x1300018, 0x0, 1⟩
  | .SEC_FSCMD => ⟨0x1300020, 0x0, 1⟩
  | .SEC_OSEQ => ⟨0x1300028, 0x0, 1⟩
  | .SEC_DBG => ⟨0x1300030, 0x0, 1⟩
  | .PWR_STATE => ⟨0x1400000, 0x0, 1⟩
  | .PWR_CFG => ⟨0x1400008, 0x0, 1⟩
  | .PWR_LIMIT => ⟨0x1400010, 0x0, 1⟩
  | .PWR_MON => ⟨0x1400018, 0x0, 1⟩
  | .PWR_EVT => ⟨0x1400020, 0x0, 1⟩
  | .PWR_SLED => ⟨0x1400100, 0x8, 4⟩
  | .CNT_CTL => ⟨0x1500000, 0x0, 1⟩
  | .CNT_DUMPCTL => ⟨0x1500008, 0x0, 1⟩
  | .CNT_DTIME => ⟨0x1500010, 0x0, 1⟩
  | .CNT_DRING => ⟨0x1500018, 0x0, 1⟩
  | .CNT_DHEAD => ⟨0x1500020, 0x0, 1⟩
  | .CNT_DSTAT => ⟨0x1500028, 0x0, 1⟩
  | .CNT_SMPCTL => ⟨0x1500030, 0x0, 1⟩
  | .CNT_SRING => ⟨0x1500038, 0x0, 1⟩
  | .CNT_SHEAD => ⟨0x1500040, 0x0, 1⟩
  | .CNT_SSTAT => ⟨0x1500048, 0x0, 1⟩
  | .CNT_EVT => ⟨0x1500050, 0x0, 1⟩
  | .CNT_GCFG => ⟨0x1500400, 0x20, 16⟩
  | .CNT_GSALO => ⟨0x1500408, 0x20, 16⟩
  | .CNT_GSAHI => ⟨0x1500410, 0x20, 16⟩
  | .CNT_EVSEL => ⟨0x1500800, 0x8, 128⟩
  | .CNT_VAL => ⟨0x1500C00, 0x8, 128⟩
  | .LDG_SEQ => ⟨0x1600000, 0x0, 1⟩
  | .LDG_STAT => ⟨0x1600008, 0x0, 1⟩
  | .LDG_WINSEL => ⟨0x1600010, 0x0, 1⟩
  | .LDG_STREAM => ⟨0x1600018, 0x0, 1⟩
  | .LDG_EVT => ⟨0x1600020, 0x0, 1⟩
  | .LDG_WIN => ⟨0x1601000, 0x8, 512⟩
  | .TEN_XLTROOT => ⟨0x1700100, 0x1000, 512⟩
  | .TEN_FRING_BASE => ⟨0x1700108, 0x1000, 512⟩
  | .TEN_FRING_CTL => ⟨0x1700110, 0x1000, 512⟩
  | .TEN_FRING_HEAD => ⟨0x1700118, 0x1000, 512⟩
  | .TEN_FRING_TAIL => ⟨0x1700120, 0x1000, 512⟩
  | .TEN_FSTAT => ⟨0x1700128, 0x1000, 512⟩
  | .TEN_FRESUME => ⟨0x1700130, 0x1000, 512⟩
  | .TEN_XLTEPOCH => ⟨0x1700138, 0x1000, 512⟩
  | .TEN_PARKQ => ⟨0x1700140, 0x1000, 512⟩
  | .TEN_QSLOTQ => ⟨0x1700148, 0x1000, 512⟩
  | .TEN_CAGRP => ⟨0x1700150, 0x1000, 512⟩
  | .TEN_COHEVT => ⟨0x1700158, 0x1000, 512⟩
  | .TEN_QUOTA_NEAR => ⟨0x1700160, 0x1000, 512⟩
  | .TEN_QUOTA_FAR => ⟨0x1700168, 0x1000, 512⟩
  | .TEN_QUOTA_STG => ⟨0x1700170, 0x1000, 512⟩
  | .TEN_QUOTA_TALLY => ⟨0x1700178, 0x1000, 512⟩
  | .TEN_QUOTA_QUEUE => ⟨0x1700180, 0x1000, 512⟩
  | .TEN_QSTAT => ⟨0x1700188, 0x1000, 512⟩
  | .TEN_ARRQ => ⟨0x1700190, 0x1000, 512⟩
  | .TEN_KVPOOL => ⟨0x1700198, 0x1000, 512⟩
  | .TEN_KVLEASE => ⟨0x17001A0, 0x1000, 512⟩
  | .TEN_KVSTAT => ⟨0x17001A8, 0x1000, 512⟩
  | .TEN_KVEVT => ⟨0x17001B0, 0x1000, 512⟩
  | .TEN_LSTAT => ⟨0x17001B8, 0x1000, 512⟩
  | .TEN_EMBSTAT => ⟨0x17001C0, 0x1000, 512⟩
  | .TEN_VSCQ => ⟨0x17001C8, 0x1000, 512⟩
  | .TEN_VSCSTAT => ⟨0x17001D0, 0x1000, 512⟩
  | .TEN_SCRQ => ⟨0x17001D8, 0x1000, 512⟩
  | .TEN_FTNOW => ⟨0x17001E0, 0x1000, 512⟩
  | .TEN_RAISESTAT => ⟨0x17001E8, 0x1000, 512⟩
  | .TEN_LNKQ => ⟨0x17001F0, 0x1000, 512⟩
  | .TEN_SECCTL => ⟨0x17001F8, 0x1000, 512⟩
  | .TEN_DIRQ => ⟨0x1700200, 0x1000, 512⟩
  | .TEN_NEARQ => ⟨0x1700208, 0x1000, 512⟩
  | .TEN_CNTGRP => ⟨0x1700210, 0x1000, 512⟩
  | .TEN_CNT => ⟨0x1700218, 0x1000, 512⟩

/-- The resets that the "Cleared by" column names. Live counts and the fields that a note singles out are settled in
Reset.lean. -/
def clearedBy : Reg → List ResetKind
  | .GLB_ID => []   -- None. Constant
  | .GLB_STAT => [.cold, .warm]   -- C, W. Then set by bring-up
  | .GLB_CHIPID => [.cold, .warm]   -- C, W
  | .GLB_RST => []   -- —
  | .HST_LINK => [.cold]   -- C
  | .HST_EVT => [.cold, .warm, .pf]   -- C, W, P
  | .HST_IDECFG => [.cold]   -- C
  | .QUE_GSTAT => [.cold, .warm, .pf]   -- C, W, P
  | .XLT_INVAL_ADDR => [.cold, .warm, .pf]   -- C, W, P
  | .XLT_INVAL_LEN => [.cold, .warm, .pf]   -- C, W, P
  | .XLT_INVAL_CTL => [.cold, .warm, .pf]   -- C, W, P
  | .XLT_INVAL_STAT => [.cold, .warm, .pf]   -- C, W, P
  | .XLT_SPILL => [.cold, .warm, .pf]   -- C, W, P
  | .XLT_PARKSTAT => [.cold, .warm, .pf]   -- C, W, P
  | .HOME_DIRCFG => [.cold, .warm, .pf]   -- C, W, P
  | .HOME_DIRSTAT => [.cold, .warm, .pf]   -- C, W, P
  | .HOME_EVT => [.cold, .warm, .pf]   -- C, W, P
  | .HOME_DEAD => [.cold, .warm, .pf]   -- C, W, P
  | .TIER_NEARILV => [.cold, .warm]   -- C, W
  | .TIER_NEARCAP => [.cold, .warm]   -- C, W. Then set by bring-up
  | .TIER_FARCAP => [.cold, .warm]   -- C, W. Then set by bring-up
  | .TIER_STGPOOL => [.cold, .warm]   -- C, W
  | .TIER_STGSTAT => [.cold, .warm]   -- C, W
  | .TIER_STGWM => [.cold, .warm]   -- C, W
  | .TIER_EVT => [.cold, .warm, .pf]   -- C, W, P
  | .TIER_QUARCNT => [.cold, .warm]   -- C, W. Then reloaded by bring-up (R233)
  | .TIER_WEAR => [.cold, .warm]   -- C, W. Then reloaded by bring-up (R233)
  | .TIER_SCRUB => [.cold, .warm]   -- C, W, HOURS to 24
  | .ARR_CFG => [.cold, .warm]   -- C, W
  | .ARR_FENCED => [.cold]   -- C
  | .ARR_BUSY => [.cold, .warm]   -- C, W
  | .ARR_EVT => [.cold, .warm, .pf]   -- C, W, P
  | .ARR_KVLTAB => [.cold, .warm, .pf]   -- C, W, P
  | .VSC_CTAB => [.cold, .warm, .pf]   -- C, W, P
  | .VSC_CACT => []   -- —
  | .VSC_CSTAT => [.cold, .warm, .pf]   -- C, W, P
  | .VSC_PESTAT => [.cold, .warm]   -- C, W
  | .VSC_EVT => [.cold, .warm, .pf]   -- C, W, P
  | .EMB_TTAB => [.cold, .warm, .pf]   -- C, W, P
  | .EMB_TACT => []   -- —
  | .EMB_TSTAT => [.cold, .warm, .pf]   -- C, W, P
  | .EMB_EVT => [.cold, .warm, .pf]   -- C, W, P
  | .SCR_EVT => [.cold, .warm, .pf]   -- C, W, P
  | .SCR_POOL => [.cold, .warm]   -- C, W
  | .SCR_CFG => [.cold, .warm]   -- C, W. P clears all but OWNER when OWNER = DRIVER
  | .SCR_FOLD => [.cold, .warm]   -- C, W. P when OWNER = DRIVER
  | .SCR_CTL => []   -- —
  | .SCR_VAL => [.cold, .warm]   -- C, W. P when OWNER = DRIVER
  | .SCR_EXP => [.cold, .warm]   -- C, W. P when OWNER = DRIVER
  | .SCR_DATA8 => []   -- —
  | .SCR_DATA16 => []   -- —
  | .SCR_DATA32 => []   -- —
  | .SCR_STAT => [.cold, .warm]   -- C, W. P when OWNER = DRIVER
  | .SCR_CNT => [.cold, .warm]   -- C, W. P when OWNER = DRIVER
  | .SCR_RES => [.cold, .warm]   -- C, W. P when OWNER = DRIVER
  | .TIM_FTNOW => [.cold, .warm]   -- C, W
  | .TIM_CFG => [.cold, .warm]   -- C, W
  | .TIM_SYNC => [.cold, .warm]   -- C, W
  | .TIM_OFFSET => [.cold, .warm]   -- C, W
  | .TIM_RATE => [.cold, .warm]   -- C, W, to nominal
  | .TIM_EPOCH => [.cold, .warm]   -- C, W
  | .TIM_EVT => [.cold, .warm, .pf]   -- C, W, P
  | .TIM_RSTAT => [.cold, .warm, .pf]   -- C, W, P
  | .LNK_CFG => [.cold, .warm]   -- C, W
  | .LNK_STAT => [.cold, .warm]   -- C, W
  | .LNK_KEYCFG => [.cold, .warm]   -- C, W
  | .LNK_ERRFEC => [.cold, .warm]   -- C, W
  | .LNK_ERRFLIT => [.cold, .warm]   -- C, W
  | .LNK_ERRRTY => [.cold, .warm]   -- C, W
  | .LNK_ERRDROP => [.cold, .warm]   -- C, W
  | .LNK_HB => [.cold, .warm]   -- C, W
  | .LNK_RANK => [.cold, .warm]   -- C, W
  | .LNK_EVT => [.cold, .warm, .pf]   -- C, W, P
  | .LNK_RT => [.cold, .warm]   -- C, W
  | .RED_WARD => [.cold, .warm]   -- C, W
  | .RED_EVT => [.cold, .warm, .pf]   -- C, W, P
  | .RED_RPTSTAT => [.cold, .warm]   -- C, W
  | .RED_FMCFG => [.cold, .warm]   -- C, W
  | .RED_PLUMB => [.cold, .warm]   -- C, W, to PERIOD 4,096
  | .RED_PLUMBSTAT => [.cold, .warm]   -- C, W
  | .RED_CUTCFG => [.cold, .warm]   -- C, W, to MAXHOLD 1,500
  | .RED_CUTAREA => [.cold, .warm]   -- C, W
  | .RED_CUTSTAT => [.cold, .warm]   -- C, W
  | .RED_CUTSEAL => [.cold, .warm]   -- C, W. Reloaded at restore
  | .RED_STANDIN => [.cold, .warm]   -- C, W
  | .RED_FENCED => [.cold, .warm]   -- C, W
  | .RED_RPT => [.cold, .warm]   -- C, W
  | .SEC_MODE => [.cold, .warm]   -- C, W
  | .SEC_BOOT => [.cold, .warm]   -- C, W. Reloaded by the boot
  | .SEC_EVT => [.cold, .warm, .pf]   -- C, W, P
  | .SEC_FSID => [.cold, .warm]   -- C, W. Reloaded by the boot
  | .SEC_FSCMD => []   -- —
  | .SEC_OSEQ => [.cold, .warm]   -- C, W
  | .SEC_DBG => [.cold, .warm]   -- C, W
  | .PWR_STATE => [.sill, .cold]   -- S, C
  | .PWR_CFG => [.sill, .cold]   -- S, C
  | .PWR_LIMIT => [.sill, .cold]   -- S, C
  | .PWR_MON => [.sill, .cold]   -- S, C
  | .PWR_EVT => [.sill, .cold, .warm, .pf]   -- S, C, W, P. THERMTRIP by S only
  | .PWR_SLED => [.sill]   -- S
  | .CNT_CTL => [.cold, .warm, .pf]   -- C, W, P
  | .CNT_DUMPCTL => [.cold, .warm, .pf]   -- C, W, P
  | .CNT_DTIME => [.cold, .warm, .pf]   -- C, W, P
  | .CNT_DRING => [.cold, .warm, .pf]   -- C, W, P
  | .CNT_DHEAD => [.cold, .warm, .pf]   -- C, W, P
  | .CNT_DSTAT => [.cold, .warm, .pf]   -- C, W, P
  | .CNT_SMPCTL => [.cold, .warm, .pf]   -- C, W, P
  | .CNT_SRING => [.cold, .warm, .pf]   -- C, W, P
  | .CNT_SHEAD => [.cold, .warm, .pf]   -- C, W, P
  | .CNT_SSTAT => [.cold, .warm, .pf]   -- C, W, P
  | .CNT_EVT => [.cold, .warm, .pf]   -- C, W, P
  | .CNT_GCFG => [.cold, .warm, .pf]   -- C, W, P
  | .CNT_GSALO => [.cold, .warm, .pf]   -- C, W, P
  | .CNT_GSAHI => [.cold, .warm, .pf]   -- C, W, P
  | .CNT_EVSEL => [.cold, .warm, .pf]   -- C, W, P
  | .CNT_VAL => [.cold, .warm, .pf]   -- C, W, P. T for a tenant-owned group
  | .LDG_SEQ => [.sill]   -- S
  | .LDG_STAT => [.sill]   -- S
  | .LDG_WINSEL => [.sill, .cold]   -- S, C
  | .LDG_STREAM => [.sill, .cold]   -- S, C
  | .LDG_EVT => [.sill, .cold, .warm, .pf]   -- S, C, W, P
  | .LDG_WIN => [.sill]   -- S
  | .TEN_XLTROOT => [.cold, .warm, .pf]   -- C, W, P
  | .TEN_FRING_BASE => [.cold, .warm, .pf]   -- C, W, P
  | .TEN_FRING_CTL => [.cold, .warm, .pf, .tenant]   -- C, W, P, T
  | .TEN_FRING_HEAD => [.cold, .warm, .pf, .tenant]   -- C, W, P, T
  | .TEN_FRING_TAIL => [.cold, .warm, .pf, .tenant]   -- C, W, P, T
  | .TEN_FSTAT => [.cold, .warm, .pf, .tenant]   -- C, W, P, T
  | .TEN_FRESUME => []   -- —
  | .TEN_XLTEPOCH => [.cold, .warm, .pf]   -- C, W, P
  | .TEN_PARKQ => [.cold, .warm, .pf]   -- C, W, P
  | .TEN_QSLOTQ => [.cold, .warm, .pf]   -- C, W, P
  | .TEN_CAGRP => [.cold, .warm, .pf]   -- C, W, P
  | .TEN_COHEVT => [.cold, .warm, .pf, .tenant]   -- C, W, P, T
  | .TEN_QUOTA_NEAR => [.cold, .warm, .pf]   -- C, W, P for LIMIT. USED live
  | .TEN_QUOTA_FAR => [.cold, .warm, .pf]   -- as TEN_QUOTA_NEAR
  | .TEN_QUOTA_STG => [.cold, .warm, .pf]   -- as TEN_QUOTA_NEAR
  | .TEN_QUOTA_TALLY => [.cold, .warm, .pf]   -- as TEN_QUOTA_NEAR
  | .TEN_QUOTA_QUEUE => [.cold, .warm, .pf]   -- as TEN_QUOTA_NEAR
  | .TEN_QSTAT => [.cold, .warm, .pf, .tenant]   -- C, W, P, T
  | .TEN_ARRQ => [.cold, .warm, .pf]   -- C, W, P
  | .TEN_KVPOOL => [.cold, .warm, .pf]   -- C, W, P
  | .TEN_KVLEASE => [.cold, .warm, .pf]   -- C, W, P for LIMIT. USED live
  | .TEN_KVSTAT => [.cold, .warm, .pf]   -- C, W, P
  | .TEN_KVEVT => [.cold, .warm, .pf, .tenant]   -- C, W, P, T
  | .TEN_LSTAT => [.cold, .warm, .pf, .tenant]   -- C, W, P, T
  | .TEN_EMBSTAT => [.cold, .warm, .pf, .tenant]   -- C, W, P, T
  | .TEN_VSCQ => [.cold, .warm, .pf]   -- C, W, P
  | .TEN_VSCSTAT => [.cold, .warm, .pf, .tenant]   -- C, W, P, T
  | .TEN_SCRQ => [.cold, .warm, .pf]   -- C, W, P
  | .TEN_FTNOW => [.cold, .warm]   -- C, W
  | .TEN_RAISESTAT => [.cold, .warm, .tenant]   -- C, W, T
  | .TEN_LNKQ => [.cold, .warm, .pf]   -- C, W, P
  | .TEN_SECCTL => [.cold, .warm]   -- C, W. P and T clear EN. KGEN reloaded
  | .TEN_DIRQ => [.cold, .warm]   -- C, W
  | .TEN_NEARQ => [.cold, .warm]   -- C, W
  | .TEN_CNTGRP => [.cold, .warm, .pf]   -- C, W, P
  | .TEN_CNT => [.cold, .warm, .pf, .tenant]   -- As the CNT_VAL it shows

/-- Every register. -/
def allRegs : List Reg := [
  .GLB_ID, .GLB_STAT, .GLB_CHIPID, .GLB_RST, .HST_LINK, .HST_EVT, .HST_IDECFG, .QUE_GSTAT, .XLT_INVAL_ADDR, 
  .XLT_INVAL_LEN, .XLT_INVAL_CTL, .XLT_INVAL_STAT, .XLT_SPILL, .XLT_PARKSTAT, .HOME_DIRCFG, .HOME_DIRSTAT, 
  .HOME_EVT, .HOME_DEAD, .TIER_NEARILV, .TIER_NEARCAP, .TIER_FARCAP, .TIER_STGPOOL, .TIER_STGSTAT, .TIER_STGWM, 
  .TIER_EVT, .TIER_QUARCNT, .TIER_WEAR, .TIER_SCRUB, .ARR_CFG, .ARR_FENCED, .ARR_BUSY, .ARR_EVT, .ARR_KVLTAB, 
  .VSC_CTAB, .VSC_CACT, .VSC_CSTAT, .VSC_PESTAT, .VSC_EVT, .EMB_TTAB, .EMB_TACT, .EMB_TSTAT, .EMB_EVT, 
  .SCR_EVT, .SCR_POOL, .SCR_CFG, .SCR_FOLD, .SCR_CTL, .SCR_VAL, .SCR_EXP, .SCR_DATA8, .SCR_DATA16, .SCR_DATA32, 
  .SCR_STAT, .SCR_CNT, .SCR_RES, .TIM_FTNOW, .TIM_CFG, .TIM_SYNC, .TIM_OFFSET, .TIM_RATE, .TIM_EPOCH, 
  .TIM_EVT, .TIM_RSTAT, .LNK_CFG, .LNK_STAT, .LNK_KEYCFG, .LNK_ERRFEC, .LNK_ERRFLIT, .LNK_ERRRTY, .LNK_ERRDROP, 
  .LNK_HB, .LNK_RANK, .LNK_EVT, .LNK_RT, .RED_WARD, .RED_EVT, .RED_RPTSTAT, .RED_FMCFG, .RED_PLUMB, .RED_PLUMBSTAT, 
  .RED_CUTCFG, .RED_CUTAREA, .RED_CUTSTAT, .RED_CUTSEAL, .RED_STANDIN, .RED_FENCED, .RED_RPT, .SEC_MODE, 
  .SEC_BOOT, .SEC_EVT, .SEC_FSID, .SEC_FSCMD, .SEC_OSEQ, .SEC_DBG, .PWR_STATE, .PWR_CFG, .PWR_LIMIT, 
  .PWR_MON, .PWR_EVT, .PWR_SLED, .CNT_CTL, .CNT_DUMPCTL, .CNT_DTIME, .CNT_DRING, .CNT_DHEAD, .CNT_DSTAT, 
  .CNT_SMPCTL, .CNT_SRING, .CNT_SHEAD, .CNT_SSTAT, .CNT_EVT, .CNT_GCFG, .CNT_GSALO, .CNT_GSAHI, .CNT_EVSEL, 
  .CNT_VAL, .LDG_SEQ, .LDG_STAT, .LDG_WINSEL, .LDG_STREAM, .LDG_EVT, .LDG_WIN, .TEN_XLTROOT, .TEN_FRING_BASE, 
  .TEN_FRING_CTL, .TEN_FRING_HEAD, .TEN_FRING_TAIL, .TEN_FSTAT, .TEN_FRESUME, .TEN_XLTEPOCH, .TEN_PARKQ, 
  .TEN_QSLOTQ, .TEN_CAGRP, .TEN_COHEVT, .TEN_QUOTA_NEAR, .TEN_QUOTA_FAR, .TEN_QUOTA_STG, .TEN_QUOTA_TALLY, 
  .TEN_QUOTA_QUEUE, .TEN_QSTAT, .TEN_ARRQ, .TEN_KVPOOL, .TEN_KVLEASE, .TEN_KVSTAT, .TEN_KVEVT, .TEN_LSTAT, 
  .TEN_EMBSTAT, .TEN_VSCQ, .TEN_VSCSTAT, .TEN_SCRQ, .TEN_FTNOW, .TEN_RAISESTAT, .TEN_LNKQ, .TEN_SECCTL, 
  .TEN_DIRQ, .TEN_NEARQ, .TEN_CNTGRP, .TEN_CNT]

/-- The number of a register, which keys the register file. -/
def Reg.code (r : Reg) : Nat := r.ctorIdx

/-- The key of register `r`, word `i`, in the register file. -/
def regKey (r : Reg) (i : Nat) : Nat := r.code * 65536 + i

/-- The value a register holds at reset: every field at its reset value. -/
def regReset (r : Reg) : W64 := (fieldsOf r).foldl (fun v f => bset v f.bf f.rst) 0

/-! Fields of the records, named RECORD.FIELD; the record's table is named above each group. -/

/-! Table STO-2. Line metadata -/
def LMETA.SPARE : BF := ⟨4, 12⟩
def LMETA.SDIRTY : BF := ⟨3, 1⟩
def LMETA.POISON : BF := ⟨2, 1⟩
def LMETA.DIRSUM : BF := ⟨0, 2⟩
/-! Table STO-4. Extent record (16 bytes) -/
def EXT.GROUP : BF := ⟨112, 16⟩
def EXT.POS : BF := ⟨108, 4⟩
def EXT.PEXT : BF := ⟨90, 18⟩
def EXT.PTIER : BF := ⟨88, 2⟩
def EXT.PCHIP : BF := ⟨78, 10⟩
def EXT.ROLE : BF := ⟨72, 1⟩
def EXT.OWNER : BF := ⟨55, 9⟩
def EXT.STATE : BF := ⟨20, 4⟩
def EXT.RCLASS : BF := ⟨16, 2⟩
def EXT.SYS : BF := ⟨2, 1⟩
def EXT.ATTR : BF := ⟨1, 1⟩
def EXT.VALID : BF := ⟨0, 1⟩
/-! Table STO-8. Version record (64 bytes) -/
def VER.PUBTIME : BF := ⟨320, 64⟩
def VER.PREV : BF := ⟨256, 60⟩
def VER.STATE : BF := ⟨210, 2⟩
def VER.PSIZE : BF := ⟨208, 2⟩
def VER.OWNER : BF := ⟨192, 9⟩
def VER.LENGTH : BF := ⟨128, 64⟩
def VER.VERSION : BF := ⟨64, 64⟩
def VER.CUR : BF := ⟨0, 60⟩
/-! Table XLT-1. Page table entry (64 bits) -/
def PTE.FRAME : BF := ⟨12, 48⟩
def PTE.THINT : BF := ⟨10, 2⟩
def PTE.RUN : BF := ⟨8, 2⟩
def PTE.PSIZE : BF := ⟨6, 2⟩
def PTE.INDIR : BF := ⟨5, 1⟩
def PTE.ATTR : BF := ⟨4, 1⟩
def PTE.A : BF := ⟨3, 1⟩
def PTE.W : BF := ⟨2, 1⟩
def PTE.R : BF := ⟨1, 1⟩
def PTE.V : BF := ⟨0, 1⟩
/-! Table XLT-2. Fault record (32 bytes) -/
def FREC.FTIME : BF := ⟨192, 64⟩
def FREC.VA : BF := ⟨128, 64⟩
def FREC.TAG : BF := ⟨96, 32⟩
def FREC.GEN : BF := ⟨91, 5⟩
def FREC.SLOT : BF := ⟨80, 11⟩
def FREC.QUEUE : BF := ⟨74, 6⟩
def FREC.OPND : BF := ⟨71, 3⟩
def FREC.LEVEL : BF := ⟨68, 3⟩
def FREC.KIND : BF := ⟨64, 4⟩
def FREC.RINGIDX : BF := ⟨48, 16⟩
def FREC.ACC_A : BF := ⟨47, 1⟩
def FREC.ACC_W : BF := ⟨46, 1⟩
def FREC.ACC_R : BF := ⟨45, 1⟩
def FREC.TENANT : BF := ⟨32, 9⟩
def FREC.PHASE : BF := ⟨0, 1⟩
/-! Table QUE-1. Queue context (256 bytes) -/
def QCTX.BADDB : BF := ⟨339, 1⟩
def QCTX.STATE : BF := ⟨329, 3⟩
def QCTX.INFL : BF := ⟨320, 9⟩
def QCTX.CQHEAD : BF := ⟨304, 16⟩
def QCTX.CQTAIL : BF := ⟨288, 16⟩
def QCTX.SQTAIL : BF := ⟨272, 16⟩
def QCTX.SQHEAD : BF := ⟨256, 16⟩
def QCTX.ITIME : BF := ⟨246, 10⟩
def QCTX.ICOUNT : BF := ⟨237, 9⟩
def QCTX.DEFDL : BF := ⟨192, 32⟩
def QCTX.VEC : BF := ⟨181, 11⟩
def QCTX.MAXINFL : BF := ⟨172, 9⟩
def QCTX.QNUM : BF := ⟨166, 6⟩
def QCTX.TENANT : BF := ⟨157, 9⟩
def QCTX.ERRIRQ : BF := ⟨152, 1⟩
def QCTX.LATEPOL : BF := ⟨151, 1⟩
def QCTX.PRIV : BF := ⟨150, 1⟩
def QCTX.LOG2N : BF := ⟨146, 4⟩
def QCTX.EN : BF := ⟨128, 1⟩
def QCTX.CQADDR : BF := ⟨69, 59⟩
def QCTX.CQLOC : BF := ⟨64, 1⟩
def QCTX.SQADDR : BF := ⟨7, 57⟩
def QCTX.SQLOC : BF := ⟨0, 1⟩
/-! Table QUE-4. Descriptor bytes 0–31 -/
def DHDR.TARGET : BF := ⟨176, 80⟩
def DHDR.TALLY : BF := ⟨160, 16⟩
def DHDR.DEADLINE : BF := ⟨128, 32⟩
def DHDR.RTIME : BF := ⟨64, 64⟩
def DHDR.TAG : BF := ⟨32, 32⟩
def DHDR.NO_SKIP : BF := ⟨21, 1⟩
def DHDR.HALT_ON_ERROR : BF := ⟨20, 1⟩
def DHDR.RAISE : BF := ⟨19, 1⟩
def DHDR.IRQ : BF := ⟨18, 1⟩
def DHDR.POSTED_FENCE : BF := ⟨17, 1⟩
def DHDR.ORDERED : BF := ⟨16, 1⟩
def DHDR.OPCODE : BF := ⟨0, 16⟩
/-! Table QUE-5. Operand extent (16 bytes) -/
def OPND.OPSPEC : BF := ⟨112, 16⟩
def OPND.HOST : BF := ⟨104, 1⟩
def OPND.FMT : BF := ⟨96, 8⟩
def OPND.LEN : BF := ⟨64, 32⟩
def OPND.VA : BF := ⟨0, 64⟩
/-! Table QUE-8. Completion (32 bytes) -/
def CPL.PHASE : BF := ⟨255, 1⟩
def CPL.QUEUE : BF := ⟨208, 6⟩
def CPL.RINGIDX : BF := ⟨192, 16⟩
def CPL.FTIME : BF := ⟨128, 64⟩
def CPL.RESULT : BF := ⟨64, 64⟩
def CPL.SUBSTATUS : BF := ⟨48, 16⟩
def CPL.STATUS : BF := ⟨32, 16⟩
def CPL.TAG : BF := ⟨0, 32⟩
/-! Table COH-2. Coherence message header (128 bits) -/
def COHH.OPC : BF := ⟨120, 8⟩
def COHH.TENANT : BF := ⟨111, 9⟩
def COHH.AGENT : BF := ⟨98, 13⟩
def COHH.TID : BF := ⟨86, 12⟩
def COHH.HTX : BF := ⟨72, 14⟩
def COHH.CODE : BF := ⟨64, 8⟩
def COHH.UPG : BF := ⟨60, 1⟩
def COHH.LINE : BF := ⟨6, 54⟩
def COHH.DIRTY : BF := ⟨5, 1⟩
def COHH.POISON : BF := ⟨4, 1⟩
def COHH.WBF : BF := ⟨3, 1⟩
def COHH.FWD : BF := ⟨2, 1⟩
def COHH.LATE : BF := ⟨1, 1⟩
def COHH.WBREQ : BF := ⟨0, 1⟩
/-! Table ORD-1. Tally record (16 bytes) -/
def TALLY.WAITERS : BF := ⟨112, 16⟩
def TALLY.EN : BF := ⟨73, 1⟩
def TALLY.OWNER : BF := ⟨64, 9⟩
def TALLY.COUNT : BF := ⟨0, 64⟩
/-! Table TIR-1. Staging page entry (32 bytes) -/
def PAGE.LVALID : BF := ⟨192, 64⟩
def PAGE.DMASK : BF := ⟨184, 8⟩
def PAGE.HELD : BF := ⟨177, 7⟩
def PAGE.TENANT : BF := ⟨168, 9⟩
def PAGE.STATE : BF := ⟨164, 4⟩
def PAGE.HINT : BF := ⟨162, 2⟩
def PAGE.MIRROR : BF := ⟨161, 1⟩
def PAGE.SYSX : BF := ⟨160, 1⟩
def PAGE.AGE : BF := ⟨128, 32⟩
def PAGE.BLOCK : BF := ⟨76, 36⟩
def PAGE.WAITERS : BF := ⟨48, 16⟩
/-! Table ARR-6. SPARSE_GEMM opcode-specific word -/
def GEMMOP.ZSKIP_OFF : BF := ⟨6, 1⟩
def GEMMOP.NOSAT : BF := ⟨5, 1⟩
def GEMMOP.SR : BF := ⟨4, 1⟩
def GEMMOP.ACC : BF := ⟨3, 1⟩
def GEMMOP.SPAR : BF := ⟨1, 2⟩
def GEMMOP.TWAIT : BF := ⟨0, 1⟩
/-! Table ATT-1. Lease record (64 bytes) -/
def LEASE.EXPIRY : BF := ⟨448, 64⟩
def LEASE.MAP : BF := ⟨192, 256⟩
def LEASE.BLOCKS : BF := ⟨160, 32⟩
def LEASE.MAXBLK : BF := ⟨144, 16⟩
def LEASE.LAYERS : BF := ⟨136, 8⟩
def LEASE.KFMT : BF := ⟨128, 8⟩
def LEASE.DCODE : BF := ⟨120, 2⟩
def LEASE.HKV : BF := ⟨112, 7⟩
def LEASE.PINS : BF := ⟨96, 16⟩
def LEASE.REFS : BF := ⟨80, 16⟩
def LEASE.GEN : BF := ⟨64, 16⟩
def LEASE.OWNER : BF := ⟨32, 9⟩
def LEASE.STATE : BF := ⟨0, 3⟩
/-! Table ATT-8. EXPERT_FFN opcode-specific word -/
def FFNOP.ACC : BF := ⟨6, 1⟩
def FFNOP.NORM : BF := ⟨5, 1⟩
def FFNOP.ACT : BF := ⟨3, 2⟩
def FFNOP.GATEFN : BF := ⟨1, 2⟩
def FFNOP.TWAIT : BF := ⟨0, 1⟩
/-! Table EMB-1. Table record (128 bytes) -/
def ETAB.RFTIME : BF := ⟨832, 64⟩
def ETAB.SWTIME : BF := ⟨768, 64⟩
def ETAB.HOTSA : BF := ⟨704, 60⟩
def ETAB.TAGSA : BF := ⟨644, 60⟩
def ETAB.WINTO : BF := ⟨608, 32⟩
def ETAB.HOTGEN : BF := ⟨576, 32⟩
def ETAB.HOTMAX : BF := ⟨555, 21⟩
def ETAB.PINSB : BF := ⟨480, 32⟩
def ETAB.VERB : BF := ⟨448, 32⟩
def ETAB.BASEB : BF := ⟨384, 60⟩
def ETAB.PINSA : BF := ⟨352, 32⟩
def ETAB.VERA : BF := ⟨320, 32⟩
def ETAB.BASEA : BF := ⟨256, 60⟩
def ETAB.LISTSA : BF := ⟨192, 60⟩
def ETAB.SEED : BF := ⟨128, 32⟩
def ETAB.ROWS : BF := ⟨64, 40⟩
def ETAB.NCHIPM1 : BF := ⟨48, 10⟩
def ETAB.DIM : BF := ⟨32, 13⟩
def ETAB.OWNER : BF := ⟨16, 9⟩
def ETAB.RFMT : BF := ⟨8, 8⟩
def ETAB.CURSEL : BF := ⟨2, 1⟩
def ETAB.MAP : BF := ⟨1, 1⟩
def ETAB.ACTIVE : BF := ⟨0, 1⟩
/-! Table VSC-1. Collection record (128 bytes) -/
def VCOLL.G : BF := ⟨336, 16⟩
def VCOLL.VS : BF := ⟨320, 16⟩
def VCOLL.SCANS : BF := ⟨288, 16⟩
def VCOLL.SEQ : BF := ⟨192, 64⟩
def VCOLL.NEXTSLOT : BF := ⟨160, 32⟩
def VCOLL.CAPSLOT : BF := ⟨128, 32⟩
def VCOLL.EXTSA : BF := ⟨64, 60⟩
def VCOLL.NEXT : BF := ⟨48, 16⟩
def VCOLL.DIM : BF := ⟨32, 16⟩
def VCOLL.OWNER : BF := ⟨8, 9⟩
def VCOLL.KIND : BF := ⟨2, 1⟩
def VCOLL.TIER : BF := ⟨1, 1⟩
def VCOLL.ACTIVE : BF := ⟨0, 1⟩
/-! Table VSC-2. Item header (32 bytes) -/
def ITEMH.LABEL : BF := ⟨224, 32⟩
def ITEMH.NORM2 : BF := ⟨192, 32⟩
def ITEMH.DSEQ : BF := ⟨128, 64⟩
def ITEMH.ISEQ : BF := ⟨64, 64⟩
def ITEMH.ITEM : BF := ⟨0, 64⟩
/-! Table LNK-2. Flit header (slot 0) -/
def FLIT.SEQ : BF := ⟨116, 12⟩
def FLIT.ACK : BF := ⟨104, 12⟩
def FLIT.ACKV : BF := ⟨103, 1⟩
def FLIT.NAK : BF := ⟨102, 1⟩
def FLIT.TYPE : BF := ⟨100, 2⟩
def FLIT.VC : BF := ⟨97, 3⟩
def FLIT.LEN : BF := ⟨92, 5⟩
def FLIT.HOPS : BF := ⟨88, 4⟩
def FLIT.KEYSEL : BF := ⟨87, 1⟩
def FLIT.DOWNPH : BF := ⟨86, 1⟩
def FLIT.DSTCHIP : BF := ⟨76, 10⟩
def FLIT.DSTEP : BF := ⟨72, 4⟩
def FLIT.SRCCHIP : BF := ⟨62, 10⟩
def FLIT.SRCEP : BF := ⟨58, 4⟩
def FLIT.CRVC0 : BF := ⟨55, 3⟩
def FLIT.CRCNT0 : BF := ⟨43, 12⟩
def FLIT.CRVC1 : BF := ⟨40, 3⟩
def FLIT.CRCNT1 : BF := ⟨28, 12⟩
/-! Table LNK-3. Flit trailer (slot 24) -/
def FTRL.CRC : BF := ⟨96, 32⟩
def FTRL.STOMP : BF := ⟨95, 1⟩
def FTRL.CNT : BF := ⟨0, 64⟩
/-! Table LNK-8. ENG header -/
def ENGH.OPC : BF := ⟨120, 8⟩
def ENGH.TENANT : BF := ⟨111, 9⟩
def ENGH.TAG : BF := ⟨95, 16⟩
def ENGH.TALLY : BF := ⟨79, 16⟩
def ENGH.LEN : BF := ⟨70, 9⟩
def ENGH.PRIV : BF := ⟨60, 1⟩
def ENGH.SA : BF := ⟨0, 60⟩
/-! Table LNK-16. Exchange header (16 bytes) -/
def XCH.MSGNO : BF := ⟨96, 32⟩
def XCH.PARAM : BF := ⟨88, 8⟩
def XCH.EMPTY : BF := ⟨81, 1⟩
def XCH.LAST : BF := ⟨80, 1⟩
def XCH.XSLOT : BF := ⟨64, 16⟩
def XCH.VER : BF := ⟨32, 32⟩
def XCH.OBJ : BF := ⟨16, 12⟩
def XCH.KIND : BF := ⟨0, 16⟩
/-! Table FLT-8. Report (64 bytes) -/
def RPT.DETAIL1 : BF := ⟨448, 64⟩
def RPT.DETAIL0 : BF := ⟨384, 64⟩
def RPT.FTIME : BF := ⟨320, 64⟩
def RPT.SEQ : BF := ⟨288, 32⟩
def RPT.SUBJ : BF := ⟨272, 16⟩
def RPT.CHIP : BF := ⟨262, 10⟩
def RPT.KIND : BF := ⟨248, 8⟩
/-! Table CNT-3. Sample record (64 bytes) -/
def SMP.FTIME : BF := ⟨448, 64⟩
def SMP.SA : BF := ⟨384, 64⟩
def SMP.LAT : BF := ⟨352, 32⟩
def SMP.TAG : BF := ⟨320, 32⟩
def SMP.INSN : BF := ⟨288, 32⟩
def SMP.PC : BF := ⟨256, 32⟩
def SMP.OPCODE : BF := ⟨240, 16⟩
def SMP.EVENT : BF := ⟨224, 16⟩
def SMP.TENANT : BF := ⟨215, 9⟩
def SMP.MKIND : BF := ⟨212, 3⟩
def SMP.MNUM : BF := ⟨202, 10⟩
def SMP.QUEUE : BF := ⟨196, 6⟩
def SMP.VPC : BF := ⟨195, 1⟩
def SMP.VTAG : BF := ⟨194, 1⟩
def SMP.VSA : BF := ⟨193, 1⟩
def SMP.VLAT : BF := ⟨192, 1⟩
def SMP.VTEN : BF := ⟨191, 1⟩
def SMP.PHASE : BF := ⟨0, 1⟩
/-! Table CNT-5. Ledger record (64 bytes) -/
def LDGR.ARGS : BF := ⟨256, 256⟩
def LDGR.FTIME : BF := ⟨192, 64⟩
def LDGR.SEQ : BF := ⟨128, 64⟩
def LDGR.CODE : BF := ⟨112, 16⟩
def LDGR.CHIP : BF := ⟨86, 10⟩
def LDGR.TENANT : BF := ⟨77, 9⟩
def LDGR.TENV : BF := ⟨76, 1⟩
def LDGR.SEV : BF := ⟨74, 2⟩

end Sys2Proof.Machine
end

