-- ==== Sys2Proof/Machine/Types.lean ====
section
/-! DEFINITION. Types.lean: the records that State is made of, chapter by chapter. All of it is plain data. -/
namespace Sys2Proof.Machine

/-! ## What leaves the chip -/

/-- Virtual channels and classes of a message (Table COH-1, Table LNK-2). -/
inductive VC where
  | req | snp | rsp | dat | eng | ctl
  deriving DecidableEq, Repr

/-- A message between endpoints: destination and source (chip, endpoint; endpoint 8 is the chip itself, 0 to 7 an
edge slot), its first 16 bytes, laid out by Table COH-2, LNK-7 or LNK-8, and the bytes that follow. -/
structure Msg where
  vc   : VC
  dst  : Nat
  dep  : Nat
  src  : Nat
  sep  : Nat
  hdr  : BitVec 128
  data : List Byte := []
  /-- A forwarded message: peer hops left as it came, DOWNPH of its flit, and the port it came in by. -/
  hops : Nat := 0
  down : Bool := false
  fwd  : Option Nat := none
  /-- The data was poisoned: Table LNK-8 has no field for it. -/
  poison : Bool := false
  deriving DecidableEq, Repr

/-- What an indicator shows (R554): `blink` is 1 Hz, `fast` is 4 Hz. -/
inductive Led where
  | off | on | blink | fast
  deriving DecidableEq, Repr

/-- What the chip puts on its pins: the model's record of its outputs, oldest first (log entry 1). -/
inductive Out where
  /-- An MSI-X message of function `fn` (0 physical, n virtual function n) on vector `vec`, with the address and data that
  the vector's table entry holds. -/
  | msix (fn vec : Nat)
  /-- A posted PCIe memory write with the requester ID of function `fn`; `ro` is its relaxed-ordering attribute. -/
  | hostWrite (fn addr : Nat) (data : List Byte) (ro : Bool)
  /-- A PCIe memory read request of function `fn`; `tag` names it. -/
  | hostRead (fn addr len tag : Nat)
  /-- An error reported through Advanced Error Reporting (R572). -/
  | aer (fn cause : Nat)
  /-- The Device Readiness Status message (Table HST-4). -/
  | readiness
  /-- The answer to a configuration, BAR or doorbell read. -/
  | readData (fn : Nat) (value : W64)
  /-- An object returned through the DOE mailbox (R573). -/
  | doe (proto : Nat) (data : List Byte)
  /-- An SPDM response on a transport: 0 MCTP, 1 DOE (R538). -/
  | spdm (transport code : Nat) (data : List Byte)
  /-- A response of the MCTP register commands (R616). -/
  | mctp (code : Nat) (value : Option W64)
  /-- A UDP datagram of the management port (R498, R604). -/
  | udp (ip port : Nat) (data : List Byte)
  /-- A flit sent by a port: header, message slots, counter and key. -/
  | flit (port : Nat) (hdr : BitVec 128) (msgs : List Msg) (cnt key : Nat) (stomp resend : Bool)
  /-- A training, RETRAIN or link exchange action of a port, by name. -/
  | link (port : Nat) (what : String)
  /-- The recovery engine copies a survivor's extent into the new partner's (R492). -/
  | copyExtent (src dst : Nat)
  /-- A sled's quiesce asks a secondary home to write back its mirror pages (R556), and its report that it has. -/
  | mirrorFlush (chip : Nat) (exts : List Nat)
  | mirrorFlushed (chip : Nat) (exts : List Nat)
  /-- The copy of an extent record sent to the ward table of the stand-in (R481): entry, record. -/
  | ward (chip entry : Nat) (rec_ : BitVec 128)
  /-- A parity delta sent to a P or Q home (R44). -/
  | parity (chip sa pos : Nat) (delta : BitVec 32992)
  /-- A hint of ADVISE for the blocks of another chip's far tier, sent to it (R209): base SA and length of the range. -/
  | advise (chip sa len hint : Nat)
  /-- A pin of the package or of a sled driven to a level. -/
  | pin (name : String) (idx : Nat) (level : Bool)
  /-- An indicator of sled `n`, PWRLED or ATTNLED (R554). -/
  | led (name : String) (n : Nat) (shows : Led)
  deriving DecidableEq, Repr

/-! ## Host port, counters and ledger -/

/-- One PCIe function (R563, R566, R569, R571). -/
structure Fn where
  /-- Bus Master Enable. -/
  bme : Bool := false
  /-- The function is in D3hot. -/
  d3hot : Bool := false
  /-- Writes held while the function may issue none, in order (R569). -/
  held : List Out := []
  /-- MSI-X Enable and Function Mask. -/
  msixEn : Bool := false
  fmask : Bool := false
  /-- Vectors whose mask bit is 0, rising; message address and data of each (BAR4, R564); unlisted: zero. -/
  unmasked : List Nat := []
  msgs : AMap (BitVec 96) := []
  /-- Vectors whose pending bit is 1, rising. -/
  pend : List Nat := []
  /-- Read latch: register offset and held high half. -/
  rlatch : Option (Nat × BitVec 32) := none
  /-- Write latch: register offset and held low half. -/
  wlatch : Option (Nat × BitVec 32) := none
  deriving DecidableEq, Repr

/-- A queued ledger record, before it takes SEQ and CHIP (R599, R601). -/
structure LRec where
  code : Nat
  sev  : Nat
  ten  : Option Nat
  args : List Nat
  time : W64
  deriving DecidableEq, Repr

/-- Observation: outputs, event registers, the functions' interrupt state, counters and the ledger. Raising an event,
counting and logging change nothing outside it. -/
structure Obs where
  /-- Everything the chip has put out, oldest first. -/
  out : List Out := []
  /-- The event registers *_EVT (W1C bits and VEC), by register code; unlisted: reset value. -/
  evt : AMap W64 := []
  /-- The PCIe functions; unlisted: as after cold reset. -/
  fns : AMap Fn := []
  /-- COUNT of the 128 counters (R586); unlisted: 0. -/
  cval : AMap W64 := []
  /-- The sampler's countdown (R591). -/
  countdown : Nat := 0
  /-- Dumps written since cold or warm reset (R596), and the next due time of timed dumps (R593). -/
  dseq : Nat := 0
  ddue : Option W64 := none
  /-- Samples waiting in the 256-entry buffer, oldest first (R592). -/
  sbuf : List (BitVec 512) := []
  /-- CNT_SSTAT.DROPPED. -/
  sdropped : Nat := 0
  /-- Records waiting in the 64-record ledger queue (R601). -/
  lqueue : List LRec := []
  /-- Records not written for want of a place since the last SUPPRESSED record of R601. -/
  lfull : Nat := 0
  /-- Per CODE: records produced, and records suppressed, in the current 1 ms window (R602). -/
  lwin : AMap (Nat × Nat) := []
  /-- LDG_STAT.SUPPR. -/
  lsuppr : Nat := 0
  /-- The ledger ring: position to record (R598). -/
  lring : AMap (BitVec 512) := []
  /-- LDG_SEQ.NEXT. -/
  lseq : Nat := 1
  /-- Written records not yet streamed (R604). -/
  lstream : List (BitVec 512) := []
  deriving DecidableEq, Repr

/-- Attributes of a counted occurrence (R587, R588). -/
structure Occ where
  /-- 0 tenant work, 1 system work, 2 firmware work. -/
  prv : Nat := 0
  ten : Option Nat := none
  mst : Option (Nat × Nat) := none
  sa  : Option Nat := none
  cls : Option Nat := none
  lat : Option Nat := none
  /-- TAG, OPCODE and QUEUE of the descriptor. -/
  tag : Option (Nat × Nat × Nat) := none
  /-- PC and INSN of the sequencer. -/
  pc  : Option (Nat × Nat) := none
  deriving DecidableEq, Repr

/-! ## The store (chapters "The store address space" and "Tiers, staging and quotas") -/

/-- One near-tier line as it is kept: the 64 bytes that its writer wrote, the identity of the key it was written under
(R525; 0: the zero bytes of bring-up stage 4, R638) and the line metadata of Table STO-2. -/
structure NearLine where
  data : Line := 0
  key  : Nat := 0
  lmeta : BitVec 16 := 0
  deriving DecidableEq, Repr

/-- One far-tier block as it is kept on the medium (R190). -/
structure FarBlock where
  data : BitVec 32768 := 0
  /-- Key identity it was written under; 0: never written, reads as zeros. -/
  key  : Nat := 0
  /-- Initialisation vector of its last write. -/
  iv   : BitVec 96 := 0
  /-- Of a parity block: the parity of the vectors and tags of its group (R43). -/
  spare : BitVec 224 := 0
  /-- Marked quarantined in its mapping record (R217). -/
  quar : Bool := false
  deriving DecidableEq, Repr

/-- Who asked the home for an access. -/
inductive Who where
  /-- An edge agent and its TID. -/
  | agent (id tid : Nat)
  /-- A descriptor of this chip, by its sequence number. -/
  | slot (seq : Nat)
  /-- An engine of another chip and its TAG. -/
  | remote (chip tag : Nat)
  /-- An operator exchange that this chip serves, by its arrival number (R334, R336). -/
  | exch (n : Nat)
  /-- A memory-sourced class: cut engine, patrol scrubber, tier write-back engine, recovery engine. -/
  | memClass
  deriving DecidableEq, Repr

/-- What is asked of a line's home. -/
inductive ReqKind where
  | rdShared | rdOwn | rdCur | wrFull | wb
  /-- Engine read, engine write of the masked bytes, engine atomic (brings the line to H), recall of every copy. -/
  | engRd | engWr | atomic | recall
  deriving DecidableEq, Repr

/-- One request at the home. -/
structure HomeReq where
  kind : ReqKind
  who  : Who
  ten  : Nat
  prv  : Bool
  /-- SA of the line, SA[5:0] = 0. -/
  sa   : Nat
  upg  : Bool := false
  data : Line := 0
  /-- Bytes of the line that a write covers. -/
  mask : BitVec 64 := 0
  /-- Tally index a write carries (R179); 0: none. -/
  tally : Nat := 0
  /-- POISON of the data written. -/
  poison : Bool := false
  hint : Nat := 0
  /-- A FILL: POISON clears on every line written, and the other bytes of a poisoned line become zero (R396). -/
  fill : Bool := false
  /-- A mirror write of the primary's home, taken by a mirror page (R201). -/
  mirror : Bool := false
  deriving DecidableEq, Repr

/-- One staging page (Table TIR-1): its entry, its bytes and the metadata of its lines. -/
structure Page where
  entry  : BitVec 256
  /-- 0: a block of this chip; c + 1: a block of fenced chip c, reconstructed here (R486). -/
  foreign : Nat := 0
  data   : BitVec 32768 := 0
  sdirty : BitVec 64 := 0
  poison : BitVec 64 := 0
  slost  : BitVec 64 := 0
  /-- LAYER_STREAM descriptors (sequence numbers) that pin the page (R315). -/
  pins   : List Nat := []
  /-- Requests held until the page can take them: partial writes and reads of invalid lines. -/
  deferred : List HomeReq := []
  /-- Write-back: the copied page and the sectors it cleared from DMASK (R200), and the initialisation vector of the block it
  programs. -/
  wbCopy : Option (BitVec 32768 × BitVec 8) := none
  wbIv : BitVec 96 := 0
  /-- Owners of its lines have been snooped for the copy, which is made once they have answered (R146). -/
  wbPull : Bool := false
  /-- Write-back chosen, waiting for a merge fill (R199). -/
  wbWant : Bool := false
  /-- The block is programmed; acknowledgements may still be awaited. -/
  wbDone : Bool := false
  /-- The descriptor that last used the page under HINT STREAM (Table TIR-6). -/
  user : Option Nat := none
  /-- Parity acknowledgements still awaited: P, Q (R44). -/
  parP : Bool := false
  parQ : Bool := false
  parFail : Bool := false
  /-- A redundant read is in progress (R215). -/
  redundant : Bool := false
  /-- Eviction: a request arrived meanwhile (Table TIR-7). -/
  evAbandon : Bool := false
  deriving DecidableEq, Repr

/-- A write acknowledged only after the secondary accepts it (R41). -/
structure MirrorWrite where
  tag  : Nat
  sa   : Nat
  req  : HomeReq
  /-- HTX of the home transaction that waits, if any. -/
  htx  : Option Nat := none
  deriving DecidableEq, Repr

/-- A parity update in progress at the data home (R44). -/
structure ParityUpd where
  sa : Nat
  p  : Bool := false
  q  : Bool := false
  deriving DecidableEq, Repr

structure Store where
  /-- Near-tier lines by OFFSET / 64; unlisted: as bring-up stage 4 left them (R638). -/
  near : AMap NearLine := []
  /-- Far-tier blocks by OFFSET / 4096, as the media hold them; unlisted: never written. -/
  far : AMap FarBlock := []
  /-- Extent records, near extent e at e, far extent e at 2^18 + e (R25); unlisted: zero. -/
  ext : AMap (BitVec 128) := []
  /-- Version records by REGION (R36); unlisted: zero. -/
  ver : AMap (BitVec 512) := []
  /-- Parity group records by GROUP (R42); unlisted: zero. -/
  pgr : AMap (BitVec 512) := []
  /-- Tally records (Table ORD-1) less WAITERS, which is counted; unlisted: zero. -/
  tally : AMap (BitVec 128) := []
  /-- Staging pages that are not FREE, by page number in the pool. -/
  pages : AMap Page := []
  /-- Failed pseudo-channels (Table FLT-5), rising; those that earlier restarts have retired (R17). -/
  failedPc : List Nat := []
  retiredPc : List Nat := []
  /-- Failed flash channels of the chip, 16 x sled + channel, rising. -/
  failedCh : List Nat := []
  /-- Free pages fell below TIER_STGWM.LOW and have not reached HIGH since (R199, R206). -/
  poolLow : Bool := false
  /-- A scrub step whose line an agent owns: line, verdict, secondary's line (R146). -/
  scrubHeld : Option (Nat × Nat × Option Line) := none
  /-- Requests that wait for a staging page, in order (R206, R229). -/
  pageWait : List HomeReq := []
  mirrors : List MirrorWrite := []
  /-- The next tag for a mirror write, parity update or engine request. -/
  nextTag : Nat := 0
  /-- Patrol scrubber: next line (R220), and lines found uncorrectable per pseudo-channel. -/
  scrub : Nat := 0
  scrubBad : AMap Nat := []
  /-- Durable records on each sled: blocks quarantined are marked in `far`; erase blocks retired, channels failed by
  wear (R224, R233). -/
  sledRetired : AMap Nat := []
  sledFailCh : AMap Nat := []
  /-- Populated extents of the media of each sled (R19), known once the sled was tested. -/
  sledExtents : AMap Nat := []
  deriving DecidableEq, Repr

/-! ## The home (chapter "The home and coherence") -/

/-- Stable states with an entry (Table COH-6). I and SL keep no entry. -/
inductive DirSt where
  | inv | slost | shared | owned (a : Nat) | atomicH
  deriving DecidableEq, Repr

/-- The sharer record: up to four agents, or a vector of groups (R139). -/
inductive Sharers where
  | precise (ids : List Nat)
  | coarse (groups : BitVec 64)
  deriving DecidableEq, Repr

/-- A directory-cache entry (R139). -/
structure DirEntry where
  st   : DirSt
  shr  : Sharers := .precise []
  peg  : Bool := false
  htx  : Nat := 0
  age  : Nat := 0
  deriving DecidableEq, Repr

/-- Transient states (Table COH-6). -/
inductive Trans where
  | memRd | memWr | stage | snp | wbw | ack | rcl | mirror
  deriving DecidableEq, Repr

/-- An open home transaction. -/
structure Txn where
  req  : HomeReq
  tr   : Trans
  /-- Frame time of the request's arrival. -/
  t0   : W64 := 0
  /-- The stable state and the sharer record at the start. -/
  origin : DirSt := .inv
  shr  : Sharers := .precise []
  /-- Opcode of the snoops sent; agents snooped; agents whose answer is awaited; agents that kept a copy. -/
  snp  : Nat := 0
  snooped : List Nat := []
  owed : List Nat := []
  kept : List Nat := []
  /-- The agent that was sent FWD = 1, and whether it forwarded. -/
  fwd : Option Nat := none
  fwdDone : Bool := false
  /-- Data returned by a snoop or taken from a WB, with its POISON. -/
  got : Option (Line × Bool) := none
  /-- Agents whose WB was taken while the snoop was out (Table COH-10). -/
  gaveUp : List Nat := []
  /-- The agent whose WB is awaited (WBW). -/
  wbOf : Option Nat := none
  /-- An upgrade honoured without data. -/
  noData : Bool := false
  /-- An acting home's broadcast for an owner-unknown line (R485). -/
  unknown : Bool := false
  /-- The state granted. -/
  goal : DirSt := .inv
  deriving DecidableEq, Repr

/-- A request in the home retry queue. -/
structure Waiting where
  req : HomeReq
  num : Nat
  t0  : W64 := 0
  /-- A recall was opened to make room for it (R141, R142). -/
  made : Bool := false
  deriving DecidableEq, Repr

/-- An engine access of another chip in progress: up to four lines, answered once (R173, R470). -/
structure RemOp where
  chip : Nat
  tag  : Nat
  read : Bool
  sa   : Nat
  len  : Nat
  ten  : Nat
  prv  : Bool
  /-- Lines still awaited; lines read so far. -/
  owed : Nat
  got  : AMap (Line × Bool) := []
  /-- A refusal: status. -/
  bad  : Option Nat := none
  /-- Writes that start once the lines they cover in part are at hand: a refused write writes nothing (R641). -/
  hold : List HomeReq := []
  deriving DecidableEq, Repr

structure Home where
  /-- Engine accesses of other chips in progress. -/
  rem : List RemOp := []
  /-- Directory cache by SA / 64; unlisted: no entry. -/
  dir : AMap DirEntry := []
  /-- Atomic line cache by SA / 64 (R149). -/
  alc : AMap Line := []
  /-- Home transaction table by HTX. -/
  htx : AMap Txn := []
  /-- HTX indices freed by a timeout, with the frame time until which each is not reused (R155). -/
  quarantine : List (Nat × Nat) := []
  /-- Home retry queue in arrival order (R142). -/
  retry : List Waiting := []
  /-- Arrival counter of retry entries and the LRU clock. -/
  clock : Nat := 0
  /-- Live caching agents of the frame, rising, and the peer hops between other chips, by 1,024 x first + second chip: the
  frame plan's knowledge that R143 and R145 use (log entry 12). -/
  caching : List Nat := []
  hops : AMap Nat := []
  /-- Populated extents of the other chips' tiers, by 8 x chip + 0 (near tier) or 4 + sled: the frame plan's knowledge that R11
  uses; unlisted: the whole tier of Tables STO-2a and TIR-9 (log entry 12). -/
  caps : AMap Nat := []
  /-- Agents fenced as dead, rising. -/
  dead : List Nat := []
  /-- Dead-agent sweeps in progress: agent to poisoned lines (SA, owning tenant), in sweep order (R156). -/
  sweep : AMap (List (Nat × Nat)) := []
  deriving DecidableEq, Repr

/-! ## Translation -/

/-- One SA extent of an operand (R62): base, length, ATTR and THINT. -/
structure SAExt where
  base : Nat
  len  : Nat
  attr : Nat := 0
  hint : Nat := 0
  deriving DecidableEq, Repr

/-- A translation-cache entry: tenant, VA base, size, the leaf, and for an indirected leaf HOME and REGION. -/
structure TlbE where
  ten  : Nat
  va   : Nat
  size : Nat
  pte  : W64
  sa   : Nat
  rgn  : Option (Nat × Nat) := none
  deriving DecidableEq, Repr

/-- A walk-cache entry: tenant, level of the table it points to, VA prefix, table SA. -/
structure WalkE where
  ten   : Nat
  level : Nat
  pfx   : Nat
  table : Nat
  deriving DecidableEq, Repr

/-- An open shootdown (R80 to R85). `holders` are the descriptors (sequence numbers) of draining tenants that were
unfinished and translated at acceptance. -/
structure Shoot where
  id    : Nat
  kind  : Nat
  addr  : Nat
  len   : Nat
  ten   : Nat
  frame : Bool
  /-- Some chip: received from it with its identifier. -/
  src   : Option (Nat × Nat) := none
  irq   : Bool := false
  driver : Bool := false
  /-- PUBLISH of a region of this home: REGION, issuing chip and its tag. -/
  publish : Option (Nat × Nat × Nat) := none
  holders : List Nat := []
  /-- Chips whose dropped and drained acknowledgement is awaited. -/
  waitDrop : List Nat := []
  waitDrain : List Nat := []
  dropped : Bool := false
  localDrained : Bool := false
  deriving DecidableEq, Repr

/-- A PUBLISH at its region's home (R38): region, issuing chip and its tag, new base, expected version, and its deadline in
frame time (0: none). -/
structure PubReq where
  rgn  : Nat
  chip : Nat
  tag  : Nat
  base : Nat
  expected : Nat
  dl   : Nat
  deriving DecidableEq, Repr

structure Xlt where
  tlb  : List TlbE := []
  walk : List WalkE := []
  /-- Extent-check cache by extent SA / 2^30. -/
  extc : AMap (BitVec 128) := []
  /-- Region cache by HOME x 2^14 + REGION. -/
  regc : AMap (BitVec 512) := []
  /-- Open shootdowns, originated and received. -/
  shoots : List Shoot := []
  nextShoot : Nat := 0
  /-- Open fault batch per tenant: records written in it (R70). -/
  batch : AMap Nat := []
  /-- PUBLISH requests waiting at this home. -/
  pubWait : List PubReq := []
  deriving DecidableEq, Repr

/-! ## Queues -/

/-- Where a descriptor stands between fetch and completion. -/
inductive Phase where
  /-- Ring read outstanding. -/
  | fetching
  /-- Checked, waiting for translation. -/
  | untranslated
  /-- Translated, waiting for the launch conditions of R105. -/
  | waiting
  /-- Launched; its opcode has not begun to act. -/
  | launched
  /-- Running. -/
  | running
  /-- Its work is done; waiting for its local writes to be performed (R170). -/
  | finishing
  deriving DecidableEq, Repr

/-- A pending stop of a running descriptor: status and substatus to complete with at its next tile boundary. -/
abbrev Stop := Nat × Nat

/-- The state of one scribe computation (R405): POLY, register, data bytes fed, FOLDSEL done. -/
structure ScrRun where
  poly : Nat := 0
  reg  : Nat := 0
  cnt  : Nat := 0
  deriving DecidableEq, Repr

/-- One sequence of an ATTN_DECODE: lease index, TOKENS and block slot numbers taken at launch (R296), and per group
the round reached, the blocks read and whether it has stopped. -/
structure AttnSeq where
  lease  : Nat
  tokens : Nat
  blocks : List Nat
  deriving DecidableEq, Repr

/-- One (sequence, group) pair of an ATTN_DECODE in progress. -/
structure AttnGroup where
  sq     : Nat
  grp    : Nat
  /-- Blocks read so far, in the order read, the array that took each (R302), and whether the stop test ended the group
  (R298). -/
  read   : List Nat := []
  on     : List Nat := []
  done   : Bool := false
  deriving DecidableEq, Repr

/-- An exchange that a look-up or an update has sent and whose answer it awaits (R334, R349). -/
structure EmbSent where
  chip : Nat
  tag  : Nat
  kind : Nat
  data : List Byte
  deriving DecidableEq, Repr

/-- A look-up or an update (R333, R346): table, version slot and version held, HOTGEN taken, whether its exchanges are out,
the answers awaited, the partials that have come (reply slot, bytes), rows read from shards and from replicas,
contributions applied, and whether a window was closed by WINTO; owner positions that were fenced before they answered, and the
contributions to their rows (owner position, place, values) that are to be applied to the surviving copy (R337). -/
structure EmbRun where
  tab  : Nat
  slotB : Bool
  ver  : Nat
  gen  : Nat
  out  : Bool := false
  await_ : List EmbSent := []
  parts : List (Nat × List Byte) := []
  shard : Nat := 0
  repl : Nat := 0
  applied : Nat := 0
  winto : Bool := false
  lost : List Nat := []
  redo : List (Nat × Nat × List Nat) := []
  deriving DecidableEq, Repr

/-- A scan (R372 to R386): snapshot SEQ and NEXTSLOT; per far channel the blocks read and the blocks to read (at key 64: the
chunks or queries done and to do); channels that left the scan, that leave it at the end of their stripe, and that have a
block not scored; the header block of the stripe each channel reads; per query the best entries so far (score, slot, item);
items scored and left out; candidates tombstoned and absent. -/
structure ScanRun where
  sq : Nat
  m : Nat
  ord : Nat := 0
  pos : AMap Nat := []
  tot : AMap Nat := []
  gone : List Nat := []
  leaving : List Nat := []
  unread : List Nat := []
  heads : AMap (Option (BitVec 32768)) := []
  best : AMap (List (Int × Nat × Nat)) := []
  scored : Nat := 0
  out : Nat := 0
  tomb : Nat := 0
  gap : Nat := 0
  deriving DecidableEq, Repr

/-- A physical weight tile as the cells of a grid hold it (R236): the kernel and the output column tile it serves, its logical
tiles (tile row, rank among the stored ones), and the weights of each column: reduction row, element, block scale. -/
structure WTile where
  sq   : Nat
  nt   : Nat
  ts   : List (Nat × Nat)
  cols : List (List (Nat × Nat × Nat))
  deriving DecidableEq, Repr

/-- A part of SPARSE_GEMM's plan (R260): the array that has it, row chunk and column tile of its output tile, the physical
tiles it runs, the passes it has run, and whether its sums start from C (R259). -/
structure GPart where
  arr  : Nat
  mt   : Nat
  nt   : Nat
  ts   : List (List (Nat × Nat))
  ran  : Nat := 0
  lead : Bool := true
  deriving DecidableEq, Repr

/-- A SPARSE_GEMM in progress: its plan, the partial tiles summed on the planes, the output tiles finished (both by row chunk
x 2^16 + column tile) and the rows skipped. -/
structure GemmRun where
  plan  : Bool := false
  parts : List GPart := []
  sums  : AMap (List Nat) := []
  outs  : AMap (List Byte) := []
  skips : Nat := 0
  deriving DecidableEq, Repr

/-- An EXPERT_FFN in progress (R310): whether it is routed, the experts still to run, those that have finished, in order, and
the passes left of the first one to run. -/
structure FfnRun where
  routed : Bool := false
  todo   : List Nat := []
  ran    : List Nat := []
  left   : Nat := 0
  deriving DecidableEq, Repr

/-- What a running descriptor has done so far, by kind of operator. -/
inductive Work where
  | idle
  /-- A pool operation: pieces finished, result so far, scribe computation. -/
  | pool (done : List Nat) (res : Nat) (scr : Option ScrRun)
  /-- SPARSE_GEMM and EXPERT_FFN on the arrays. -/
  | gemm (r : GemmRun)
  | ffn (r : FfnRun)
  /-- KV_APPEND: tokens before it, new slots taken from the pool, and how far it is: 1 its rows, summaries and map entries are
  written, 2 the new TOKENS is issued. -/
  | append (tokens : Nat) (taken : List Nat) (wrote : Nat)
  /-- ATTN_DECODE. -/
  | attn (seqs : List AttnSeq) (groups : List AttnGroup)
  /-- LAYER_STREAM: done count, layers signalled in RDY, late-weight events, whether it waits for the layer of the done
  count, and a block of the window whose fill failed, with its substatus. -/
  | layer (d rdy late : Nat) (waiting : Bool) (bad : Option (Nat × Nat))
  /-- An embedding look-up or update that holds its version. -/
  | emb (r : EmbRun)
  | scan (r : ScanRun)
  /-- VINSERT or VDELETE in progress: 1 its vectors are written, 2 its headers too. -/
  | vwrite (pos : Nat)
  /-- PUBLISH sent to its home, PREFETCH waiting for host data, CUT in progress: the tag awaited. -/
  | await (tag : Nat)
  deriving DecidableEq, Repr

/-- One descriptor, from fetch to completion (R95, R96). The queue context number names its queue. -/
structure Slot where
  /-- Launch order: the order of fetch. -/
  seq   : Nat
  d     : Desc
  ctx   : Nat
  /-- Position in its ring. -/
  idx   : Nat
  ph    : Phase := .fetching
  /-- Frame time at fetch. -/
  ftime : W64 := 0
  /-- Translation epoch it carries; none: not translated, parked, or privileged. -/
  epoch : Option Nat := none
  /-- SA extents of the six operands (R62). -/
  ops   : List (List SAExt) := []
  /-- Versions of regions read, by HOME x 2^14 + REGION (R37). -/
  rgns  : AMap (BitVec 512) := []
  /-- It counts in WAITERS of its tally (R182). -/
  tallyWait : Bool := false
  /-- It passed condition 4 of R105. -/
  tallyOk : Bool := false
  /-- It passed the lateness test of its raising (R432). -/
  raiseOk : Bool := false
  /-- Leases it pins, and those that its handles named, in their order (R284). -/
  leases : List Nat := []
  seqs : List Nat := []
  /-- Lines read from other homes or through snoops: SA / 64 to data and POISON. -/
  rdata : AMap (Line × Bool) := []
  /-- Lines asked for and not yet received. -/
  asked : List Nat := []
  /-- Writes to local homes not yet performed (R170). -/
  owed  : Nat := 0
  /-- A status that a poisoned line, a refused write (R641) or a tier gave it. -/
  err   : Option Stop := none
  /-- Bytes of its writes that a home refused. -/
  unwrit : Nat := 0
  /-- A stop waiting for its next tile boundary; the frame time of one that a wait on the far tier gave (R213). -/
  stop  : Option Stop := none
  lateAt : Option W64 := none
  /-- Tags cancelled while its bytes were on their way. -/
  ctag  : List Nat := []
  /-- Its completion signals whatever IRQ and ERRIRQ say (R415). -/
  sig   : Bool := false
  /-- Status, substatus and result to write once its local writes are performed. -/
  fin   : Option (Nat × Nat × Nat) := none
  /-- Order of launch, and whether it was launched more than 1 µs after its RTIME (R434). -/
  lseq  : Nat := 0
  late  : Bool := false
  work  : Work := .idle
  deriving DecidableEq, Repr

/-- A parked descriptor (R71 to R76). -/
structure Parked where
  slot : Slot
  kind : Nat
  rec_ : BitVec 256
  /-- Its record still waits to be written to the fault ring. -/
  held : Bool
  /-- Detection order. -/
  order : Nat
  deriving DecidableEq, Repr

/-- Why a queue's fetching is stopped (STATE 3). -/
inductive StopCause where
  | fring | park | spill
  deriving DecidableEq, Repr

/-- An outstanding ring read (R100): queue, first index, count, its slots. -/
structure RingRead where
  ctx   : Nat
  first : Nat
  n     : Nat
  seqs  : List Nat
  /-- The bytes as they were when the read was made, of a ring in this chip's own near tier. -/
  data  : Option (List Desc) := none
  deriving DecidableEq, Repr

structure Que where
  /-- Queue contexts (Table QUE-1); unlisted: zero. -/
  ctx : AMap (BitVec 2048) := []
  /-- Descriptor slots in use, by launch order (R96: at most 16,384). -/
  slots : AMap Slot := []
  nextSeq : Nat := 0
  nextLaunch : Nat := 0
  reads : List RingRead := []
  /-- Signalling completions since the last message, per context (R121). -/
  signal : AMap Nat := []
  /-- Park slots in use, and their generations (unlisted: 0). -/
  park : AMap Parked := []
  parkGen : AMap Nat := []
  parkOrder : Nat := 0
  /-- Descriptors resumed with RETRY that wait for a descriptor slot (R96). -/
  retryWait : List Slot := []
  /-- Queues whose fetching is stopped, and every cause that still holds (R71 to R73). -/
  stopped : AMap (List StopCause) := []
  /-- Contexts whose message waits until completion writes at other homes are acknowledged (R121). -/
  msgDue : List Nat := []
  /-- Lost or refused posted writes not yet reported: context, launch order of the issuer, status, substatus, SA
  (R175, R641). -/
  lost : List (Nat × Nat × Nat × Nat × Nat) := []
  /-- Host reads outstanding: tag, issuing descriptor, offset in its operand, length (R562). -/
  hreads : List (Nat × Nat × Nat × Nat) := []
  nextHtag : Nat := 0
  deriving DecidableEq, Repr

/-- An entry of the pending-write table (R166): line, the write, its issuer. -/
structure Pend where
  tag  : Nat
  sa   : Nat
  dst  : Nat
  req  : HomeReq
  ctx  : Nat
  seq  : Nat
  /-- Waits behind an earlier write to the same line, or for an entry of the table: not yet sent. -/
  held : Bool := false
  /-- Order of issue among the chip's accesses. -/
  ord  : Nat := 0
  /-- A completion entry. -/
  cpl  : Bool := false
  deriving DecidableEq, Repr

/-- A remote engine read in flight: TAG, home, line, issuing descriptor. -/
structure RemRead where
  tag : Nat
  sa  : Nat
  seq : Nat
  /-- Held behind a pending write to its line (R166). -/
  held : Bool := false
  /-- The bytes of the line it asks for, and bytes of the line that other reads of the descriptor have brought. -/
  off  : Nat := 0
  len  : Nat := 64
  acc  : Line := 0
  /-- Order of issue among the chip's accesses. -/
  ord  : Nat := 0
  deriving DecidableEq, Repr

structure Eng where
  pend  : List Pend := []
  reads : List RemRead := []
  deriving DecidableEq, Repr

/-! ## Arrays and key/value leases -/

/-- A selected kernel whose first execution has ended (R494): what it completes with, its outputs as computed (format,
bytes), and, after a mismatch, the two arrays. -/
structure Plumb where
  st   : Nat
  sub  : Nat
  res  : Nat
  out  : List (Nat × List Byte) := []
  pair : Option (Nat × Nat) := none
  /-- The check is over: the kernel ends with `sub`. -/
  ok   : Bool := false
  deriving DecidableEq, Repr

/-- The parts of one array that hold data (Table ARR-1). -/
structure ArrUnit where
  /-- Bench: the 64-byte lines whose content is known; every other line holds zeros, or, once microcode has used the bench, what
  no rule states: it is named by `benchUse`. -/
  bench : AMap Line := []
  benchUse : Option Nat := none
  /-- The plane's 64 vector registers of 512 x 32 bits: zeros, or what microcode last left there. -/
  vregUse : Option Nat := none
  /-- The weight registers of the grid's cells, and the shadow registers (R236). -/
  weight : Option WTile := none
  shadow : Option WTile := none
  /-- The sequencer's program counter and instruction word (R268). -/
  pc : BitVec 32 := 0
  iw : BitVec 32 := 0
  deriving DecidableEq, Repr

structure Arr where
  /-- Array to the descriptor (launch order) that holds it. -/
  held : AMap Nat := []
  /-- Owner of the last kernel of each array: 512 a privileged queue (R264). -/
  last : AMap Nat := []
  /-- The arrays' own registers and memories. -/
  unit : AMap ArrUnit := []
  /-- Arrays whose kernel is told to stop and that have reached its tile boundary (R271). -/
  bound : List Nat := []
  /-- Launched kernels waiting for an array, in launch order. -/
  waiting : List Nat := []
  /-- Arrays power-gated, or waking (R544 to R546). -/
  gated : List Nat := []
  waking : List Nat := []
  /-- Array-time used by each tenant in the current window of 100 µs, in counts of frame time, and that window (R270). -/
  used : AMap Nat := []
  win : Nat := 0
  /-- Phase of the array clock: it gains 16 - STEP at each fclk, and an acyc passes at 32 (R549). -/
  phase : Nat := 0
  /-- Launches of replayable kernels counted, kernels selected for a plumb check, checks that wait for the second
  execution or for self-tests, and arrays under self-test (R494 to R496). -/
  plumbCnt : Nat := 0
  chosen : List Nat := []
  plumb : AMap Plumb := []
  testing : List Nat := []
  deriving DecidableEq, Repr

structure Kv where
  /-- Pool slots in use, by tenant x 2^32 + slot, with the lease that holds each. -/
  slots : AMap Nat := []
  /-- Blocks released by TRUNCATE that wait for earlier pinning descriptors: lease, slots, descriptors (R292). -/
  trunc : List (Nat × List Nat × List Nat) := []
  deriving DecidableEq, Repr

/-! ## Scribes -/

structure Nmo where
  /-- POOL scribe to the descriptor that holds it; descriptors waiting for one. -/
  held : AMap Nat := []
  waiting : List Nat := []
  /-- SCR_CFG of a register-fed scribe as START took it. -/
  cfg : AMap W64 := []
  deriving DecidableEq, Repr

/-! ## Embedding tables -/

/-- An operator exchange as it comes in (R471): names, records so far, the next MSGNO, messages ahead of it (with LAST),
whether it is whole, and, while it is served, the lines read and the writes not yet performed. -/
structure Exch where
  chip : Nat
  ten  : Nat
  xslot : Nat
  tag  : Nat
  kind : Nat
  obj  : Nat
  ver  : Nat
  param : Nat
  data : List Byte := []
  next : Nat := 0
  ahead : AMap (List Byte × Bool) := []
  whole : Bool := false
  poison : Bool := false
  rdata : AMap (Line × Bool) := []
  asked : List Nat := []
  owed : Nat := 0
  err  : Option (Nat × Nat) := none
  /-- Its writes are out. -/
  wrote : Bool := false
  deriving DecidableEq, Repr

/-- A participant of an update window: its chip, XSLOT, TAG and version, contributions received and applied, the number it sent
once its end message has come, and whether its UPDATE was answered with OPX_ERR. -/
structure EmbPart where
  chip : Nat
  xslot : Nat
  tag  : Nat
  ver  : Nat
  got  : Nat := 0
  applied : Nat := 0
  sent : Option Nat := none
  refused : Bool := false
  deriving DecidableEq, Repr

/-- An open update window (R349, R350): RTIME, or 0 and the chip and XSLOT of its one update; sequence number of its
overwrite tags (R348); frame time of its first message; participants. -/
structure EmbWin where
  key  : Nat × Nat × Nat
  seqn : Nat
  t0   : W64
  parts : List EmbPart := []
  deriving DecidableEq, Repr

/-- What the chip keeps for a table beside its record. -/
structure EmbTab where
  /-- Row sketch in use, its counters by 16,384 x line + column, and the candidate list (R340). -/
  sketch : Bool := false
  cnt : AMap Int := []
  cand : List Nat := []
  /-- Pinned set (R342). -/
  pinned : List Nat := []
  /-- Current buffer of the hot area, and the generation last in each (R341, R344). -/
  cur : Nat := 0
  gens : AMap Nat := []
  /-- Rows pushed into the idle buffer so far: owner position, row, version, bytes; owners whose pushes have ended; rows
  discarded (R343). -/
  push : List (Nat × Nat × Nat × List Byte) := []
  ended : List Nat := []
  disc : Nat := 0
  /-- Rows that have come from each owner position, and the number its end message names. -/
  recv : AMap Nat := []
  due : AMap Nat := []
  /-- Hot set chosen by the REFRESH that runs here. -/
  hot : List Nat := []
  /-- The REFRESH that runs. -/
  refresh : Option Nat := none
  /-- Update windows open, keys of those closed, and the next window sequence number. -/
  wins : List EmbWin := []
  closed : List (Nat × Nat × Nat) := []
  nextWin : Nat := 1
  deriving DecidableEq, Repr

structure Emb where
  /-- Exchanges in arrival order. -/
  xin : AMap Exch := []
  nextX : Nat := 0
  tabs : AMap EmbTab := []
  deriving DecidableEq, Repr

/-! ## Plane engines -/

structure Vsc where
  /-- Powered engines (channel numbers), each with a scan that holds it (R544, R545). -/
  up : List (Nat × Nat) := []
  /-- Engine time used by each tenant in the current window of 100 µs, and that window (R379). -/
  used : AMap Nat := []
  win : Nat := 0
  deriving DecidableEq, Repr

/-! ## Frame time -/

structure Tim where
  /-- Frame time (TIM_FTNOW) and its 32 fraction bits (R418). -/
  now  : W64 := 0
  frac : Nat := 0
  /-- Exchanges good in a row while ACQUIRING, exchanges without a reply, the next XID, the request out: XID and t1. -/
  good : Nat := 0
  miss : Nat := 0
  xid  : Nat := 0
  out  : Option (Nat × W64) := none
  /-- A grandmaster is known; its PRIO. -/
  known : Bool := false
  gmPrio : Nat := 255
  /-- Frame time at which HOLDOVER began, and the reference no longer steers (R431). -/
  held : W64 := 0
  refOff : Bool := false
  deriving DecidableEq, Repr

/-! ## Links -/

/-- A flit kept in the retry buffer (R452). -/
structure Flit where
  hdr  : BitVec 128
  msgs : List Msg
  cnt  : Nat
  key  : Nat
  stomp : Bool := false
  deriving DecidableEq, Repr

/-- What a port keeps beside its registers. -/
structure Port where
  /-- Training failures in a row. -/
  fails : Nat := 0
  /-- Transmitter: next SEQ, unacknowledged flits with the oldest first, the next of them to resend, replays of the SEQ last
  asked for, next CNT and key in use. -/
  txSeq : Nat := 0
  buf : List Flit := []
  replay : Option Nat := none
  again : Nat × Nat := (0, 0)
  txCnt : Nat := 0
  txKey : Nat := 0
  /-- Receiver: SEQ, KEYSEL and CNT expected; a NAK is due; flits are discarded until the SEQ comes; its NAK timer runs; frame
  times of the latest tag failures. -/
  rxSeq : Nat := 0
  rxSel : Nat := 0
  rxCnt : Nat := 0
  nak : Bool := false
  discard : Bool := false
  nakHeld : Bool := false
  tagFails : List W64 := []
  /-- Credits by VC: advertised by the neighbour, held, and to be returned. -/
  adv : AMap Nat := []
  credit : AMap Nat := []
  owed : AMap Nat := []
  /-- Round robin: VC served last, and whether a forwarded flow was served last on each VC. -/
  rr : Nat := 0
  rrFwd : List Nat := []
  /-- Messages of this port itself (one-hop CTL messages), oldest first. -/
  own : List Msg := []
  /-- Link exchange: own HELLO, ENCAP and FINISH bodies sent, those received, and fragments of the next by TYPE. -/
  sent : AMap (List Byte) := []
  got : AMap (List Byte) := []
  frag : AMap (List Byte) := []
  /-- Number of the newest key, and whether it awaits the receiver's switch. -/
  keyNo : Nat := 0
  rxNew : Bool := false
  /-- Heartbeats: one accepted in this window, the last one, one held by RETRAIN. -/
  hbGot : Bool := false
  hb : BitVec 128 := 0
  hbHeld : Bool := false
  /-- Flit times used by each tenant in the current window of 10 µs, and that window (R458). -/
  used : AMap Nat := []
  win : Nat := 0
  deriving DecidableEq, Repr

structure Lnk where
  /-- Ports by number; unlisted: as after reset. -/
  ports : AMap Port := []
  /-- Neighbours whose death is declared after the wait of R475, rising. -/
  dying : List Nat := []
  deriving DecidableEq, Repr

/-! ## Tenancy and keys -/

structure Sec where
  /-- Tenants whose keys are being derived after a write of EN (R515), rising. -/
  enabling : List Nat := []
  /-- Tenants in reset (R516), rising. -/
  resetting : List Nat := []
  /-- Tenants whose erase has not ended (R527), rising. -/
  erasing : List Nat := []
  /-- Tenants whose keys the key store holds (R523), rising; system keys and frame seed held. -/
  keys : List Nat := []
  sysKeys : Bool := false
  seed : Bool := false
  /-- The vault in boot flash: FSID (0: no frame seed), owner key hash, KGEN by tenant (R524). -/
  vFsid : W64 := 0
  vOwner : BitVec 384 := 0
  vKgen : AMap Nat := []
  /-- The manifest in force: its bytes and those of the owner's transfer certificate (R530, R532). -/
  manifest : List Byte := []
  tcount : Nat := 0
  /-- Measurement 6: debug unlocked since cold reset; the nonce drawn last, and the token being written. -/
  dbg : Bool := false
  nonce : Option (List Byte) := none
  token : AMap W64 := []
  /-- SPDM connection states by transport: 0 none, 1 versions, 2 capabilities, 3 algorithms negotiated. -/
  spdm : AMap Nat := []
  /-- IDE_KM session of the DOE mailbox: its number (0 none). -/
  ideSess : Nat := 0
  ideN : Nat := 0
  /-- Stream keys programmed, and key sets in use (by stream, key set, direction, substream). -/
  ideKeys : List Nat := []
  ideGo : List Nat := []
  deriving DecidableEq, Repr

/-! ## Failure and power -/

/-- What a cut keeps in its slot (R503, R504): near-tier pages by OFFSET / 4096 (lines and metadata), staging pages by block,
index values by SA / 4096, the tier 2 image and the flash mapping of the freeze. The spec lays none of it out in the slot's
blocks. -/
structure CutSlot where
  id : Nat := 0
  sealed : Bool := false
  near : AMap (List NearLine) := []
  stg : AMap Page := []
  index : AMap W64 := []
  ext : AMap (BitVec 128) := []
  ver : AMap (BitVec 512) := []
  pgr : AMap (BitVec 512) := []
  tally : AMap (BitVec 128) := []
  far : AMap FarBlock := []
  deriving DecidableEq, Repr

/-- What the end of a bring-up stage brings from outside the chip (Table HST-4): stage 1, the host link's rate, width and
mode; 2, the manifest in force and the transfer count; 4, the pseudo-channels that fail their test; 5, whether the vault
unwraps; 6, the caching agents of the frame and the hops of its plan; 7, a cut slot reconstructed for a fenced chip. -/
structure StageEnd where
  speed : Nat := 6
  width : Nat := 8
  flit : Bool := true
  manifest : List Byte := []
  tcount : Nat := 0
  badPc : List Nat := []
  vaultOk : Bool := true
  caching : List Nat := []
  hops : AMap Nat := []
  caps : AMap Nat := []
  slot : Option CutSlot := none
  deriving DecidableEq, Repr

/-- A cut in progress: its descriptor, STEPB, slot, frame time of the freeze, near extents and staging blocks protected at the
freeze, pages drained, pages held by the reserve, writes that wait for one, frame time since which some write waits, hold so
far, bytes drained. -/
structure CutRun where
  sq : Nat
  id : Nat
  stepb : Bool
  slot : Nat
  t0 : W64
  exts : List Nat := []
  stg : List Nat := []
  gone : List Nat := []
  stgGone : List Nat := []
  held : AMap (List NearLine) := []
  stgHeld : AMap Page := []
  waiting : List HomeReq := []
  pull : Option Nat := none
  since : Option W64 := none
  hold : Nat := 0
  bytes : Nat := 0
  frozen : Bool := true
  deriving DecidableEq, Repr

structure Red where
  /-- The chip has fenced itself (R477). -/
  selfFenced : Bool := false
  /-- Launches are held: the freeze of a cut (R502). -/
  freeze : Bool := false
  /-- RESTART order held for bring-up: CUTID and frame plan version (R581). -/
  restore : Option (Nat × Nat) := none
  cut : Option CutRun := none
  /-- The two cut slots, and the one that holds the newest sealed cut. -/
  slots : AMap CutSlot := []
  newest : Option Nat := none
  /-- The rebuild in progress: source and target extent SA, whether this chip is the target (R492). -/
  rebuild : Option (Nat × Nat × Bool) := none
  /-- The report ring by SEQ mod 256 (R497). -/
  reports : AMap (BitVec 512) := []
  deriving DecidableEq, Repr

structure Pwr where
  /-- Bring-up stage 3 has ended: the fast domain runs and its registers answer (R583). -/
  fast : Bool := false
  /-- The sill domain is powered; RAILEN lines high; rails within tolerance (0 VIN, 1 VSTP, 2 VSTK, 3 VSTQ, 4 VFIO, 5 VPCIE),
  rising; PERST# is asserted; SILL was entered after a rail fault; references present. -/
  sill : Bool := true
  railen : Nat := 1
  rails : List Nat := []
  perst : Bool := true
  railFault : Bool := false
  lref : Bool := true
  pref : Bool := true
  crystal : Bool := true
  /-- Power manager (R549, R550, R552): µs above SUST without a break, µs since a cause to throttle last held, sum and count of
  the samples of the current 100 ms, µs at STEP 12 with a sensor at 105 °C or more. -/
  over8 : Nat := 0
  clear : Nat := 0
  sum : Nat := 0
  cnt : Nat := 0
  hot12 : Nat := 0
  /-- PARKED, or SILL after it, is entered once no descriptor is left (R548). -/
  parking : Bool := false
  /-- Secondaries whose mirror report is awaited, by quiescing sled (R556). -/
  mirrors : AMap (List Nat) := []
  /-- Requests of other chips to write back mirror pages: chip, extents. -/
  flush : List (Nat × List Nat) := []
  /-- Sleds whose switch is on, and those whose SLEDPG is high (R633), rising. -/
  sledOn : List Nat := []
  sledGood : List Nat := []
  deriving DecidableEq, Repr

/-! ## Host port -/

structure Hst where
  /-- VF Enable and NumVFs (R568). -/
  vfEn : Bool := false
  numVfs : Nat := 0
  /-- A function-level reset met the chip in a store: it serves configuration requests, DOE and GLB registers alone (R577). -/
  only : Bool := false
  /-- PAGE of the MCTP copy of LDG_WINSEL (R617). -/
  mctpPage : Nat := 0
  deriving DecidableEq, Repr

end Sys2Proof.Machine
end

