-- ==== Sys2Proof/Syntax.lean ====
section
/-! DEFINITION. Syntax.lean: the commands of the OVP-7208, one constructor for each row of the opcode table, in its
order, with the row's operands. Each docstring names the rule and gives the table's own summary. -/
namespace Sys2Proof
open Machine

/-- Records of other chips' tier 2 (extent records, version records) that a walk needs, by their SA: what another chip
answers reaches the model as an operand. -/
abbrev RemRecs := List (Nat × BitVec 512)

/-- What marks a PUBLISH at its home: the tag its issuer knows it by and the descriptor's deadline in frame time, 0 for none. -/
structure PubTag where
  tag : Nat
  dl : Nat := 0
  deriving DecidableEq, Repr

/-- What an operator exchange message carries: its bytes, and whether one of its flits came poisoned. -/
structure OpxBody where
  bytes : List Byte
  poison : Bool := false
  deriving DecidableEq, Repr

inductive Instr where
  /-- EXTENT_RECORD_HIGH_WRITE (R27). A privileged write to bytes 8–15 of an extent record whose VALID is 0 stores the partner, group and position fields for later application. -/
  | extentRecordHighWrite (far : Bool) (e : Nat) (v : W64)
  /-- EXTENT_RECORD_APPLY (R27). A write to bytes 0–7 that changes VALID from 0 to 1 applies the extent record, sets STATE NORMAL and charges the quota. -/
  | extentRecordApply (far : Bool) (e : Nat) (v : W64)
  /-- EXTENT_VALID_CLEAR (R33). A write that clears VALID sets STATE RETIRING, and the home begins recalling every cached line of the extent. -/
  | extentValidClear (far : Bool) (e : Nat) (v : W64)
  /-- EXTENT_RETIRE_IDLE (R33). When the last line of a retiring extent is uncached and no transaction on it is open, its STATE becomes IDLE and its quota charge is released. -/
  | extentRetireIdle (far : Bool) (e : Nat)
  /-- TIER2_WIDE_WRITE (R639). An aligned 64-byte tier 2 write is applied record by record in address order, bytes 8–15 before bytes 0–7 of each record. -/
  | tier2WideWrite (off : Nat) (v : Line) (prv : Bool) (ten : Nat)
  /-- VERSION_RECORD_WRITE (R36). A privileged write to a version record creates or changes a region, and is refused as a whole if a reserved field would become non-zero or PSIZE would be 3. -/
  | versionRecordWrite (rgn : Nat) (word : Option Nat) (v : Line)
  /-- PUBLISH (R109). The PUBLISH descriptor checks that its new version translates to one aligned extent of LENGTH bytes and sends that base to the region's home. -/
  | publish (sq : Nat) (rem : RemRecs)
  /-- PUBLISH_HOME_UPDATE (R38). The region's home compares the expected version, updates the version record in one write and starts the region shootdown. -/
  | publishHomeUpdate (rgn base expected chip : Nat) (tag : PubTag)
  /-- PUBLISH_DRAINED (R84). At the drained point of a PUBLISH shootdown, PREV is cleared and STATE returns to PUBLISHED. -/
  | publishDrained (id : Nat)
  /-- MIRROR_WRITE_ACCEPT (R41). The secondary's acceptance of a mirror write arrives, and the write is acknowledged to its writer. -/
  | mirrorWriteAccept (tag : Nat)
  /-- PARITY_DELTA_UPDATE (R44). A P or Q home receives the XOR of an old and new data block and applies it to its parity block. -/
  | parityDeltaUpdate (chip tag : Nat) (sa pos : Nat) (delta : BitVec 32992)
  /-- PARITY_DELTA_ACK (R44). The data home receives a parity acknowledgement, and the block leaves staging-dirty once both P and Q have acknowledged. -/
  | parityDeltaAck (sa : Nat) (isQ ok : Bool)
  /-- TRANSLATE_DESCRIPTOR (R59). The pre-translator walks or checks every page of a descriptor's operands and writes the SA extent list. -/
  | translateDescriptor (sq : Nat) (rem : RemRecs)
  /-- FAULT_RECORD_WRITE (R70). A new or held fault record is written to the tenant's fault ring once space allows. -/
  | faultRecordWrite (ten : Nat)
  /-- FAULT_BATCH_CLOSE (R70). A fault batch closes at 64 records or 2 µs after it opened, and one MSI-X message is sent. -/
  | faultBatchClose (ten : Nat)
  /-- FAULT_RING_HEAD_WRITE (R71). A TEN_FRING_HEAD write frees ring space, so held records are written in order and fetching resumes. -/
  | faultRingHeadWrite (ten : Nat) (v : W64)
  /-- FAULT_RING_ENABLE (R71). Setting TEN_FRING_CTL.EN releases the held fault records and resumes the tenant's fetching. -/
  | faultRingEnable (ten : Nat) (v : W64)
  /-- RESUME_RETRY (R75). A TEN_FRESUME write with action RETRY returns a parked descriptor to translation from the start and frees its slot. -/
  | resumeRetry (ten pslot gen : Nat)
  /-- RESUME_ABORT (R75). A TEN_FRESUME write with action ABORT completes the parked descriptor with FAULT_UNRESOLVED and frees its slot. -/
  | resumeAbort (ten pslot gen : Nat)
  /-- PARKED_DEADLINE_EXPIRE (R76). A parked descriptor's deadline passes, so it completes with FAULT_UNRESOLVED, substatus 0x0100 + KIND. -/
  | parkedDeadlineExpire (pslot : Nat)
  /-- PARK_SLOT_AVAILABLE (R71). A park slot frees, and a queue stopped by exhausted parking resumes and retranslates its head descriptor. -/
  | parkSlotAvailable (n : Nat)
  /-- SPILL_SPACE_AVAILABLE (R63). Spill space frees, and a queue stopped for spill space translates its waiting descriptor from the start. -/
  | spillSpaceAvailable (n : Nat)
  /-- SHOOTDOWN_VA (R81). GO with KIND VA drops the tenant's entries for the range and advances its epoch. -/
  | shootdownVa (v : W64)
  /-- SHOOTDOWN_TENANT (R80). GO with KIND TENANT drops all of the tenant's entries and advances its epoch. -/
  | shootdownTenant (v : W64)
  /-- SHOOTDOWN_EXTENT (R80). GO with KIND EXTENT drops the extent-check entry and every leaf in the extent and advances every tenant's epoch. -/
  | shootdownExtent (v : W64)
  /-- SHOOTDOWN_REGION (R80). GO with KIND REGION drops the region entry and every leaf indirected through it and advances every tenant's epoch. -/
  | shootdownRegion (v : W64)
  /-- SHOOTDOWN_RESERVED_KIND (R85). GO with KIND 4 to 7 starts nothing and writes a ledger record. -/
  | shootdownReservedKind (v : W64)
  /-- SHOOTDOWN_DRAINED (R81). The last unfinished descriptor of an older epoch completes, so the drained point is reached and DONE and the MSI-X message follow. -/
  | shootdownDrained (id : Nat)
  /-- SHOOT (R83). A SHOOT message received over CTL is applied locally and acknowledged at the dropped and drained points. -/
  | shoot (chip id kind addr len ten : Nat)
  /-- SHOOT_ACK (R83). The originating chip counts a SHOOT_ACK toward the frame-wide dropped or drained point. -/
  | shootAck (chip id : Nat) (drained : Bool)
  /-- QUEUE_CONTEXT_ENABLE (R89). A write setting EN on a queue context enables the queue, unless the context duplicates another or the tenant is at its queue quota. -/
  | queueContextEnable (n : Nat) (v : W64)
  /-- QUEUE_CONTEXT_DISABLE (R91). A write clearing EN cancels all of the queue's descriptors and sets STATE DRAINING. -/
  | queueContextDisable (n : Nat) (v : W64)
  /-- QUEUE_DRAIN_END (R91). INFL of a draining queue reaches 0, and STATE becomes DISABLED. -/
  | queueDrainEnd (n : Nat)
  /-- SQ_TAIL (R97). A doorbell write of SQ_TAIL is checked and, if accepted, marks descriptors ready. -/
  | sqTail (prv : Bool) (ten q : Nat) (v : W64)
  /-- CQ_HEAD (R97). A doorbell write of CQ_HEAD is checked and, if accepted, frees completion entries. -/
  | cqHead (prv : Bool) (ten q : Nat) (v : W64)
  /-- RESUME (R117). Doorbell CMD RESUME sets a halted queue RUNNING and restarts fetching at SQHEAD. -/
  | resume (prv : Bool) (ten q : Nat)
  /-- CANCEL_ALL (R118). Doorbell CMD CANCEL_ALL cancels every fetched and uncompleted descriptor of the queue. -/
  | cancelAll (prv : Bool) (ten q : Nat)
  /-- CANCEL_TAG (R118). Doorbell CMD CANCEL_TAG cancels the uncompleted descriptors whose TAG matches. -/
  | cancelTag (prv : Bool) (ten q tag : Nat)
  /-- DOORBELL_MISSIZED_WRITE (R97). A doorbell page write of any other size or alignment is ignored whole and logged. -/
  | doorbellMissizedWrite (prv : Bool) (page off : Nat)
  /-- DESCRIPTOR_FETCH (R96). The chip issues a ring read for up to eight descriptors once INFL, a slot and completion space allow. -/
  | descriptorFetch (n : Nat)
  /-- DESCRIPTOR_ARRIVE (R104). Fetched descriptor bytes reach their slot and the header and slots are checked. -/
  | descriptorArrive (n first : Nat) (ds : List Desc)
  /-- DESCRIPTOR_LAUNCH (R105). A descriptor launches once translation, ORDERED, POSTED_FENCE, tally and raising conditions all hold. -/
  | descriptorLaunch (sq : Nat)
  /-- DESCRIPTOR_DEADLINE (R106). A descriptor's deadline expires and it completes with TIMEOUT or its chapter's status. -/
  | descriptorDeadline (sq : Nat)
  /-- INTERRUPT_MODERATION_TIMER (R121). ITIME expires after the first signalling completion, and one MSI-X message is sent. -/
  | interruptModerationTimer (n : Nat)
  /-- HOST_READ_FAIL (R572). A host read ends with an error, so the ring fetch is undone and the queue halts, or the PREFETCH completes with substatus 0x00D0. -/
  | hostReadFail (ring : Bool) (id cause : Nat)
  /-- NOP (R108). NOP moves nothing and completes with result 0. -/
  | nop (sq : Nat)
  /-- TALLY_WAIT (R182). TALLY_WAIT waits for its tally to reach TARGET and returns the tally's value. -/
  | tallyWait (sq : Nat)
  /-- TALLY_SET (R183). TALLY_SET writes VALUE to the tally's COUNT in one indivisible step. -/
  | tallySet (sq : Nat)
  /-- CUT (R502). CUT freezes the chip, protects pages and copies the tier 2 image to begin a cut. -/
  | cut (sq : Nat)
  /-- FILL (R395). FILL writes a repeated pattern into its operand and clears POISON on every line it writes. -/
  | fill (sq : Nat)
  /-- COPY (R397). COPY moves slot 0 to slot 1 in pieces, optionally under a scribe. -/
  | copy (sq : Nat)
  /-- COMPARE (R399). COMPARE returns the lowest offset at which two operands differ. -/
  | compare (sq : Nat)
  /-- REDUCE (R400). REDUCE combines up to 16 sources element by element into slot 4. -/
  | reduce (sq : Nat)
  /-- PREFETCH (R110). PREFETCH moves bytes between host memory and the store in the direction that DIR gives. -/
  | prefetch (sq : Nat)
  /-- ADVISE_NONE (R209). ADVISE NONE sets HINT NONE on each staged page of the range. -/
  | adviseNone (sq : Nat)
  /-- ADVISE_HOT (R210). ADVISE HOT sets HINT and issues fills for unstaged blocks while staging quota allows. -/
  | adviseHot (sq : Nat)
  /-- ADVISE_COLD (R209). ADVISE COLD sets HINT COLD and queues the range's dirty pages for write-back. -/
  | adviseCold (sq : Nat)
  /-- ADVISE_STREAM (R209). ADVISE STREAM sets HINT STREAM on each staged page of the range. -/
  | adviseStream (sq : Nat)
  /-- ADVISE_XLT_PRELOAD (R78). ADVISE XLT_PRELOAD walks the range into the translation caches, skipping faulting pages and counting the skipped 4 KiB units. -/
  | adviseXltPreload (sq : Nat)
  /-- SPARSE_GEMM (R253). SPARSE_GEMM computes C = A × W, or C + A × W, on granted arrays. -/
  | sparseGemm (sq : Nat)
  /-- ATTN_DECODE (R298). ATTN_DECODE computes one decode step of attention with block skipping. -/
  | attnDecode (sq : Nat)
  /-- KV_APPEND (R289). KV_APPEND appends tokens to one layer of a lease and publishes the new TOKENS last. -/
  | kvAppend (sq : Nat)
  /-- KV_LEASE_CREATE (R281). KV_LEASE CREATE takes a FREE lease record and its map slots and returns a handle. -/
  | kvLeaseCreate (sq : Nat)
  /-- KV_LEASE_ACQUIRE (R281). KV_LEASE ACQUIRE adds a reference and makes an IDLE lease LIVE. -/
  | kvLeaseAcquire (sq : Nat)
  /-- KV_LEASE_RELEASE (R281). KV_LEASE RELEASE drops a reference, and at zero the lease becomes IDLE or RECLAIMING. -/
  | kvLeaseRelease (sq : Nat)
  /-- KV_LEASE_RENEW (R281). KV_LEASE RENEW replaces the lease's EXPIRY. -/
  | kvLeaseRenew (sq : Nat)
  /-- KV_LEASE_TRUNCATE (R292). KV_LEASE TRUNCATE lowers TOKENS of the named layers and schedules the release of blocks beyond the new count. -/
  | kvLeaseTruncate (sq : Nat)
  /-- EXPERT_FFN (R304). EXPERT_FFN gates each token to TOPK experts and combines their FFN outputs. -/
  | expertFfn (sq : Nat)
  /-- LAYER_STREAM (R313). LAYER_STREAM keeps the next W layers staged and signals readiness through the RDY tally. -/
  | layerStream (sq : Nat)
  /-- EMB_GATHER (R331). EMB_GATHER looks up row indices at their owners, pooled by bag or unpooled. -/
  | embGather (sq : Nat)
  /-- EMB_UPDATE (R346). EMB_UPDATE sends row contributions to the owners in an update window. -/
  | embUpdate (sq : Nat)
  /-- EMB_LOAD (R353). EMB_SWITCH LOAD places a new shard version in the non-current slot. -/
  | embLoad (sq : Nat)
  /-- EMB_SWITCH (R354). EMB_SWITCH SWITCH inverts CURSEL to make the loaded version current. -/
  | embSwitch (sq : Nat)
  /-- EMB_REFRESH (R343). EMB_SWITCH REFRESH chooses the hot set, pushes it to every other chip and makes the new buffer current. -/
  | embRefresh (sq : Nat)
  /-- EMB_PIN (R342). EMB_SWITCH PIN replaces the chip's pinned set with the owned rows of the list. -/
  | embPin (sq : Nat)
  /-- EMB_UNPIN (R342). EMB_SWITCH UNPIN empties the pinned set. -/
  | embUnpin (sq : Nat)
  /-- VINSERT (R369). VINSERT appends items to a collection and commits SEQ and NEXTSLOT together. -/
  | vinsert (sq : Nat)
  /-- VDELETE (R370). VDELETE tombstones the named items and commits SEQ. -/
  | vdelete (sq : Nat)
  /-- VSCAN (R374). VSCAN scores every visible item of a collection and returns the top K for each query. -/
  | vscan (sq : Nat)
  /-- VRERANK (R384). VRERANK scores the named candidates and returns the top K for each query. -/
  | vrerank (sq : Nat)
  /-- SCRIBE_RUN (R413). SCRIBE_RUN computes check values over an operand, whole or by blocks, and compares them when asked. -/
  | scribeRun (sq : Nat)
  /-- RD_SHARED (R143). The home orders a read-to-cache request and grants S or E by Table COH-7. -/
  | rdShared (hdr : BitVec 128) (chip ep : Nat)
  /-- RD_OWN (R143). The home orders a read-for-ownership, invalidates other copies and grants ownership. -/
  | rdOwn (hdr : BitVec 128) (chip ep : Nat)
  /-- RD_CUR (R147). The home returns a coherent snapshot of the line without changing its state. -/
  | rdCur (hdr : BitVec 128) (chip ep : Nat)
  /-- WR_FULL (R143). The home performs a full-line write after invalidating every holder and sends CMP. -/
  | wrFull (hdr : BitVec 128) (chip ep : Nat) (data : Line)
  /-- WB (R152). The home writes a written-back dirty line at once and sends WB_ACK. -/
  | wb (hdr : BitVec 128) (chip ep : Nat) (data : Line)
  /-- EVICT_CLEAN (R152). The home records that an E or S copy was dropped and sends WB_ACK. -/
  | evictClean (hdr : BitVec 128) (chip ep : Nat)
  /-- RSP_I (R143). The home counts a snoop response that leaves no copy, and then reads memory or completes the transaction. -/
  | rspI (hdr : BitVec 128) (chip ep : Nat)
  /-- RSP_S (R143). The home counts a snoop response that keeps a clean copy and reads memory where needed. -/
  | rspS (hdr : BitVec 128) (chip ep : Nat)
  /-- RSP_FWD (R145). The home learns that data was forwarded to the requester and completes the grant. -/
  | rspFwd (hdr : BitVec 128) (chip ep : Nat)
  /-- RSP_GONE (R152). The home treats a copy given up before the snoop as RSP_I, or waits in WBW for the WB. -/
  | rspGone (hdr : BitVec 128) (chip ep : Nat)
  /-- RSP_DATA (R143). The home writes returned dirty data to memory and relays it where needed. -/
  | rspData (hdr : BitVec 128) (chip ep : Nat) (data : Line)
  /-- CMP_ACK (R134). The requester's CMP_ACK ends the transaction, and the home unpegs the entry. -/
  | cmpAck (hdr : BitVec 128) (chip ep : Nat)
  /-- NEAR_READ_RETURN (R143). A near-tier read that a home transaction waits on returns, and the transaction continues. -/
  | nearReadReturn (htx ecc : Nat) (sec : Option Line)
  /-- RETRY_QUEUE_START (R142). A request waiting in the home retry queue starts once its cause clears. -/
  | retryQueueStart (num : Nat)
  /-- HOME_TRANSACTION_TIMEOUT (R154). A transaction still open 2 ms after its request arrived ends as Table COH-13 states, and its peg is released. -/
  | homeTransactionTimeout (queued : Bool) (n : Nat)
  /-- DEAD_AGENT_SWEEP_END (R157). At the end of the sweep the home updates TEN_COHEVT, HOME_DEAD and the events, and writes ledger records. -/
  | deadAgentSweepEnd (agent : Nat)
  /-- ENG_RD (R147). A home serves a remote engine read and returns ENG_RDATA. -/
  | engRd (hdr : BitVec 128) (chip ep : Nat)
  /-- ENG_RDATA (R166). Read data for an engine's remote read arrives at the requesting chip. -/
  | engRdata (hdr : BitVec 128) (chip ep : Nat) (data : List Byte) (poison : Bool)
  /-- ENG_WR (R179). A home performs a posted write, counts its tally and sends ENG_ACK. -/
  | engWr (hdr : BitVec 128) (chip ep : Nat) (data : List Byte)
  /-- ENG_ACK (R173). The acknowledgement of a posted write frees its pending-write entry and may release a POSTED_FENCE. -/
  | engAck (hdr : BitVec 128) (chip ep : Nat)
  /-- ENG_ERR (R641). A home's refusal of a posted write is recorded and reported to the issuing or the next POSTED_FENCE descriptor. -/
  | engErr (hdr : BitVec 128) (chip ep : Nat)
  /-- ENG_OPX (R471). An operator exchange message is received and applied in MSGNO order. -/
  | engOpx (hdr : BitVec 128) (chip ep : Nat) (data : OpxBody)
  /-- POSTED_WRITE_TIMEOUT (R175). A posted write unacknowledged for 2 ms is handed to the recovery path. -/
  | postedWriteTimeout (tag : Nat)
  /-- TALLY_ALLOCATE (R177). A write to bytes 8–15 of a tally record sets OWNER and EN and zeroes COUNT on allocation. -/
  | tallyAllocate (i : Nat) (v : W64)
  /-- TALLY_COUNT_WRITE (R176). A privileged write of COUNT replaces the tally's count. -/
  | tallyCountWrite (i : Nat) (v : W64)
  /-- TALLY_RELEASE (R184). Clearing a tally's EN releases its quota and completes its waiters with ACCESS, substatus 0x0031. -/
  | tallyRelease (i : Nat) (v : W64)
  /-- FILL_DATA_VERIFIED (R196). Verified fill data lands, invalid lines are written, the page becomes CLEAN or DIRTY and waiters are released. -/
  | fillDataVerified (blk : Nat)
  /-- FILL_UNCORRECTABLE (R215). A fill's block is uncorrectable, and the recovery engine reads it once from redundancy. -/
  | fillUncorrectable (blk : Nat)
  /-- REDUNDANT_READ_RETURN (R216). The redundant read ends, filling the page or failing every waiter with TIER_UNCORRECTABLE. -/
  | redundantReadReturn (blk : Nat) (ok : Bool) (data : BitVec 32768)
  /-- WRITEBACK_START (R200). The tier write-back engine copies a chosen page, clears DMASK and programs the block. -/
  | writebackStart (blk : Nat)
  /-- WRITEBACK_ACK (R200). A write-back is acknowledged, SDIRTY is cleared where allowed and the page leaves WRITING. -/
  | writebackAck (blk : Nat)
  /-- DIRTY_AGE_EXPIRE (R199). A sector dirty for MAXAGE ms makes its page a write-back candidate. -/
  | dirtyAgeExpire (blk : Nat)
  /-- EVICTION_START (R206). A page is needed or free pages fall below LOW, so a candidate page is chosen and evicted. -/
  | evictionStart (ten : Nat) (sys : Bool)
  /-- PATROL_SCRUB_STEP (R220). The patrol scrubber reads its next near-tier line, correcting or handling errors. -/
  | patrolScrubStep (ecc : Nat) (sec : Option Line)
  /-- ERASE_BLOCK_FAIL (R224). An erase block fails to program or erase and is retired, and the wear counts grow. -/
  | eraseBlockFail (ch : Nat) (chanFail : Bool)
  /-- ARRAY_GRANT (R270). A freed array is granted to the next waiting kernel in launch order. -/
  | arrayGrant (a : Nat)
  /-- PASS_END (R237). A pass ends on an array, a tile boundary where cancellation and deadlines act. -/
  | passEnd (a : Nat)
  /-- ARRAY_FENCE (R493). An array declared failed is fenced until cold reset, and its kernel is replayed or ends UNIT_LOST. -/
  | arrayFence (a : Nat)
  /-- ATTN_ROUND_END (R298). An ATTN_DECODE round ends and the stop test decides whether unread blocks are skipped. -/
  | attnRoundEnd (sq pair : Nat)
  /-- LEASE_EXPIRY_SCAN (R283). Each millisecond, expired leases become RECLAIMING and the tenant is told. -/
  | leaseExpiryScan
  /-- LEASE_RECLAIM (R285). A RECLAIMING lease whose PINS reaches 0 returns its slots and becomes FREE with a new GEN. -/
  | leaseReclaim (i : Nat)
  /-- TRUNCATE_BLOCK_RELEASE (R292). Truncated blocks are released once every earlier pinning descriptor has completed. -/
  | truncateBlockRelease (i : Nat)
  /-- KV_POOL_ENABLE (R276). A TEN_KVPOOL write setting or clearing EN is checked against the pool extents and leases. -/
  | kvPoolEnable (ten : Nat) (v : W64)
  /-- LAYER_WAIT_DEADLINE (R317). A layer wait passes the deadline, so LAYER_STREAM and the RDY waiters complete with TIER_LATE. -/
  | layerWaitDeadline (sq : Nat)
  /-- EMB_ACTIVATE (R325). EMB_TACT ACTIVATE checks a table record and puts it into service. -/
  | embActivate (t : Nat)
  /-- EMB_DEACTIVATE (R327). EMB_TACT DEACTIVATE takes a table record out of service unless it is pinned or busy. -/
  | embDeactivate (t : Nat)
  /-- LOOKUP (R334). An owner reads a LOOKUP batch's rows from the carried version and returns partials. -/
  | lookup
  /-- PARTIAL (R335). The executing chip combines an owner's partials into its output. -/
  | partialRsp
  /-- UPDATE (R347). An owner applies update contributions to its rows in ADD or OVERWRITE mode. -/
  | update
  /-- UPD_END (R349). An owner records a participant's end message and closes the window when all have ended. -/
  | updEnd
  /-- UPD_ACK (R349). A participant counts owners' acknowledgements and completes its EMB_UPDATE when all have closed. -/
  | updAck
  /-- UPDATE_WINDOW_TIMEOUT (R349). WINTO µs after a window's first message, the owner closes it and sets WINTO. -/
  | updateWindowTimeout (t i : Nat)
  /-- PUSH (R343). A receiving chip writes pushed hot rows into its idle buffer, or discards them on a version mismatch. -/
  | push
  /-- PUSH_END (R343). Once pushes from all other owners have ended, the chip makes the buffer current and its REFRESH completes. -/
  | pushEnd
  /-- HOT_BUFFER_PUSH_RELEASE (R344). Pushes waiting for a buffer proceed once no look-up holds its old generation. -/
  | hotBufferPushRelease (t : Nat)
  /-- OPX_ERR (R355). An owner's error exchange completes the requesting descriptor with the carried status. -/
  | opxErr
  /-- VSC_ACTIVATE (R362). VSC_CACT ACTIVATE checks a collection record and puts it into service. -/
  | vscActivate (c : Nat)
  /-- VSC_DEACTIVATE (R362). VSC_CACT DEACTIVATE takes a collection out of service unless it is in use. -/
  | vscDeactivate (c : Nat)
  /-- VSC_ADOPT (R363). VSC_CACT ADOPT activates a collection, keeping the written SEQ and NEXTSLOT. -/
  | vscAdopt (c : Nat)
  /-- SCAN_BLOCK_READ (R379). A plane engine receives a decrypted block from its channel and scores it. -/
  | scanBlockRead (sq ch : Nat) (uncorr : Bool) (red : Option (BitVec 32768))
  /-- PLANE_ENGINE_FAIL (R381). A plane engine or its channel fails, so scans complete PARTIAL and the channel is marked. -/
  | planeEngineFail (ch : Nat) (chan : Bool)
  /-- POOL_PIECE_END (R392). A pool engine finishes a piece, a tile boundary of its pool operation. -/
  | poolPieceEnd (sq piece : Nat)
  /-- SCRIBE_GRANT (R407). A freed POOL scribe is taken by the next waiting descriptor in launch order. -/
  | scribeGrant (n : Nat)
  /-- SCR_START (R405). SCR_CTL.START loads the initial value, feeds any fold word and sets ACTIVE. -/
  | scrStart (fw : Bool) (n : Nat) (v : W64)
  /-- SCR_FINISH (R410). SCR_CTL.FINISH writes the check value to SCR_RES, sets DONE and compares with SCR_EXP when enabled. -/
  | scrFinish (fw : Bool) (n : Nat) (v : W64)
  /-- SCR_ABORT (R411). SCR_CTL.ABORT ends the computation without a result or a compare. -/
  | scrAbort (fw : Bool) (n : Nat) (v : W64)
  /-- SCR_DATA8 (R408). A write to SCR_DATA8 feeds one byte to the scribe. -/
  | scrData8 (fw : Bool) (n : Nat) (v : W64)
  /-- SCR_DATA16 (R408). A write to SCR_DATA16 feeds two bytes, low byte first. -/
  | scrData16 (fw : Bool) (n : Nat) (v : W64)
  /-- SCR_DATA32 (R408). A write to SCR_DATA32 feeds four bytes, low byte first. -/
  | scrData32 (fw : Bool) (n : Nat) (v : W64)
  /-- SCR_VAL_WRITE (R411). A write to SCR_VAL while ACTIVE replaces the CRC register whole. -/
  | scrValWrite (fw : Bool) (n : Nat) (v : W64)
  /-- SCR_CNT_WRITE (R411). A write to SCR_CNT while ACTIVE replaces the byte count. -/
  | scrCntWrite (fw : Bool) (n : Nat) (v : W64)
  /-- SCR_CFG_WRITE (R408). A write to SCR_CFG is applied in order and takes effect at the next START. -/
  | scrCfgWrite (fw : Bool) (n : Nat) (v : W64)
  /-- SCR_FOLD_WRITE (R408). A write to SCR_FOLD is applied in the scribe's order. -/
  | scrFoldWrite (fw : Bool) (n : Nat) (v : W64)
  /-- SCR_EXP_WRITE (R408). A write to SCR_EXP is applied in the scribe's order. -/
  | scrExpWrite (fw : Bool) (n : Nat) (v : W64)
  /-- SCR_STAT_CLEAR (R408). A W1C write to SCR_STAT clears DONE or MISMATCH in the scribe's order. -/
  | scrStatClear (fw : Bool) (n : Nat) (v : W64)
  /-- TIME_EXCHANGE_START (R423). Every 125 µs a non-grandmaster chip sends TIME_REQ to its parent. -/
  | timeExchangeStart
  /-- TIME_REQ (R423). A parent receives an exchange request and replies with t2, t3, grandmaster, depth and epoch. -/
  | timeReq (p xid : Nat)
  /-- TIME_RSP (R425). A child computes offset and delay from a reply and steps, slews or changes its sync state. -/
  | timeRsp (p : Nat) (w0 w1 : BitVec 128)
  /-- HOLDOVER_LIMIT (R426). A chip in HOLDOVER for HOLDMAX ms enters LOST. -/
  | holdoverLimit
  /-- PTP_REFERENCE_MESSAGE (R431). A grandmaster with EXTREF timestamps an IEEE 1588 message and steers the rate toward the reference. -/
  | ptpReferenceMessage (ref : W64) (locked : Bool)
  /-- RAISE_MATCH (R435). Frame time reaches RTIME, and the due raisings launch in CUT, EMB_SWITCH, fetch order. -/
  | raiseMatch
  /-- PORT_ENABLE (R442). A write of LNK_CFG.EN starts or stops a port's training. -/
  | portEnable (p : Nat) (v : W64)
  /-- DETECT_POLL (R442). Every 10 ms a DETECT port polls for far-end presence. -/
  | detectPoll (p : Nat) (present : Bool)
  /-- PORT_TRAINING_STAGE_DONE (R442). PHYTRAIN or FECLOCK completes and the port advances to its next state. -/
  | portTrainingStageDone (p : Nat)
  /-- TRAINING_LIMIT_EXPIRE (R442). A training state's limit expires, so the port returns to DETECT or, after 16 failures, goes DOWN. -/
  | trainingLimitExpire (p : Nat)
  /-- PARAM (R444). A PARAM message is checked, and the port advances or fails PARAM. -/
  | param (p : Nat) (w0 w1 : BitVec 128)
  /-- HELLO (R535). A link exchange HELLO is received and checked, and ENCAP is sent. -/
  | hello (p : Nat) (body : List Byte)
  /-- ENCAP (R535). A link exchange ENCAP is decapsulated and FINISH is sent. -/
  | encap (p : Nat) (body : List Byte)
  /-- FINISH (R534). A link exchange FINISH signature is checked and the port keys are installed. -/
  | linkFinish (p : Nat) (body : List Byte)
  /-- SEEDXFER (R536). A chip without a frame seed checks a received seed against FSID and writes its vault. -/
  | seedxfer (p : Nat) (fsid : W64) (seed : List Byte)
  /-- FLIT_RECEIVE (R451). A flit is checked for CRC, CNT and tag, accepted in SEQ order and delivered or forwarded. -/
  | flitReceive (p : Nat) (hdr : BitVec 128) (msgs : List (BitVec 128 × List Byte)) (cnt : Nat) (crcOk tagOk stomp cut : Bool)
  /-- NAK_RESEND_TIMER (R452). 1 µs after a NAK without the expected flit, the receiver may send its next NAK. -/
  | nakResendTimer (p : Nat)
  /-- RETRAIN_DONE (R455). RETRAIN completes and each side replays from the other's last acknowledgement. -/
  | retrainDone (p : Nat)
  /-- RETRAIN_TIMEOUT (R455). A RETRAIN lasting over 1.5 ms takes the port DOWN. -/
  | retrainTimeout (p : Nat)
  /-- REKEY_INTERVAL (R450). Every INTERVAL minutes a port runs the key exchange over CTL to install a new key. -/
  | rekeyInterval (p : Nat)
  /-- HEARTBEAT_SEND (R467). Every 1 ms an ACTIVE port sends a HEARTBEAT. -/
  | heartbeatSend (p : Nat)
  /-- HEARTBEAT (R468). An accepted HEARTBEAT resets the miss run, or takes the port DOWN if HEALTH is 2. -/
  | heartbeat (p : Nat) (hdr : BitVec 128)
  /-- HEARTBEAT_WINDOW_END (R468). A 1 ms window without a heartbeat counts a miss, and the third consecutive miss takes the port DOWN. -/
  | heartbeatWindowEnd (p : Nat)
  /-- DEATH_DECLARE_WAIT (R475). The 1 ms wait after the last port to a higher-ID neighbour went DOWN ends, and the chip declares it dead unless a FENCE arrived. -/
  | deathDeclareWait (y : Nat)
  /-- FENCE (R478). A FENCE message fences the named chip or agent by the ordered steps, or self-fences the chip if it is named. -/
  | fence (kind subj from_ t : Nat)
  /-- REPORT_RESEND (R498). Every 100 ms, unacknowledged reports are sent again. -/
  | reportResend
  /-- MIRROR_WRITE_TIMEOUT (R489). A secondary that has not accepted within 2 ms makes the extent DEGRADED, and pending writes are acknowledged. -/
  | mirrorWriteTimeout (tag : Nat)
  /-- ACK (R500). An ACK order acknowledges the chip's reports up to SEQ. -/
  | ack (oseq : Nat) (ok : Bool) (sq : Nat)
  /-- REBUILD (R492). A REBUILD order checks the target and starts copying a survivor into a new partner extent. -/
  | rebuild (oseq : Nat) (ok : Bool) (src dst : Nat) (rec_ : BitVec 128)
  /-- REBUILD_COPY_DONE (R492). The rebuild copy ends, both records become NORMAL and REBUILD_DONE is reported. -/
  | rebuildCopyDone (blocks : List (Nat × BitVec 32768))
  /-- REBUILD_STOP (R500). A REBUILD_STOP order stops the copy, leaving the target LOST and the source DEGRADED. -/
  | rebuildStop (oseq : Nat) (ok : Bool) (dst : Nat)
  /-- RESTART (R508). A RESTART order stops launching and restarts the chip from the named cut. -/
  | restart (oseq : Nat) (ok : Bool) (cut plan : Nat)
  /-- LEDGER_READ (R604). A LEDGER_READ order returns the requested ledger records in datagrams. -/
  | ledgerRead (oseq : Nat) (ok : Bool) (first count : Nat)
  /-- PLUMB_COMPARE (R495). The second execution of a selected kernel is compared with the first within the tolerance. -/
  | plumbCompare (sq a b : Nat) (second : List (List Byte))
  /-- PLUMB_SELFTEST_DONE (R496). Self-tests after a plumb mismatch end, fencing failed arrays or reporting the mismatch unresolved. -/
  | plumbSelftestDone (sq : Nat) (failA failB : Bool)
  /-- CUT_FREEZE_END (R502). The freeze's recalls finish, and launches, credit and writes are released. -/
  | cutFreezeEnd
  /-- CUT_PAGE_DRAIN (R503). A protected page is written to the cut slot with its CRC-64 index value. -/
  | cutPageDrain
  /-- CUT_RESERVE_PAGE_FREE (R503). A reserve page frees, and a write waiting for one proceeds. -/
  | cutReservePageFree
  /-- CUT_DRAIN_END (R506). The drain ends, the index and seal are written and CUT_SEALED is reported. -/
  | cutDrainEnd
  /-- CUT_HOLD_LIMIT (R505). The hold reaches MAXHOLD, so the cut is abandoned and waiting writes are released. -/
  | cutHoldLimit
  /-- PSEUDO_CHANNEL_FAIL (R493). A pseudo-channel that does not answer, or gives a second uncorrectable line, is declared failed. -/
  | pseudoChannelFail (pc : Nat)
  /-- FLASH_CHANNEL_UNRESPONSIVE (R493). A flash channel unresponsive for 100 ms is declared failed. -/
  | flashChannelUnresponsive (ch : Nat)
  /-- TENANT_ENABLE (R515). A TEN_SECCTL.EN write starts key derivation for the tenant, or is refused. -/
  | tenantEnable (t : Nat) (v : W64)
  /-- TENANT_KEYS_INSTALLED (R515). The tenant's keys are installed and EN reads 1. -/
  | tenantKeysInstalled (t : Nat)
  /-- TENANT_RESET (R516). A write of TEN_SECCTL.RESET starts tenant reset across every chapter. -/
  | tenantReset (t : Nat)
  /-- TENANT_RESET_DONE (R516). Tenant reset ends after dirty pages are written back, keys are zeroised and RSTDONE is set. -/
  | tenantResetDone (t : Nat)
  /-- TENANT_ERASE (R527). A write of TEN_SECCTL.ERASE advances KGEN and rewrites the vault, or is refused. -/
  | tenantErase (t : Nat) (v : W64)
  /-- TENANT_ERASE_DONE (R527). The new keys are derived after the vault write and EDONE is set. -/
  | tenantEraseDone (t : Nat)
  /-- FRAME_SEED_CREATE (R536). SEC_FSCMD.CREATE makes a new frame seed from the DRBG on a chip that holds none. -/
  | frameSeedCreate (v : W64)
  /-- DEBUG_NONCE_READ (R618). A read of SEC_DBGNONCE word 0 over MCTP draws and returns a new nonce. -/
  | debugNonceRead
  /-- DEBUG_TOKEN_CHECK (R540). Writing the token length starts the check, and a valid token self-fences, zeroises keys and unlocks debug. -/
  | debugTokenCheck (len : Nat)
  /-- GET_VERSION (R538). The SPDM responder answers GET_VERSION. -/
  | getVersion (doe : Bool)
  /-- GET_CAPABILITIES (R538). The SPDM responder answers GET_CAPABILITIES. -/
  | getCapabilities (doe : Bool)
  /-- NEGOTIATE_ALGORITHMS (R538). The SPDM responder negotiates SHA3-384 and ML-DSA-65. -/
  | negotiateAlgorithms (doe hash asym : Bool)
  /-- GET_DIGESTS (R538). The SPDM responder returns certificate chain digests. -/
  | getDigests (doe : Bool)
  /-- GET_CERTIFICATE (R538). The SPDM responder returns the slot 0 certificate chain. -/
  | getCertificate (doe : Bool) (slot off len : Nat)
  /-- CHALLENGE (R538). The SPDM responder signs a challenge with AK. -/
  | challenge (doe : Bool) (slot : Nat)
  /-- GET_MEASUREMENTS (R539). The SPDM responder returns the measurement blocks signed with AK. -/
  | getMeasurements (doe : Bool) (idx : Nat) (raw sig : Bool)
  /-- DOE_DISCOVERY (R573). The DOE mailbox answers a discovery request. -/
  | doeDiscovery (idx : Nat)
  /-- IDEKM_KEY_EXCHANGE (R574). A KIDEKM nonce and encapsulation key start a session, and the chip returns ciphertext and a signature. -/
  | idekmKeyExchange (nonce ek : List Byte)
  /-- QUERY (R574). An encrypted IDE_KM QUERY is answered. -/
  | query (tag : Bool) (port : Nat)
  /-- KEY_PROG (R574). An encrypted IDE_KM KEY_PROG programs a stream key. -/
  | keyProg (tag : Bool) (stream set dir sub : Nat)
  /-- K_SET_GO (R574). An encrypted IDE_KM K_SET_GO activates a key set. -/
  | kSetGo (tag : Bool) (stream set dir sub : Nat)
  /-- K_SET_STOP (R574). An encrypted IDE_KM K_SET_STOP stops a key set. -/
  | kSetStop (tag : Bool) (stream set dir sub : Nat)
  /-- BRINGUP_STAGE_END (R579). A bring-up stage completes and the next begins, up to READY. -/
  | bringupStageEnd (e : StageEnd)
  /-- BRINGUP_STAGE_LIMIT (R582). A bring-up stage exceeds its limit, so FAILED is set and bring-up stops. -/
  | bringupStageLimit (err : Nat)
  /-- PWR_REQ_RUN (R548). A write of PWR_STATE.REQ RUN leaves PARKED, or leaves SILL as a cold reset. -/
  | pwrReqRun (mctp : Bool)
  /-- PWR_REQ_PARKED (R547). A write of REQ PARKED parks the chip if it is admitted. -/
  | pwrReqParked (mctp : Bool)
  /-- PWR_REQ_SILL (R547). A write of REQ SILL from PARKED powers down every fast domain. -/
  | pwrReqSill (mctp : Bool)
  /-- IDLE_ENTER (R547). After 100 µs without work the chip enters IDLE. -/
  | idleEnter
  /-- POWER_SAMPLE (R549). Every 1 µs the power manager samples package power and sensors. -/
  | powerSample (w temp sensor : Nat)
  /-- THROTTLE_MARK (R550). At each 2 µs mark STEP is raised, or lowered after 100 µs clear. -/
  | throttleMark
  /-- ARRAY_POWER_GATE (R544). An array idle for AIDLE µs is power-gated. -/
  | arrayPowerGate (a : Nat)
  /-- ARRAY_WAKE_DONE (R545). A power-gated array finishes waking with its bench zeroed. -/
  | arrayWakeDone (a : Nat)
  /-- PLANE_ENGINE_WAKE_DONE (R545). A power-gated plane engine finishes waking with its SRAM zeroed. -/
  | planeEngineWakeDone (ch : Nat)
  /-- SLED_BUTTON_PRESS (R555). An attention button closure of at least 50 ms changes the sled state as R555 states. -/
  | sledButtonPress (n : Nat)
  /-- PWR_SLED_PRESS (R555). A write of PWR_SLEDn.PRESS acts as a button press. -/
  | pwrSledPress (mctp : Bool) (n : Nat) (v : W64)
  /-- ABORT_WINDOW_END (R555). 5 s after a press without a second one, the sled enters QUIESCING. -/
  | abortWindowEnd (n : Nat)
  /-- QUIESCE_WRITEBACK_DONE (R556). The sled holds no dirty page, so its channels leave service and its power is removed. -/
  | quiesceWritebackDone (n : Nat)
  /-- QUIESCE_TIMEOUT (R557). After 120 s the quiesce is abandoned and the sled enters FAILED. -/
  | quiesceTimeout (n : Nat)
  /-- SLED_LATCH_OPEN (R558). Opening the latch gives ABSENT, with a surprise removal unless the sled was SAFE. -/
  | sledLatchOpen (n : Nat)
  /-- SLED_LATCH_CLOSE (R559). Closing the latch powers the sled and starts TESTING. -/
  | sledLatchClose (n : Nat)
  /-- SLED_TEST_DONE (R559). The sled's read-only test ends, and the sled enters STANDBY or FAILED. -/
  | sledTestDone (n : Nat) (pass : Bool) (exts : Nat) (content : Option (AMap FarBlock × Nat × Nat))
  /-- SLED_POWER_GOOD_TIMEOUT (R633). SLEDPG not rising within 100 ms of SLEDEN sends the sled to FAILED. -/
  | sledPowerGoodTimeout (n : Nat)
  /-- RAIL_FAULT (R628). PWRGD low or a rail out of tolerance self-fences the chip and enters SILL. -/
  | railFault (rail : Nat)
  /-- LREF_LOSS (R628). LREF stops, so fclk stops and the sill domain enters SILL. -/
  | lrefLoss
  /-- PREF_LOSS (R628). PREF stops, the host link goes down and DL_Down acts as a physical-function reset. -/
  | prefLoss
  /-- CRYSTAL_STOP (R628). The crystal stops and the sill domain switches to its internal oscillator. -/
  | crystalStop
  /-- VSTBY_LOSS (R628). VSTBY is lost and every domain stops, the ledger included. -/
  | vstbyLoss
  /-- SILL_POWER_ON (R560). The sill domain powers on, clearing the ledger and sled registers. -/
  | sillPowerOn
  /-- PERST_ASSERT (R576). PERST# assertion starts a cold reset. -/
  | perstAssert
  /-- PERST_DEASSERT (R580). PERST# deassertion starts bring-up from stage 1. -/
  | perstDeassert
  /-- PF_FUNCTION_RESET (R577). FLR, hot reset or DL_Down of the physical function resets it, self-fencing first if the chip has joined a store. -/
  | pfFunctionReset (hot : Bool)
  /-- VF_FUNCTION_RESET (R576). FLR of a virtual function performs tenant reset of its tenant. -/
  | vfFunctionReset (n : Nat)
  /-- VF_ENABLE_CLEAR (R568). Clearing VF Enable or lowering NumVFs resets each virtual function that leaves. -/
  | vfEnableClear (en : Bool) (numVfs : Nat)
  /-- BUS_MASTER_ENABLE_CLEAR (R569). Clearing Bus Master Enable stops the function's requests and holds its writes. -/
  | busMasterEnableClear (fn : Nat)
  /-- BUS_MASTER_ENABLE_SET (R569). Setting Bus Master Enable issues held writes in order and resumes fetching. -/
  | busMasterEnableSet (fn : Nat)
  /-- GLB_RST_WARM (R578). GLB_RST.WARM starts a warm reset. -/
  | glbRstWarm
  /-- GLB_RST_COLD (R578). GLB_RST.COLD over MCTP starts a cold reset, and is ignored through PF BAR0. -/
  | glbRstCold (mctp : Bool)
  /-- MSIX_UNMASK (R571). Unmasking a vector sends its pending message. -/
  | msixUnmask (fn : Nat) (vec : Option Nat)
  /-- HOST_LINK_RETRAIN (R561). The host link trains to a lower rate or width and DOWNGRADE is set. -/
  | hostLinkRetrain (speed width : Nat) (flit : Bool)
  /-- MCTP_READ (R616). An MCTP read command returns a register value or a completion code. -/
  | mctpRead (off : Nat)
  /-- MCTP_WRITE (R616). An MCTP write command writes a register or returns a completion code. -/
  | mctpWrite (off : Nat) (v : W64)
  /-- REGISTER_WRITE (R607). A write to a register that has no row of its own is applied by its access code, through the 4-byte latches where used. -/
  | registerWrite (fn bar off size : Nat) (v : Line)
  /-- CNT_DUMP_NOW (R593). CNT_DUMPCTL.NOW dumps all 128 counters at once. -/
  | cntDumpNow (v : W64)
  /-- TIMED_DUMP (R594). Frame time reaches a due time and the counters are dumped before the raisings. -/
  | timedDump
  /-- SAMPLE_WRITE (R592). A buffered sample is written to the sample ring as space allows. -/
  | sampleWrite
  /-- LEDGER_RECORD_WRITE (R601). The next queued ledger record is written, at most one per fclk. -/
  | ledgerRecordWrite
  /-- LEDGER_WINDOW_END (R602). At the end of a 1 ms window, one SUPPRESSED record is written for each suppressed CODE. -/
  | ledgerWindowEnd
  /-- LEDGER_STREAM_SEND (R604). Ledger records at or above MINSEV are sent as UDP datagrams. -/
  | ledgerStreamSend
  /-- NEAR_WRITE_DONE (R143). A near-tier write that a home transaction or engine waits on completes, so the transaction leaves MEM and sends CMP or the write counts as performed. -/
  | nearWriteDone (htx : Nat)
  /-- FLIT_TRANSMIT (R457). At each flit time a port's transmitter chooses the next flit, or an IDLE flit, by credit and round robin and sends it under the current key and CNT. -/
  | flitTransmit (p : Nat)
  /-- PUBLISH_RESULT (R84). The region home's outcome of a PUBLISH reaches the issuing chip, which writes the descriptor's completion with OK and the new VERSION, VERSION_CONFLICT or TIMEOUT. -/
  | publishResult (tag st ver : Nat)
  /-- MIRROR_WRITEBACK_REQUEST (R556). A secondary home receives a quiescing primary's request to write back its mirror pages of the sled's MIRROR2 extents and starts those write-backs. -/
  | mirrorWritebackRequest (chip : Nat) (exts : List Nat)
  /-- MIRROR_PAGES_WRITTEN (R556). A secondary home's report that its mirror pages are written reaches the quiescing chip, which may then take the sled's channels out of service. -/
  | mirrorPagesWritten (chip n : Nat)
  /-- RAIL_WITHIN_TOLERANCE (R626). A board rail comes within tolerance during power-up, and the sill domain raises the next RAILEN line 1 ms later. -/
  | railWithinTolerance (rail : Nat)
  /-- SLED_POWER_GOOD (R633). SLEDPG rises after SLEDEN, and the sled's read-only test begins. -/
  | sledPowerGood (n : Nat)
  /-- HOST_READ_DATA (R562). A non-posted PCIe read, such as a PREFETCH host operand read, completes with data and the waiting engine continues. -/
  | hostReadData (tag : Nat) (data : List Byte)
  /-- REGISTER_READ (R566). A BAR0 register read returns the value, latching the high half on a 4-byte low-half read and returning the latch on the matching high-half read. -/
  | registerRead (fn bar off size : Nat)
  /-- D3HOT_TRANSITION (R563). A function entering D3hot answers only configuration requests and its queues stop fetching as with Bus Master Enable 0, and resume on return to D0. -/
  | d3hotTransition (fn : Nat) (enter : Bool)
  deriving DecidableEq, Repr

end Sys2Proof
end

