-- ==== Sys2Proof/Decode.lean ====
section
/-! DEFINITION. Decode.lean: the command that a word of the opcode table spells. The table gives the bits of no row. -/
namespace Sys2Proof

/-- The command spelled by the `nbits` bits of `w`: the spec gives its commands no encoding in bits, so there is none. -/
def decodeTableWord (_nbits _w : Nat) : Option Instr := none

end Sys2Proof
end

