-- ==== Sys2Proof/Config.lean ====
section
/-! DEFINITION. Config.lean: what the spec leaves open. Each constant has no body, so no proof can see its value: a
statement holds whatever it is. Most are applied to `State.fresh`, which gives a new value each time. -/
namespace Sys2Proof.Config

/-- Which of several equally admissible candidates is taken (a victim, a free place, an order). -/
opaque pick : Nat → Nat

/-- What a near-tier line reads as under a key other than the one it was written under, or when no master has written
it since bring-up (R638, R525): line number, reader's key, key it was written under, bytes as written. -/
opaque otherKey : Nat → Nat → Nat → Line → Line

/-- A byte of a result that the spec leaves undefined. -/
opaque freeByte : Nat → Byte

/-- A 64-bit value that the spec leaves open. -/
opaque freeWord : Nat → W64

/-- Whether a granule of an undefined output holds new data (Table QUE-9). -/
opaque granuleNew : Nat → Nat → Bool

/-- A free choice with two indices: where a sum is cut (R248), which member of an admissible set a result takes (R266). -/
opaque pick2 : Nat → Nat → Nat

/-- The random value that stochastic rounding draws (R247): the seed of the output tile, row and column in the tile. The spec
fixes neither the generator's shifts nor the order of its draws. -/
opaque srBits : Nat → Nat → Nat → Nat

/-- Tier and offset of the shard of table `t`, version `ver`, on chip `c`, which a reader of its redundant copy uses once `c` is
fenced (R337): the spec names no message that carries it. -/
opaque shardAt : (t c ver : Nat) → Nat

/-- Whether an ENG message taken from a flit, with this header and data, tells its receiver of poison (R150, R337): Table LNK-8
has no field for it. -/
opaque poisonOf : BitVec 128 → List Byte → Bool

/-- What microcode leaves in a line of a bench and in a vector register of a plane; the bench line at which it keeps its
accumulators (R263). -/
opaque benchLine : Nat → Nat → Line
opaque vectorReg : Nat → Nat → BitVec 16384
opaque accBase : Nat

/-- The stored form of a far-tier block, over which parity is kept (R43, R190): ciphertext, initialisation vector and tag. Key
identity, block number, initialisation vector, bytes. -/
opaque storedForm : Nat → Nat → BitVec 96 → BitVec 32768 → BitVec 32992

/-- The initialisation vector of a block's next write (R190). -/
opaque initVec : Nat → BitVec 96

/-- Where a granule of a retired pseudo-channel goes (R17). -/
opaque redirect : Nat → Nat

/-- Chip and extent number of a member of a parity group, read from its record, whose layout the spec does not give
(R42): record, position. -/
opaque pgrMember : BitVec 512 → Nat → Nat × Nat

/-- Where the count-sketch of R340 counts a row in one of its four lines, and with which sign: the spec fixes neither. -/
opaque sketchCol : Nat → Nat → Nat
opaque sketchNeg : Nat → Nat → Bool

/-- Whether a certificate chain in a HELLO body verifies (R534), an ENCAP decapsulates, and a FINISH signature verifies over
the bodies before it. -/
opaque chainOk : List Byte → Bool
opaque encapOk : List Byte → Bool
opaque finishOk : List Byte → List (List Byte) → Bool

/-- The chip's certificates: 0 alias, 1 device, 2 Kilori's root (R534, R538). -/
opaque certificate : Nat → List Byte

/-- The frame seed with an identifier, and the identifier of a seed: the first 8 bytes of its SHA3-384 (R524). -/
opaque seedOf : W64 → List Byte
opaque fsidOf : List Byte → W64

/-- SHA3-384 (R538, R539), the chip's device ID (R528), and whether the signature of a debug token verifies: signer, bytes. -/
opaque sha3 : List Byte → List Byte
opaque deviceId : List Byte
opaque tokenOk : Nat → List Byte → Bool

/-- ADDRSEL is tied to VIO18, not to ground (R622). -/
opaque addrSel : Bool

/-- Mask ROM identifier and version, and the security versions of ROM and firmware (Table SEC-6). -/
opaque romId : List Byte
opaque romSvn : Nat
opaque fwSvn : Nat

end Sys2Proof.Config
end

