-- ==== Sys2Proof/Machine/State.lean ====
section
/-! DEFINITION. State.lean: the state of one OVP-7208, its reasons to stop, and its state after reset. -/
namespace Sys2Proof.Machine

/-- Reasons to stop with a fault. There is none: the spec gives every command of the table an effect (it completes,
refuses, ignores or records), so no meaning of this model faults. -/
inductive Fault where
  deriving DecidableEq, Repr

/-- Reasons to refuse a command. -/
inductive Refusal where
  /-- The dispatcher raises it for a command whose meaning is not written. Safe: nothing can be proved of what follows.
  No arm answers it. -/
  | notModelled (mnemonic : String)
  deriving DecidableEq, Repr

/-- The state of the chip. -/
structure State where
  /-- Commands waiting, first in, first out. -/
  pending : List Instr := []
  /-- Registers other than the event registers, by `regKey`; unlisted: the reset value of Tables REG-4 to REG-19. -/
  regs : AMap W64 := []
  /-- Outputs, event registers, interrupt state, counters and ledger. -/
  obs : Obs := {}
  /-- Messages waiting for a port, in the order they were issued (R457). -/
  txq : List Msg := []
  store : Store := {}
  home : Home := {}
  xlt : Xlt := {}
  que : Que := {}
  eng : Eng := {}
  arr : Arr := {}
  kv : Kv := {}
  nmo : Nmo := {}
  emb : Emb := {}
  vsc : Vsc := {}
  tim : Tim := {}
  lnk : Lnk := {}
  sec : Sec := {}
  red : Red := {}
  pwr : Pwr := {}
  hst : Hst := {}
  /-- The model's own counter: each value that the spec leaves open takes the next number (log entry 3). -/
  fresh : Nat := 0
  deriving DecidableEq, Repr

/-- The parts of the state of the chip: all of it but the queue of waiting commands. -/
inductive Part where
  | regs | obs | txq | store | home | xlt | que | eng | arr | kv | nmo | emb | vsc | tim | lnk | sec | red | pwr | hst | fresh
  deriving DecidableEq, Repr

/-- The chip right after the sill domain's power-on with PERST# asserted: every register at its reset value, nothing
stored, no command waiting; RESET is the first record of the ledger (R601). -/
def State.reset : State :=
  { obs := { lqueue := [{ code := 1, sev := 0, ten := none, args := [0], time := 0 }], lwin := [(1, (1, 0))] } }

end Sys2Proof.Machine
end

