-- ==== Sys2Proof/Machine/Flags.lean ====
section
/-! DEFINITION. Flags.lean: register fields, and every flag the chip raises: event bits with their interrupts, pending
bits, and the ledger with its suppression flag. Raising an event, sending an interrupt and logging change `State.obs`
alone. -/
namespace Sys2Proof.Machine

/-! ## Registers -/

/-- The event registers that hold W1C bits and VEC: they live in `Obs.evt`. -/
def isEvtReg : Reg → Bool
  | .HST_EVT | .HOME_EVT | .TIER_EVT | .ARR_EVT | .VSC_EVT | .EMB_EVT | .SCR_EVT | .TIM_EVT | .LNK_EVT | .RED_EVT
  | .SEC_EVT | .PWR_EVT | .CNT_EVT | .LDG_EVT => true
  | _ => false

/-- The stored value of register `r`, word `i`. -/
def regGet (s : State) (r : Reg) (i : Nat) : W64 :=
  if isEvtReg r then mgetD (regReset r) s.obs.evt r.code else mgetD (regReset r) s.regs (regKey r i)

/-- Register `r`, word `i`, holding `v`. -/
def regSet (s : State) (r : Reg) (i : Nat) (v : W64) : State :=
  if isEvtReg r then { s with obs := { s.obs with evt := mputD (regReset r) s.obs.evt r.code v } }
  else { s with regs := mputD (regReset r) s.regs (regKey r i) v }

/-- Field `f` of word `i` of its register. -/
def getF (s : State) (f : Fld) (i : Nat := 0) : Nat := bget (regGet s f.reg i) f.bf

/-- Field `f` of word `i` is non-zero. -/
def tstF (s : State) (f : Fld) (i : Nat := 0) : Bool := getF s f i != 0

/-- The address held by field `f` of word `i`: the field in its place, the bits below it zero. -/
def adrF (s : State) (f : Fld) (i : Nat := 0) : Nat := getF s f i * 2 ^ f.bf.lo

/-- Field `f` of word `i` holding `x`. -/
def setF (s : State) (f : Fld) (i : Nat) (x : Nat) : State := regSet s f.reg i (bset (regGet s f.reg i) f.bf x)

/-- Field `f` of word `i` grown by `k`, stopping at its largest value. -/
def satF (s : State) (f : Fld) (i : Nat) (k : Nat := 1) : State := setF s f i (min (getF s f i + k) (2 ^ f.bf.w - 1))

/-- The chip's own ID (R12). -/
def own (s : State) : Nat := getF s GLB_CHIPID.CHIP

/-- Partitioned mode (SEC_MODE.MODE). -/
def partitioned (s : State) : Bool := tstF s SEC_MODE.MODE

/-! ## Functions and interrupts -/

/-- A function: 0 the physical one, n virtual function n. -/
def fnOf (s : State) (n : Nat) : Fn := mgetD {} s.obs.fns n

/-- Function `n` replaced. -/
def setFn (s : State) (n : Nat) (f : Fn) : State := { s with obs := { s.obs with fns := mputD {} s.obs.fns n f } }

/-- Virtual function t + 1 of tenant `t` is enabled (R567, R568). -/
def vfEnabled (s : State) (t : Nat) : Bool := s.hst.vfEn && decide (t < s.hst.numVfs)

/-- The function whose requester ID and vectors tenant `t` uses (R568, R570). -/
def tenFn (s : State) (t : Nat) : Nat := if vfEnabled s t then t + 1 else 0

/-- A stream is secure, or none is required (R575). -/
def ideOk (s : State) : Bool := !tstF s HST_IDECFG.REQUIRED || tstF s HST_IDECFG.ACTIVE

/-- The chip may issue requests with the ID of function `n` (R563, R569, R575). -/
def canIssue (s : State) (n : Nat) : Bool := (fnOf s n).bme && !(fnOf s n).d3hot && ideOk s

/-- The chip's output, recorded. -/
def emit (s : State) (o : Out) : State := { s with obs := { s.obs with out := s.obs.out ++ [o] } }

/-- A ledger record placed in the queue (R600 to R602), without any interrupt. -/
def ledgerCore (s : State) (code sev : Nat) (ten : Option Nat) (args : List Nat) : State :=
  let w := mgetD (0, 0) s.obs.lwin code
  let suppr (o : Obs) : Obs :=
    { o with lsuppr := o.lsuppr + 1,
             evt := mputD (regReset .LDG_EVT) o.evt Reg.LDG_EVT.code
                     (bset (mgetD (regReset .LDG_EVT) o.evt Reg.LDG_EVT.code) LDG_EVT.SUPPR.bf 1) }
  if sev ≠ 3 ∧ w.1 ≥ 256 then
    { s with obs := suppr { s.obs with lwin := mput s.obs.lwin code (w.1, w.2 + 1) } }
  else if s.obs.lqueue.length < (if sev = 3 then 64 else 48) then
    { s with obs := { s.obs with lwin := mput s.obs.lwin code (w.1 + 1, w.2),
                                 lqueue := s.obs.lqueue ++ [⟨code, sev, ten, args, s.tim.now⟩] } }
  else { s with obs := suppr { s.obs with lfull := s.obs.lfull + 1 } }

/-- Rising list `l` with `x` in it. -/
def insRising (l : List Nat) (x : Nat) : List Nat :=
  match l with
  | [] => [x]
  | y :: t => if x < y then x :: y :: t else if x = y then y :: t else y :: insRising t x

/-- One MSI-X message of function `n` on vector `v` (R569 to R571). `off` is the offset of the register whose VEC is
too large, for the ledger. -/
def msix (s : State) (n v : Nat) (off : Nat := 0) : State :=
  if (if n = 0 then 2048 else 128) ≤ v then ledgerCore s 0x0103 0 none [off, v]
  else
    let f := fnOf s n
    if f.msixEn && !f.fmask && f.unmasked.contains v && canIssue s n then emit s (.msix n v)
    else setFn s n { f with pend := insRising f.pend v }

/-- The VEC field of every event register. -/
def evtVec : BF := ⟨32, 11⟩

/-- ALERT# is low: a bit of PWR_EVT other than VEC is set (R634). -/
def alertLow (s : State) : Bool := decide (bget (regGet s .PWR_EVT 0) ⟨0, 4⟩ ≠ 0)

/-- ALERT# driven to its level of state `t`, where it stood otherwise in `s` (R634). -/
def alertEdge (s t : State) : State := if alertLow s = alertLow t then t else emit t (.pin "ALERT#" 0 (!alertLow t))

/-- Event bit `f` set; one message each time it changes from 0 to 1, and ALERT# falls with the first bit of PWR_EVT. -/
def setEvt (s : State) (f : Fld) : State :=
  if tstF s f then s else
  let s := if f.reg = .PWR_EVT then alertEdge s (setF s f 0 1) else setF s f 0 1
  msix s 0 (bget (regGet s f.reg 0) evtVec) (regPlace f.reg).base

/-- A ledger record, with LDG_EVT.SUPPR and its message when the record found no place. -/
def ledger (s : State) (code sev : Nat) (ten : Option Nat) (args : List Nat) : State :=
  let s' := ledgerCore s code sev ten args
  if tstF s' LDG_EVT.SUPPR && !tstF s LDG_EVT.SUPPR then
    msix s' 0 (bget (regGet s' .LDG_EVT 0) evtVec) (regPlace .LDG_EVT).base
  else s'

/-- A record that a rule requires and Table CNT-6 does not name (R600): event 0xFF of the block that owns the rule,
SEV INFO, the SA, VA or offset concerned in ARG0. -/
def ledgerFF (s : State) (block arg : Nat) (ten : Option Nat := none) : State := ledger s (block * 256 + 0xFF) 0 ten [arg]

end Sys2Proof.Machine
end

