-- ==== Sys2Proof/Machine/Ops.lean ====
section
/-! DEFINITION. Ops.lean: the named operations over host writes, messages, counters and sampling, and the values left
open. Counting changes `State.obs` alone. -/
namespace Sys2Proof.Machine

/-! ## Answers -/

/-- The parts that queues, engines and operators work on. -/
def coreParts : List Part := [.regs, .obs, .txq, .store, .xlt, .que, .eng, .arr, .kv, .nmo, .vsc, .red, .fresh]

/-- Those and the home and the embedding tables: what serving an access can reach. -/
def workParts : List Part := [.regs, .obs, .txq, .store, .home, .xlt, .que, .eng, .arr, .kv, .nmo, .emb, .vsc, .red, .fresh]

/-- Every part. -/
def allParts : List Part := workParts ++ [.tim, .lnk, .sec, .pwr, .hst]

/-- `t` in the parts `ps`, `s` in every other part and in the queue of waiting commands. -/
def confine (ps : List Part) (s t : State) : State :=
  { pending := s.pending
    regs := if ps.contains .regs then t.regs else s.regs
    obs := if ps.contains .obs then t.obs else s.obs
    txq := if ps.contains .txq then t.txq else s.txq
    store := if ps.contains .store then t.store else s.store
    home := if ps.contains .home then t.home else s.home
    xlt := if ps.contains .xlt then t.xlt else s.xlt
    que := if ps.contains .que then t.que else s.que
    eng := if ps.contains .eng then t.eng else s.eng
    arr := if ps.contains .arr then t.arr else s.arr
    kv := if ps.contains .kv then t.kv else s.kv
    nmo := if ps.contains .nmo then t.nmo else s.nmo
    emb := if ps.contains .emb then t.emb else s.emb
    vsc := if ps.contains .vsc then t.vsc else s.vsc
    tim := if ps.contains .tim then t.tim else s.tim
    lnk := if ps.contains .lnk then t.lnk else s.lnk
    sec := if ps.contains .sec then t.sec else s.sec
    red := if ps.contains .red then t.red else s.red
    pwr := if ps.contains .pwr then t.pwr else s.pwr
    hst := if ps.contains .hst then t.hst else s.hst
    fresh := if ps.contains .fresh then t.fresh else s.fresh }

/-- A command's answer: the state `t` that it makes of `s`, in the parts `ps` that its effect reaches. What waits behind the
command waits on: no rule lets a command take away, add or reorder others. -/
def answer (ps : List Part) (s t : State) : Host.Outcome State Fault Refusal := .next (confine ps s t)

/-! ## Host writes -/

/-- A posted write to host memory with the requester ID of function `n`, relaxed ordering clear (R171, R562): sent, or held in
order (R569). -/
def hostWrite (s : State) (n addr : Nat) (bs : List Byte) : State :=
  if canIssue s n then emit s (.hostWrite n addr bs false)
  else setFn s n { fnOf s n with held := (fnOf s n).held ++ [.hostWrite n addr bs false] }

/-- A message handed to the links; the transmitter sends it later (R457). -/
def send (s : State) (m : Msg) : State := { s with txq := s.txq ++ [m] }

/-! ## Counters and sampling -/

/-- One occurrence passes the filters of group `g` (R588, R589). -/
def groupPass (s : State) (g : Nat) (o : Occ) : Bool :=
  let ten := getF s CNT_GCFG.TENANT g
  let prvOk := let m := getF s CNT_GCFG.PRIV g; m = 0 || Nat.testBit m o.prv
  let tenIs := o.ten = some ten
  (if tstF s CNT_GCFG.TOWN g then tenIs else prvOk && (!tstF s CNT_GCFG.TSEL g || tenIs))
  && (getF s CNT_GCFG.MKIND g = 0 || o.mst = some (getF s CNT_GCFG.MKIND g, getF s CNT_GCFG.MNUM g))
  && (!tstF s CNT_GCFG.SAEN g ||
      (match o.sa with | some a => getF s CNT_GSALO.SA g ≤ a && a < getF s CNT_GSAHI.SA g | none => false))
  && (!tstF s CNT_GCFG.CLASSEN g ||
      (match o.cls with | some c => Nat.testBit (getF s CNT_GCFG.CLASS g) c | none => false))

/-- The sample record of an occurrence (Table CNT-3), PHASE left 0 until it is written. -/
def sampleOf (s : State) (ev : Nat) (o : Occ) : BitVec 512 :=
  let r : BitVec 512 := bset 0 SMP.FTIME s.tim.now.toNat
  let r := match o.sa with | some a => bset (bset r SMP.VSA 1) SMP.SA a | none => r
  let r := match o.lat with | some l => bset (bset r SMP.VLAT 1) SMP.LAT (min l (2 ^ 32 - 1)) | none => r
  let r := match o.tag with
    | some (t, op, q) => bset (bset (bset (bset r SMP.VTAG 1) SMP.TAG t) SMP.OPCODE op) SMP.QUEUE q
    | none => r
  let r := match o.pc with | some (pc, i) => bset (bset (bset r SMP.VPC 1) SMP.PC pc) SMP.INSN i | none => r
  let r := match o.ten with | some t => bset (bset r SMP.VTEN 1) SMP.TENANT t | none => r
  let r := match o.mst with | some (k, n) => bset (bset r SMP.MKIND k) SMP.MNUM n | none => r
  bset r SMP.EVENT ev

/-- Room in the sample ring (R592). -/
def sampleRoom (s : State) : Bool :=
  let n := 2 ^ (min 15 (max 4 (getF s CNT_SRING.LOG2N)))
  decide ((getF s CNT_SSTAT.TAIL + 65536 - getF s CNT_SHEAD.INDEX) % 65536 < n)

/-- The sampler takes one occurrence of its counter (R591, R592). -/
def sampleTake (s : State) (ev : Nat) (o : Occ) : State :=
  let per := getF s CNT_SMPCTL.PERIOD
  if per = 0 then s else
  if s.obs.countdown > 1 then { s with obs := { s.obs with countdown := s.obs.countdown - 1 } }
  else
    let s := { s with obs := { s.obs with countdown := per } }
    if s.obs.sbuf.length < 256 then { s with obs := { s.obs with sbuf := s.obs.sbuf ++ [sampleOf s ev o] } }
    else setEvt { s with obs := { s.obs with sdropped := satInc 32 s.obs.sdropped } } CNT_EVT.SMPDROP

/-- An occurrence of event `ev` counted by every counter that selects it (R586). -/
def bump (s : State) (ev : Nat) (units : Nat) (o : Occ) : State :=
  if !tstF s CNT_CTL.EN || ev = 0 then s else
  (List.range 128).foldl (fun s n =>
    if getF s CNT_EVSEL.EVENT n = ev && groupPass s (n / 8) o then
      let s := { s with obs := { s.obs with cval := mputD 0 s.obs.cval n (mgetD 0 s.obs.cval n + BitVec.ofNat 64 units) } }
      if getF s CNT_SMPCTL.CTR = n then sampleTake s ev o else s
    else s) s

/-! ## Values left open -/

/-- The next number for a value that the spec leaves open. -/
def takeFresh (s : State) : Nat × State := (s.fresh, { s with fresh := s.fresh + 1 })

/-- One of the candidates, whichever (R3 fixes no choice). -/
def choose {α : Type} (s : State) (l : List α) : Option α × State :=
  match l with
  | [] => (none, s)
  | _ => (l[Config.pick s.fresh % l.length]?, { s with fresh := s.fresh + 1 })

end Sys2Proof.Machine
end

