-- ==== Sys2Proof/Machine/StoreOps.lean ====
section
/-! DEFINITION. StoreOps.lean: store addresses (Table STO-1), extents and their checks, lines of the near tier, staging
pages and their lines, quotas and tallies. -/
namespace Sys2Proof.Machine

/-! ## Store addresses (R10) -/

def saChip (sa : Nat) : Nat := sa / 2 ^ 50 % 1024
def saTier (sa : Nat) : Nat := sa / 2 ^ 48 % 4
def saOff (sa : Nat) : Nat := sa % 2 ^ 48
/-- The SA of offset `off` of tier `t` of chip `c`. -/
def mkSa (c t off : Nat) : Nat := c * 2 ^ 50 + t * 2 ^ 48 + off
/-- The extent number OFFSET[47:30]. -/
def saExt (sa : Nat) : Nat := saOff sa / 2 ^ 30
/-- The line of an SA: SA / 64. -/
def saLine (sa : Nat) : Nat := sa / 64
/-- The block number OFFSET[47:12] (R189). -/
def saBlk (sa : Nat) : Nat := saOff sa / 4096

/-- The pseudo-channel of a tier 0 offset (R14). -/
def nearPc (off g : Nat) (hashOff : Bool) : Nat :=
  let f (hi lo : Nat) : Nat := off / 2 ^ lo % 2 ^ (hi + 1 - lo)
  let pc := f (g + 8) g
  if hashOff then pc else pc ^^^ f (g + 17) (g + 9) ^^^ f (g + 26) (g + 18) ^^^ f (g + 35) (g + 27)

/-- G of R14 as TIER_NEARILV.GRAN sets it: 8, 10 or 12. The value 3 is reserved and the spec gives it no granule: it acts as 2
(DESIGN CHOICE, log entry 113). -/
def granule (s : State) : Nat := 8 + 2 * min 2 (getF s TIER_NEARILV.GRAN)

/-- The pseudo-channel of a tier 0 offset on this chip. A granule that the hash gives to a retired one is redirected into the
space that the top extents free, on a pseudo-channel in service (R17): the spec does not say on which. -/
def pcOf (s : State) (off : Nat) : Nat :=
  let pc := nearPc off (granule s) (tstF s TIER_NEARILV.HASH_OFF)
  if s.store.retiredPc.contains pc then
    let left := (List.range 512).filter fun p => !s.store.retiredPc.contains p
    left.getD (Config.redirect (off / 2 ^ granule s) % left.length) pc
  else pc

/-- The far-tier channel of a block: 16 x OFFSET[47:46] + OFFSET[15:12] (R189). -/
def chOf (blk : Nat) : Nat := 16 * (blk / 2 ^ 34 % 4) + blk % 16

/-- Blocks of channel `ch` are read through the recovery path: it has failed, or its sled quiesces (R556, Table FLT-5). -/
def chDead (s : State) (ch : Nat) : Bool := s.store.failedCh.contains ch || getF s PWR_SLED.STATE (ch / 16 % 4) == 5

/-- TIER_FARCAP of sled `n`. -/
def farCap (s : State) (n : Nat) : Nat :=
  match n with
  | 0 => getF s TIER_FARCAP.SLED0
  | 1 => getF s TIER_FARCAP.SLED1
  | 2 => getF s TIER_FARCAP.SLED2
  | _ => getF s TIER_FARCAP.SLED3

/-- Extent `e` of tier `t` of this chip is populated (R17, R19). -/
def populated (s : State) (t e : Nat) : Bool :=
  match t with
  | 0 => decide (e < getF s TIER_NEARCAP.EXTENTS)
  | 1 => decide (e % 65536 < farCap s (e / 65536 % 4))
  | _ => false

/-- Chip `c` is fenced (RED_FENCED). -/
def fencedChip (s : State) (c : Nat) : Bool := (regGet s .RED_FENCED (c / 64)).getLsbD (c % 64)

/-- A route leads to chip `c` (R11). -/
def routed (s : State) (c : Nat) : Bool := c == own s || tstF s LNK_RT.VALID c

/-- The stand-in of chip `c`, if one is named (RED_STANDIN). -/
def standIn (s : State) (c : Nat) : Option Nat := if tstF s RED_STANDIN.VALID c then some (getF s RED_STANDIN.CHIP c) else none

/-- The chip that serves an SA: its home, or the stand-in of a fenced home (R482). -/
def servedBy (s : State) (sa : Nat) : Nat :=
  if fencedChip s (saChip sa) then (standIn s (saChip sa)).getD (saChip sa) else saChip sa

/-! ## Extent records -/

/-- The key of the record of extent `e` of tier `t` (R25). -/
def extKey (t e : Nat) : Nat := t * 2 ^ 18 + e

/-- The record of extent `e` of tier `t` of this chip. -/
def extRec (s : State) (t e : Nat) : BitVec 128 := mgetD 0 s.store.ext (extKey t e)

/-- The record with `v` written. -/
def setExt (s : State) (t e : Nat) (v : BitVec 128) : State :=
  { s with store := { s.store with ext := mputD 0 s.store.ext (extKey t e) v } }

/-- The local secondary extent that holds the copy of a fenced primary's extent (R483). -/
def secondaryOf (s : State) (c t e : Nat) : Option (Nat × Nat) :=
  (s.store.ext.find? fun r => btst r.2 EXT.VALID && bget r.2 EXT.RCLASS = 1 && bget r.2 EXT.ROLE = 1
    && bget r.2 EXT.PCHIP = c && bget r.2 EXT.PTIER = t && bget r.2 EXT.PEXT = e).map fun r => (r.1 / 2 ^ 18, r.1 % 2 ^ 18)

/-- Where this chip keeps the bytes of `sa`: its own SA, or, as acting home, the SA of its secondary extent (R483). -/
def localSa (s : State) (sa : Nat) : Option Nat :=
  if saChip sa = own s then some sa
  else (secondaryOf s (saChip sa) (saTier sa) (saExt sa)).map fun (t, e) => mkSa (own s) t (e * 2 ^ 30 + sa % 2 ^ 30)


/-- STATE codes of an extent (Table STO-4). -/
def exIdle : Nat := 0
def exNormal : Nat := 1
def exRetiring : Nat := 2
def exDegraded : Nat := 3
def exRebuilding : Nat := 4
def exLost : Nat := 5

/-- The identity of the system key: derived from the frame seed, which FSID names (Table SEC-3). -/
def sysKey (s : State) : Nat := getF s SEC_FSID.FSID * 2 ^ 26 + 1

/-- The identity of a tenant's key of its current generation. -/
def tenKey (s : State) (t : Nat) : Nat := getF s SEC_FSID.FSID * 2 ^ 26 + 2 + t * 65536 + getF s TEN_SECCTL.KGEN t

/-- The identity of the key of an extent's lines and blocks (R525, R526): the system key, or the OWNER's. -/
def keyOf (s : State) (r : BitVec 128) : Nat := if btst r EXT.SYS then sysKey s else tenKey s (bget r EXT.OWNER)

/-! ## Near-tier lines -/

/-- The line at tier 0 offset `off` as kept. -/
def nearRaw (s : State) (off : Nat) : NearLine := mgetD {} s.store.near (off / 64)

/-- The line at tier 0 offset `off` under key `k`: its bytes and POISON. A poisoned line, and every line of a failed
pseudo-channel, reads as zeros with POISON (R150, "Retired pseudo-channels"). -/
def nearRead (s : State) (k off : Nat) : Line × Bool :=
  let e := nearRaw s off
  if s.store.failedPc.contains (pcOf s off) || btst e.lmeta LMETA.POISON then (0, true)
  else (if e.key = k then e.data else Config.otherKey (off / 64) k e.key e.data, false)

/-- The line at tier 0 offset `off` replaced. -/
def nearPut (s : State) (off : Nat) (e : NearLine) : State :=
  { s with store := { s.store with near := mputD {} s.store.near (off / 64) e } }

/-! ## Pages protected by a cut (R502, R503) -/

/-- Near-tier page `g` (OFFSET / 4096) is protected, not drained and not yet copied into the reserve. -/
def cutNear (s : State) (g : Nat) : Bool :=
  match s.red.cut with
  | some c => !c.frozen && c.exts.contains (g / 2 ^ 18) && !c.gone.contains g && (mget c.held g).isNone
  | none => false

/-- The staged block `blk` is. -/
def cutStg (s : State) (blk : Nat) : Bool :=
  match s.red.cut with
  | some c => !c.frozen && c.stg.contains blk && !c.stgGone.contains blk && (mget c.stgHeld blk).isNone
  | none => false

/-- The 64 lines of a near-tier page as they are kept. -/
def nearPage (s : State) (g : Nat) : List NearLine := (List.range 64).map fun i => nearRaw s (4096 * g + 64 * i)

/-- A protected page is copied into the reserve before its first write (R503). -/
def cutCopy (s : State) (g : Nat) : State :=
  match s.red.cut with
  | some c => if cutNear s g then { s with red := { s.red with cut := some { c with held := mput c.held g (nearPage s g) } } } else s
  | none => s

def cutCopyStg (s : State) (blk : Nat) (x : Page) : State :=
  match s.red.cut with
  | some c => if cutStg s blk then { s with red := { s.red with cut := some { c with stgHeld := mput c.stgHeld blk x } } } else s
  | none => s

/-- Pages that the reserve holds: what RESCOUNT extents leave beside the tier 2 image of 14 MiB (R504). -/
def reserveRoom (s : State) : Bool :=
  match s.red.cut with
  | some c => decide (c.held.length + c.stgHeld.length + 3584 < getF s RED_CUTCFG.RESCOUNT * 2 ^ 18)
  | none => true

/-- A write that finds no free page in the reserve waits (R503). -/
def cutHold (s : State) (q : HomeReq) : State :=
  match s.red.cut with
  | some c => { s with red := { s.red with cut := some { c with waiting := c.waiting ++ [q], since := c.since.or (some s.tim.now) } } }
  | none => s

/-- Writes a whole line under key `k` with its POISON; DIRSUM becomes `ds` (R138). -/
def nearWrite (s : State) (k off : Nat) (d : Line) (poison : Bool) (ds : Nat := 0) : State :=
  nearPut (cutCopy s (off / 4096)) off
    ⟨d, k, bset (bset (nearRaw s off).lmeta LMETA.POISON (if poison then 1 else 0)) LMETA.DIRSUM ds⟩

/-- The system's view of a line of a SYS extent of this chip. -/
def sysLine (s : State) (sa : Nat) : Line := (nearRead s (sysKey s) (saOff sa / 64 * 64)).1

/-- A line of one of the chip's own tables (leases, table records, collection records): one that nothing has written
under the system key holds the records' reset value, zero (Tables ATT-1, EMB-1, VSC-1). -/
def tabLine (s : State) (sa : Nat) : Line :=
  if (nearRaw s (saOff sa)).key = sysKey s then sysLine s sa else 0

/-- The chip's own write of a line of a SYS extent. -/
def sysPut (s : State) (sa : Nat) (d : Line) : State := nearWrite s (sysKey s) (saOff sa / 64 * 64) d false

/-- The system's view of an aligned 8-byte word of the near tier of this chip (R48). -/
def sysWord (s : State) (sa : Nat) : W64 := (sysLine s sa).extractLsb' (sa / 8 % 8 * 64) 64

/-- The bytes of `d` under the byte mask `m`, over `old`. -/
def mergeLine (old d : Line) (m : BitVec 64) : Line :=
  (List.range 64).foldl (fun acc i => if m.getLsbD i then bset acc ⟨8 * i, 8⟩ (bget d ⟨8 * i, 8⟩) else acc) old

/-- Every byte of a line. -/
def fullMask : BitVec 64 := BitVec.allOnes 64

/-! ## Staging pages (R192 to R198) -/

/-- STATE codes of a page (Table TIR-2). -/
def pgFree : Nat := 0
def pgFilling : Nat := 1
def pgClean : Nat := 2
def pgDirty : Nat := 3
def pgPartial : Nat := 4
def pgWriting : Nat := 5
def pgEvicting : Nat := 6

/-- Pages of one pool extent (R193). -/
def pagesPerExtent : Nat := 260096

/-- Extents of the pool: 1 to 256, and none before firmware has set it (R192). -/
def poolCount (s : State) : Nat := min 256 (getF s TIER_STGPOOL.COUNT)

/-- Pages of the pool. -/
def poolPages (s : State) : Nat := poolCount s * pagesPerExtent

/-- Pages FREE. -/
def freePages (s : State) : Nat := poolPages s - s.store.pages.length

/-- The SA of page `p` (R193). -/
def pageSa (s : State) (p : Nat) : Nat :=
  mkSa (own s) 0 ((getF s TIER_STGPOOL.BASE + p / pagesPerExtent) * 2 ^ 30 + (2048 + p % pagesPerExtent) * 4096)

/-- The key of a block: its number, and for a block of another chip that chip (R486). -/
def blkKey (s : State) (sa : Nat) : Nat := saBlk sa + (if saChip sa = own s then 0 else 2 ^ 36 * (saChip sa + 1))

/-- The key of the block that a page stages. -/
def pageKey (g : Page) : Nat := bget g.entry PAGE.BLOCK + 2 ^ 36 * g.foreign

/-- The page that stages block `blk`, ordinary or mirror. -/
def pageOf (s : State) (blk : Nat) (mirror : Bool := false) : Option (Nat × Page) :=
  s.store.pages.find? fun e => pageKey e.2 = blk && (btst e.2.entry PAGE.MIRROR == mirror)

/-- Page `p` replaced. -/
def setPage (s : State) (p : Nat) (g : Page) : State := { s with store := { s.store with pages := mput s.store.pages p g } }

/-- Field of a page's entry. -/
def pg (g : Page) (f : BF) : Nat := bget g.entry f

/-- Page with a field of its entry set. -/
def pgSet (g : Page) (f : BF) (x : Nat) : Page := { g with entry := bset g.entry f x }

/-- LVALID of a page as a mask. -/
def pgValid (g : Page) : BitVec 64 := g.entry.extractLsb' PAGE.LVALID.lo 64

/-- Line `n` of a page. -/
def pgLine (g : Page) (n : Nat) : Line := g.data.extractLsb' (512 * n) 512

/-- The AGE stamp of an access now: frame time[55:24] (Table TIR-1). -/
def ageNow (s : State) : Nat := s.tim.now.toNat / 2 ^ 24 % 2 ^ 32

/-- A write of line `n` of a page under a byte mask (R198): DMASK of its sector, SDIRTY, LVALID. -/
def pgWrite (g : Page) (n : Nat) (d : Line) (m : BitVec 64) (poison : Bool) : Page :=
  let nd := mergeLine (pgLine g n) d m
  { g with
    data := bset g.data ⟨512 * n, 512⟩ nd.toNat
    sdirty := maskSet g.sdirty n
    poison := if poison then maskSet g.poison n else if m = fullMask then maskClr g.poison n else g.poison
    entry := bset (bset g.entry PAGE.LVALID (maskSet (pgValid g) n).toNat) PAGE.DMASK (pg g PAGE.DMASK ||| 2 ^ (n / 8)) }

/-- The SA of a page's block. -/
def pageBlockSa (s : State) (g : Page) : Nat :=
  mkSa (if g.foreign = 0 then own s else g.foreign - 1) 1 (pg g PAGE.BLOCK * 4096)

/-- Lines of a page with a directory entry or DIRSUM S_LOST (HELD). -/
def heldLines (s : State) (g : Page) : List Nat :=
  (List.range 64).filter fun n => g.slost.getLsbD n || (mget s.home.dir (saLine (pageBlockSa s g + 64 * n))).isSome

/-- Requests and descriptors that wait on a page (WAITERS): those held by it, and those that wait at the home behind them
(Table TIR-8). -/
def pageWaiters (s : State) (g : Page) : Nat :=
  let behind := s.home.retry.filter fun w => saTier w.req.sa == 1 && blkKey s w.req.sa == pageKey g && pg g PAGE.STATE == pgFilling
  ((g.deferred ++ behind.map (·.req)).map (·.who)).eraseDups.length

/-- The page entry as it reads (Table TIR-1). -/
def pageEntry (s : State) (g : Page) : BitVec 256 :=
  bset (bset g.entry PAGE.HELD (heldLines s g).length) PAGE.WAITERS (pageWaiters s g)

/-- The pool extent, from 0, that a tier 0 offset lies in. -/
def poolAt (s : State) (off : Nat) : Option Nat :=
  let e := off / 2 ^ 30
  let b := getF s TIER_STGPOOL.BASE
  if b ≤ e ∧ e < b + poolCount s then some (e - b) else none

/-- Free pages below `w` 256ths of the pool. -/
def poolBelow (s : State) (w : Nat) : Bool := decide (freePages s * 256 < w * poolPages s)

/-- The pool runs low: free pages fell below LOW and have not reached HIGH since (R199, R206). -/
def poolIsLow (s : State) : Bool :=
  poolBelow s (getF s TIER_STGWM.LOW) || (s.store.poolLow && poolBelow s (getF s TIER_STGWM.HIGH))

/-- Whether the pool runs low, noted as pages are taken and freed. -/
def poolNote (s : State) : State := { s with store := { s.store with poolLow := poolIsLow s } }

/-- A tenant's live count USED grown or lowered (R226). -/
def chargeQ (s : State) (f : Fld) (t : Nat) (up : Bool) : State :=
  setF s f t (if up then getF s f t + 1 else getF s f t - 1)

/-- A LIMIT as it acts: a larger value acts as the maximum (Table TIR-17). -/
def limitQ (s : State) (f : Fld) (t mx : Nat) : Nat := min (getF s f t) mx

/-- Pages held by SYS extents. -/
def sysPages (s : State) : Nat := (s.store.pages.filter fun e => btst e.2.entry PAGE.SYSX).length

/-- A FREE page for block `blk` of an extent with record `r`: charged, in state `st`; none when no page is free to it
(R206, R207, R229). -/
def allocPage (s : State) (blk : Nat) (r : BitVec 128) (st hint : Nat) (mirror : Bool := false) : Option (Nat × Page × State) :=
  let sys := btst r EXT.SYS || decide (2 ^ 36 ≤ blk)
  let t := bget r EXT.OWNER
  let reserve := if sys then 0 else getF s TIER_STGPOOL.SYSRES - sysPages s
  if freePages s ≤ reserve then none
  else if !sys && limitQ s TEN_QUOTA_STG.LIMIT t 66584576 ≤ getF s TEN_QUOTA_STG.USED t then none
  else
    let n := poolPages s
    let used (p : Nat) : Bool := (mget s.store.pages p).isSome
    let c := Config.pick s.fresh % n
    match (if used c then (firstFree n used) else some c) with
    | none => none
    | some p =>
      let e : BitVec 256 := bset (bset (bset (bset (bset (bset 0 PAGE.STATE st) PAGE.BLOCK blk) PAGE.TENANT t)
        PAGE.SYSX (if sys then 1 else 0)) PAGE.HINT hint) PAGE.AGE (ageNow s)
      let g : Page := { entry := if mirror then bset e PAGE.MIRROR 1 else e, foreign := blk / 2 ^ 36 }
      let s := { s with fresh := s.fresh + 1 }
      let s := if sys then s else chargeQ s TEN_QUOTA_STG.USED t true
      some (p, g, poolNote (setPage s p g))

/-- Page `p` returned to FREE and its charge released. -/
def freePage (s : State) (p : Nat) : State :=
  match mget s.store.pages p with
  | none => s
  | some g =>
    let s := if btst g.entry PAGE.SYSX then s else chargeQ s TEN_QUOTA_STG.USED (pg g PAGE.TENANT) false
    poolNote { s with store := { s.store with pages := mdel s.store.pages p } }

/-- The far-tier block as the medium holds it. -/
def farBlock (s : State) (blk : Nat) : FarBlock := mgetD {} s.store.far blk

/-- The block replaced. -/
def putFar (s : State) (blk : Nat) (b : FarBlock) : State :=
  { s with store := { s.store with far := mputD {} s.store.far blk b } }

/-- A block as it is stored (R43); one that was never written counts as zeros, as it reads (R190; DEDUCED, log entry 115). -/
def storedBlock (blk : Nat) (b : FarBlock) : BitVec 32992 :=
  if b.key = 0 then 0 else Config.storedForm b.key blk b.iv b.data

/-- The ward copy of the record of extent `e` of tier `t` of the chip whose stand-in this chip is (R481). -/
def wardRec (s : State) (t e : Nat) : BitVec 128 :=
  let n := if t = 0 then 262144 + e else e
  let sa := adrF s RED_WARD.BASE + 16 * n
  if tstF s RED_WARD.EN then (sysLine s sa).extractLsb' (sa / 16 % 4 * 128) 128 else 0

/-- The record that governs an SA which this chip serves. -/
def recOf (s : State) (sa : Nat) : BitVec 128 :=
  if saChip sa = own s then extRec s (saTier sa) (saExt sa) else wardRec s (saTier sa) (saExt sa)

/-- The extent record of the block with key `blk`. -/
def blkRec (s : State) (blk : Nat) : BitVec 128 :=
  if blk < 2 ^ 36 then extRec s 1 (blk / 2 ^ 18) else wardRec s 1 (blk % 2 ^ 36 / 2 ^ 18)

/-! ## Tallies (R176 to R181) -/

def tallyRec (s : State) (i : Nat) : BitVec 128 := mgetD 0 s.store.tally i

def setTally (s : State) (i : Nat) (v : BitVec 128) : State :=
  { s with store := { s.store with tally := mputD 0 s.store.tally i v } }

/-- The tally's record may be used by tenant `t` (or by a privileged master). -/
def tallyMine (s : State) (i t : Nat) (prv : Bool) : Bool :=
  i != 0 && btst (tallyRec s i) TALLY.EN && (prv || bget (tallyRec s i) TALLY.OWNER == t)

/-- A performed write of `n` bytes carrying tally `i` (R179, R180). -/
def tallyCount (s : State) (i n t : Nat) (prv : Bool) (src : Nat) : State :=
  if i = 0 then s
  else if tallyMine s i t prv then setTally s i (bset (tallyRec s i) TALLY.COUNT (bget (tallyRec s i) TALLY.COUNT + n))
  else ledger s 0x0502 0 (if prv then none else some t) [i, src]

/-- Descriptors of this chip waiting on tally `i` (WAITERS, R182). -/
def tallyWaiters (s : State) (i : Nat) : Nat :=
  let waits (sl : Slot) : Bool := sl.tallyWait && !sl.tallyOk && bget sl.d DHDR.TALLY == i
  (s.que.slots.filter fun e => waits e.2).length + (s.que.park.filter fun e => waits e.2.slot).length
    + (s.que.retryWait.filter waits).length

/-! ## Metadata of any local line -/

/-- DIRSUM of a local near line has a reserved value, which acts as S_LOST and is recorded (R137). -/
def dirsumBad (s : State) (sa : Nat) : Bool := saTier sa == 0 && decide (2 ≤ bget (nearRaw s (saOff sa)).lmeta LMETA.DIRSUM)

/-- DIRSUM of a local line is not UNCACHED (R137: 2 and 3 act as S_LOST). -/
def lineSlost (s : State) (sa : Nat) : Bool :=
  if saTier sa = 0 then bget (nearRaw s (saOff sa)).lmeta LMETA.DIRSUM != 0
  else match pageOf s (blkKey s sa) with
    | some (_, g) => g.slost.getLsbD (saOff sa / 64 % 64)
    | none => false

/-- A sideband-only write of DIRSUM (R138). -/
def setSlost (s : State) (sa : Nat) (b : Bool) : State :=
  if saTier sa = 0 then
    let e := nearRaw s (saOff sa)
    nearPut s (saOff sa) { e with lmeta := bset e.lmeta LMETA.DIRSUM (if b then 1 else 0) }
  else match pageOf s (blkKey s sa) with
    | some (p, g) =>
      let n := saOff sa / 64 % 64
      setPage s p { g with slost := if b then maskSet g.slost n else maskClr g.slost n }
    | none => s

/-- A line's POISON set and its bytes zeroed (R156); `keep` leaves DIRSUM as it is (R219). -/
def poisonLine (s : State) (sa : Nat) (keep : Bool := false) : State :=
  if saTier sa = 0 then nearWrite s (keyOf s (recOf s sa)) (saOff sa / 64 * 64) 0 true
    (if keep then bget (nearRaw s (saOff sa)).lmeta LMETA.DIRSUM else 0)
  else match pageOf s (blkKey s sa) with
    | some (p, g) => setPage s p (pgWrite g (saOff sa / 64 % 64) 0 fullMask true)
    | none => s

end Sys2Proof.Machine
end

