-- ==== Sys2Proof/Machine/LineOps.lean ====
section
/-! DEFINITION. LineOps.lean: reads and writes of the lines of this chip's own tiers, near lines at once, far lines
through staging (R191, R195 to R198, R217, R218). -/
namespace Sys2Proof.Machine

/-- Outcome of a read of a local line. -/
inductive LineRd where
  | got (d : Line) (poison : Bool)
  /-- It waits for a fill or a page. -/
  | waits
  /-- It ends with a status and substatus. -/
  | bad (st sub : Nat)
  deriving DecidableEq, Repr

/-- Status codes (Table QUE-9). -/
def stOk : Nat := 0
def stPartial : Nat := 1
def stAccess : Nat := 0x0101
def stPoison : Nat := 0x0102
def stTierLate : Nat := 0x0201
def stTierUncorr : Nat := 0x0202
def stQuota : Nat := 0x0203
def stFaultUnres : Nat := 0x0301
def stUnitLost : Nat := 0x0401
def stRegionLost : Nat := 0x0402
def stVersion : Nat := 0x0501
def stRaiseMissed : Nat := 0x0601
def stTimeout : Nat := 0x0701
def stCancelled : Nat := 0x0702

/-- The HINT that an access leaves on a page: THINT unless it is NONE (R204). -/
def touchPage (s : State) (g : Page) (hint : Nat) : Page :=
  let g := pgSet g PAGE.AGE (ageNow s)
  if hint = 0 then g else pgSet g PAGE.HINT hint

/-- A page as an access of `req` leaves it: AGE, HINT, and under STREAM the descriptor that used it. -/
def touchReq (s : State) (g : Page) (req : HomeReq) : Page :=
  { touchPage s g req.hint with user := match req.who with | .slot sq => some sq | _ => none }

/-- A page leaves EVICTING because of a request (Table TIR-7): the eviction is abandoned. -/
def unEvict (g : Page) : Page :=
  if pg g PAGE.STATE = pgEvicting then
    { pgSet g PAGE.STATE (if pg g PAGE.DMASK = 0 then pgClean else pgDirty) with evAbandon := true }
  else g

/-- What a line of the staging pool reads as for a reader with key `k`: two page entries in the first 8 MiB of an extent,
behind it the line of the page (R193). A FREE page reads as the near tier holds it. -/
def poolRead (s : State) (k off : Nat) : Option (Line × Bool) :=
  match poolAt s off with
  | none => none
  | some i =>
    let x := off % 2 ^ 30 / 64
    let at_ (n : Nat) : Option Page := if n < 2048 then none else mget s.store.pages (i * pagesPerExtent + (n - 2048))
    if x < 2 ^ 17 then
      let ent (n : Nat) : BitVec 256 := ((at_ n).map (pageEntry s)).getD 0
      some (ent (2 * x + 1) ++ ent (2 * x), false)
    else (at_ (x / 64)).map fun g =>
      let key := keyOf s (blkRec s (pageKey g))
      if g.poison.getLsbD (x % 64) then (0, true)
      else (if key = k then pgLine g (x % 64) else Config.otherKey (off / 64) k key (pgLine g (x % 64)), false)

/-- The state of a page after a write (Table TIR-3). -/
def afterWrite (g : Page) : Page :=
  let st := pg g PAGE.STATE
  if st = pgClean then pgSet g PAGE.STATE pgDirty
  else if st = pgPartial ∧ pgValid g = fullMask then pgSet g PAGE.STATE pgDirty
  else g

/-- A PARTIAL page needs a fill of an invalid line: FILLING, a merge fill is issued. -/
def startFill (g : Page) : Page := if pg g PAGE.STATE = pgPartial then pgSet g PAGE.STATE pgFilling else g

/-- A request joins the page's waiters. -/
def joinPage (g : Page) (req : HomeReq) : Page := { g with deferred := g.deferred ++ [req] }

/-- A read or a write that needs lines of block `blk` of this chip which are not valid: it waits for the fill, or for a
page; a quarantined block is never filled (R217). A block of a failed channel is read from redundancy at once, or fails
in a NONE extent (Table FLT-5). -/
def needFill (s : State) (req : HomeReq) (blk : Nat) : LineRd × State :=
  let dead := chDead s (chOf (blk % 2 ^ 36)) && decide (blk < 2 ^ 36)
  if dead && bget (blkRec s blk) EXT.RCLASS == 0 then (.bad stTierUncorr 4, s) else
  match pageOf s blk req.mirror with
  | some (p, g) =>
    if (farBlock s blk).quar && pg g PAGE.STATE != pgFilling then (.bad stTierUncorr 3, s)
    else
      let filling := pg g PAGE.STATE == pgFilling
      (.waits, setPage s p { joinPage (startFill (touchReq s (unEvict g) req)) req with
        redundant := if filling then g.redundant else dead })
  | none =>
    if (farBlock s blk).quar then (.bad stTierUncorr 3, s)
    else match allocPage s blk (blkRec s blk) pgFilling req.hint req.mirror with
      | some (p, g, s) => (.waits, setPage s p { joinPage g req with redundant := dead || decide (2 ^ 36 ≤ blk) })
      | none => (.waits, { s with store := { s.store with pageWait := s.store.pageWait ++ [req] } })

/-- Reads the line of a local SA on behalf of `req`. A far line that is not staged waits in its page's list. -/
def lineRead (s : State) (req : HomeReq) (sa : Nat) : LineRd × State :=
  if saTier sa = 0 then
    let s := bump s 0x0401 1 { ten := some req.ten, sa := some sa, prv := if req.prv then 1 else 0 }
    let k := keyOf s (recOf s sa)
    let (d, p) := (poolRead s k (saOff sa)).getD (nearRead s k (saOff sa / 64 * 64))
    (.got d p, s)
  else
    let blk := blkKey s sa
    let n := saOff sa / 64 % 64
    match pageOf s blk with
    | some (p, g) =>
      if (pgValid g).getLsbD n then
        let g := touchReq s (unEvict g) req
        (.got (if g.poison.getLsbD n then 0 else pgLine g n) (g.poison.getLsbD n), setPage s p g)
      else needFill s req blk
    | none => needFill s req blk

/-- Outcome of a write of a local line. -/
inductive LineWr where
  | done
  | waits
  | bad (st sub : Nat)
  deriving DecidableEq, Repr

/-- Writes the masked bytes of the line of a local SA on behalf of `req`: the line is merged, DIRSUM becomes UNCACHED
and POISON clears on a whole-line write (R138, R151, R165). A far line takes a staging page, and a fill where the write
covers part of an invalid line (R197). A mirror write takes a mirror page, and leaves DIRSUM S_LOST (R201, R485). The staging
pool is written by the chip alone: a write there changes nothing (R193; log entry 116). -/
def lineWrite (s : State) (req : HomeReq) (sa : Nat) : LineWr × State :=
  let byCore := match req.who with | .memClass => true | _ => false
  if !byCore && !reserveRoom s && (if saTier sa = 0 then cutNear s (saOff sa / 4096) else cutStg s (blkKey s sa)) then
    (.waits, cutHold s req)
  else
  if saTier sa = 0 then
    let off := saOff sa / 64 * 64
    let k := keyOf s (recOf s sa)
    let (old, p0) := nearRead s k off
    let s := bump s 0x0402 1 { ten := some req.ten, sa := some sa, prv := if req.prv then 1 else 0 }
    if (poolAt s off).isSome then (.done, s)
    else (.done, nearWrite s k off (mergeLine old req.data req.mask)
      (if req.fill then false else if req.mask = fullMask then req.poison else p0 || req.poison) (if req.mirror then 1 else 0))
  else
    let blk := blkKey s sa
    let n := saOff sa / 64 % 64
    let land_ (s : State) (p : Nat) (g : Page) : LineWr × State :=
      let g0 := g
      let bad := g.poison.getLsbD n
      let g := if req.fill && bad then { g with data := bset g.data ⟨512 * n, 512⟩ 0, poison := maskClr g.poison n } else g
      let g := pgWrite (touchReq s (unEvict g) req) n req.data req.mask req.poison
      (.done, setPage (cutCopyStg s blk g0) p (afterWrite { g with
        slost := if req.mirror then maskSet g.slost n else maskClr g.slost n }))
    match pageOf s blk req.mirror with
    | some (p, g) =>
      if req.mask = fullMask || (pgValid g).getLsbD n then land_ s p g
      else match needFill s req blk with
        | (.bad a b, s) => (.bad a b, s)
        | (_, s) => (.waits, s)
    | none =>
      if req.mask = fullMask then
        match allocPage s blk (blkRec s blk) pgPartial req.hint req.mirror with
        | some (p, g, s) => land_ s p g
        | none => (.waits, { s with store := { s.store with pageWait := s.store.pageWait ++ [req] } })
      else match needFill s req blk with
        | (.bad a b, s) => (.bad a b, s)
        | (_, s) => (.waits, s)

/-- The mask of `k` bytes from byte `off` of a line. -/
def byteMask (off k : Nat) : BitVec 64 := BitVec.ofNat 64 ((2 ^ k - 1) * 2 ^ off)

/-- `bs` placed at byte `off` of an otherwise zero line. -/
def placeBytes (off : Nat) (bs : List Byte) : Line := BitVec.ofNat 512 (leNat bs * 256 ^ off)

/-- An SA range cut at line boundaries: (SA of the line, first byte, count, offset in the range). -/
def cutLines (sa len : Nat) : List (Nat × Nat × Nat × Nat) :=
  let first := sa / 64
  let last := (sa + len - 1) / 64
  if len = 0 then [] else
  (List.range (last + 1 - first)).map fun i =>
    let l := (first + i) * 64
    let a := max sa l
    let b := min (sa + len) (l + 64)
    (l, a - l, b - a, a - sa)

/-- The chip's own read of `n` bytes at a local SA of the near tier or of staged pages. -/
def ownRead (s : State) (sa n : Nat) : List Byte :=
  ((cutLines sa n).map fun (l, o, k, _) =>
    match (lineRead s { kind := .engRd, who := .memClass, ten := 0, prv := true, sa := l } l).1 with
    | .got d _ => sliceBytes d o k
    | _ => List.replicate k 0).flatten

end Sys2Proof.Machine
end

