-- ==== Sys2Proof/Machine/Operands.lean ====
section
/-! DEFINITION. Operands.lean: queue contexts, descriptors and their operands (Tables QUE-1, QUE-4, QUE-5), and the
slots that hold descriptors from fetch to completion. -/
namespace Sys2Proof.Machine

/-- The chip runs: its fast domain is powered and out of reset and it has not fenced itself (R477, R577). -/
def live (s : State) : Bool := s.pwr.fast && !s.red.selfFenced

/-- `f s` on a chip that runs, `s` on one that does not. -/
def whenLive (s : State) (f : State → State) : State := if live s then f s else s

/-- `f s` while the fast domain runs, also on a chip that has fenced itself: its links still work. -/
def whenClock (s : State) (f : State → State) : State := if s.pwr.fast then f s else s

/-- `f s` while registers outside GLB answer: also on a chip that has fenced itself, unless a function-level reset did so
(R577, R583). -/
def whenFast (s : State) (f : State → State) : State := if s.pwr.fast && !s.hst.only then f s else s

/-! ## Queue contexts -/

def ctxOf (s : State) (n : Nat) : BitVec 2048 := mgetD 0 s.que.ctx n

def setCtx (s : State) (n : Nat) (v : BitVec 2048) : State :=
  { s with que := { s.que with ctx := mputD 0 s.que.ctx n v } }

/-- Field `f` of queue context `n`. -/
def cq (s : State) (n : Nat) (f : BF) : Nat := bget (ctxOf s n) f

/-- Field `f` of queue context `n` holding `x`. -/
def setQ (s : State) (n : Nat) (f : BF) (x : Nat) : State := setCtx s n (bset (ctxOf s n) f x)

/-- Entries of both rings: 2^LOG2N, values below 4 acting as 4. -/
def ringSize (s : State) (n : Nat) : Nat := 2 ^ max 4 (cq s n QCTX.LOG2N)

/-- STATE codes of a queue. -/
def qDisabled : Nat := 0
def qRunning : Nat := 1
def qHalted : Nat := 2
def qStopped : Nat := 3
def qDraining : Nat := 4

/-- The queue is privileged (R90). -/
def qPrv (s : State) (n : Nat) : Bool := cq s n QCTX.PRIV != 0

/-- The tenant of a tenant queue. -/
def qTen (s : State) (n : Nat) : Nat := cq s n QCTX.TENANT

/-- The tenant, none for a privileged queue. -/
def qOwner (s : State) (n : Nat) : Option Nat := if qPrv s n then none else some (qTen s n)

/-- The function whose requester ID and vectors the queue uses (R93, R570). -/
def qFn (s : State) (n : Nat) : Nat := if qPrv s n then 0 else tenFn s (qTen s n)

/-- MAXINFL as R96 takes it. -/
def maxInfl (s : State) (n : Nat) : Nat := min 256 (max 1 (cq s n QCTX.MAXINFL))

/-- The enabled context of queue `q` of tenant `t`. -/
def ctxFor (s : State) (t q : Nat) : Option Nat :=
  (s.que.ctx.find? fun e => btst e.2 QCTX.EN && bget e.2 QCTX.PRIV == 0 && bget e.2 QCTX.TENANT == t
    && bget e.2 QCTX.QNUM == q).map (·.1)

/-! ## Descriptors -/

/-- A header field (Table QUE-4). -/
def hd (d : Desc) (f : BF) : Nat := bget d f

/-- A field of slot `i` as an operand (Table QUE-5). -/
def opF (d : Desc) (i : Nat) (f : BF) : Nat := bget d ⟨256 + 128 * i + f.lo, f.w⟩

/-- The parameter in bytes `off` to `off + k - 1` of the descriptor. -/
def par (d : Desc) (off k : Nat) : Nat := bget d ⟨8 * off, 8 * k⟩

/-- Length of operand `i`. -/
def opLen (d : Desc) (i : Nat) : Nat := opF d i OPND.LEN

/-- Bits of the opcode-specific word: OPSPEC of slot 0. -/
def ops0 (d : Desc) (lo w : Nat) : Nat := opF d 0 ⟨OPND.OPSPEC.lo + lo, w⟩

def opcode (d : Desc) : Nat := hd d DHDR.OPCODE

/-! Opcodes (Table QUE-6). -/

def ocNop : Nat := 0x0000
def ocTallyWait : Nat := 0x0001
def ocTallySet : Nat := 0x0002
def ocCut : Nat := 0x0003
def ocPublish : Nat := 0x0004
def ocFill : Nat := 0x0100
def ocCopy : Nat := 0x0101
def ocCompare : Nat := 0x0102
def ocReduce : Nat := 0x0103
def ocPrefetch : Nat := 0x0104
def ocAdvise : Nat := 0x0105
def ocGemm : Nat := 0x0200
def ocAttn : Nat := 0x0201
def ocKvAppend : Nat := 0x0202
def ocKvLease : Nat := 0x0203
def ocExpert : Nat := 0x0204
def ocLayer : Nat := 0x0205
def ocEmbGather : Nat := 0x0300
def ocEmbUpdate : Nat := 0x0301
def ocEmbSwitch : Nat := 0x0302
def ocVinsert : Nat := 0x0400
def ocVdelete : Nat := 0x0401
def ocVscan : Nat := 0x0402
def ocVrerank : Nat := 0x0403
def ocScribe : Nat := 0x0500

/-- TWAIT: the descriptor waits on its tally; TALLY_WAIT always does (R108). -/
def twait (d : Desc) : Bool := ops0 d 0 1 == 1 || opcode d == 1

/-- A raising: RAISE = 1 and RTIME not 0 (R105). -/
def raising (d : Desc) : Bool := hd d DHDR.RAISE == 1 && hd d DHDR.RTIME != 0

/-- The descriptor has a deadline (R106): DEADLINE, or its queue's DEFDL when that is 0. -/
def hasDeadline (s : State) (n : Nat) (d : Desc) : Bool := hd d DHDR.DEADLINE != 0 || cq s n QCTX.DEFDL != 0

/-- The frame time at which the deadline of a descriptor fetched at `t` passes (R106); 0: it has none. -/
def deadlineAt (s : State) (n : Nat) (t : W64) (d : Desc) : Nat :=
  let us := if hd d DHDR.DEADLINE != 0 then hd d DHDR.DEADLINE else cq s n QCTX.DEFDL
  if us = 0 then 0 else (if raising d then hd d DHDR.RTIME else t.toNat) + us * 256000

/-! ## Slots -/

def slotOf (s : State) (sq : Nat) : Option Slot := mget s.que.slots sq

def setSlot (s : State) (sq : Nat) (sl : Slot) : State :=
  { s with que := { s.que with slots := mput s.que.slots sq sl } }

/-- The slot changed by `f`, where it is in use. -/
def modSlot (s : State) (sq : Nat) (f : Slot → Slot) : State :=
  { s with que := { s.que with slots := mmod s.que.slots sq f } }

/-- What a counted occurrence of a descriptor carries. -/
def occOf (s : State) (sl : Slot) : Occ :=
  { prv := if qPrv s sl.ctx then 1 else 0, ten := qOwner s sl.ctx, mst := some (4, qFn s sl.ctx),
    cls := some (opcode sl.d / 256),
    tag := some (hd sl.d DHDR.TAG, opcode sl.d, if qPrv s sl.ctx then 0 else cq s sl.ctx QCTX.QNUM) }

/-- The tally that the writes of a descriptor carry (R179, R181). -/
def carriedTally (d : Desc) : Nat := if twait d then 0 else hd d DHDR.TALLY

/-- The extents of operand `i`. -/
def extsOf (sl : Slot) (i : Nat) : List SAExt := sl.ops.getD i []

/-- The pieces (SA, length) that hold bytes `off` to `off + n - 1` of an operand. -/
def piecesOf : List SAExt → Nat → Nat → List (Nat × Nat)
  | [], _, _ => []
  | e :: es, off, n =>
    if n = 0 then []
    else if e.len ≤ off then piecesOf es (off - e.len) n
    else
      let k := min n (e.len - off)
      (e.base + off, k) :: piecesOf es 0 (n - k)

/-- The SA of byte `off` of an operand. -/
def saAt : List SAExt → Nat → Option Nat
  | [], _ => none
  | e :: es, off => if off < e.len then some (e.base + off) else saAt es (off - e.len)

/-- The lines that bytes `off` to `off + n - 1` of an operand touch, in order. -/
def linesOf (es : List SAExt) (off n : Nat) : List Nat :=
  ((piecesOf es off n).map fun p => (cutLines p.1 p.2).map (·.1)).flatten.eraseDups

end Sys2Proof.Machine
end

