-- ==== Sys2Proof/Machine/Eng.lean ====
section
/-! DEFINITION. Eng.lean: engine reads and posted writes whose home is another chip (R166, R167, R173, Table LNK-8). -/
namespace Sys2Proof.Machine

/-- An ENG message (Table LNK-8) to chip `dst`. `x` fills the TALLY field. -/
def engMsg (s : State) (opc dst ten tag x len : Nat) (prv : Bool) (sa : Nat) (data : List Byte) : Msg :=
  let h : BitVec 128 := bset (bset (bset (bset (bset (bset (bset 0 ENGH.OPC opc) ENGH.TENANT (if prv then 0 else ten))
    ENGH.TAG tag) ENGH.TALLY x) ENGH.LEN len) ENGH.PRIV (if prv then 1 else 0)) ENGH.SA sa
  { vc := .eng, dst := dst, dep := 8, src := own s, sep := 8, hdr := h, data := data }

/-- First byte of a byte mask. -/
def maskOff (m : BitVec 64) : Nat := ((List.range 64).find? fun i => m.getLsbD i).getD 0

/-- An earlier write to the line than access number `ord` is not yet acknowledged (R166). -/
def lineBusy (s : State) (ord sa : Nat) : Bool := s.eng.pend.any fun p => p.sa == sa && decide (p.ord < ord)

/-- The ENG_WR of a pending write. -/
def pendMsg (s : State) (p : Pend) : Msg :=
  let o := maskOff p.req.mask
  let k := maskCount p.req.mask 64
  engMsg s 3 p.dst p.req.ten p.tag p.req.tally k p.req.prv (p.sa + o) (sliceBytes p.req.data o k)

/-- Entries of the pending-write table: the writes sent and not acknowledged (R166). -/
def pendSent (s : State) : Nat := (s.eng.pend.filter fun p => !p.held).length

/-- A held write that nothing before it holds, sent if the table has an entry (R166, R167). -/
def issueWrite (s : State) (p : Pend) : State :=
  if lineBusy s p.ord p.sa || decide (32768 ≤ pendSent s) then s
  else
    let s := { s with eng := { s.eng with pend := s.eng.pend.map fun q => if q.tag = p.tag then { q with held := false } else q } }
    send s (pendMsg s p)

/-- A held read that nothing before it holds, sent. -/
def issueRead (s : State) (r : RemRead) : State :=
  if lineBusy s r.ord r.sa then s
  else
    let s := { s with eng := { s.eng with reads := s.eng.reads.map fun q => if q.tag = r.tag then { q with held := false } else q } }
    let prv := ((slotOf s r.seq).map fun sl => qPrv s sl.ctx).getD true
    let ten := ((slotOf s r.seq).map fun sl => qTen s sl.ctx).getD 0
    send s (engMsg s 1 (servedBy s r.sa) ten r.tag 0 r.len prv (r.sa + r.off) [])

/-- The held access number `n` tried. -/
def issue (s : State) (n : Nat) : State :=
  match s.eng.pend.find? fun p => p.held && p.ord == n with
  | some p => issueWrite s p
  | none => match s.eng.reads.find? fun r => r.held && r.ord == n with
    | some r => issueRead s r
    | none => s

/-- Numbers of the held accesses, in the order of their issue. -/
def heldOrds (s : State) : List Nat :=
  ((s.eng.pend.filter (·.held)).map (·.ord) ++ (s.eng.reads.filter (·.held)).map (·.ord)).foldl insRising []

/-- Sends the held accesses that nothing holds any more, in the order of their issue (R166, R167). -/
def pump (s : State) : State := (heldOrds s).foldl issue s

/-- The next tag for a message that expects an answer. -/
def newTag (s : State) : Nat × State :=
  (s.store.nextTag % 65536, { s with store := { s.store with nextTag := s.store.nextTag + 1 } })

/-- A posted write of one line to another chip's home, for descriptor `sq` of queue `ctx` (R166, R173). -/
def postWrite (s : State) (ctx sq : Nat) (req : HomeReq) (cpl : Bool := false) : State :=
  let n := s.store.nextTag
  let (tag, s) := newTag s
  pump { s with eng := { s.eng with
    pend := s.eng.pend ++
      [{ tag := tag, sa := req.sa, dst := servedBy s req.sa, req := req, ctx := ctx, seq := sq, held := true, ord := n, cpl := cpl }] } }

/-- A read of `len` bytes from byte `off` of one line at another chip's home for descriptor `sq`. -/
def remoteRead (s : State) (sq sa : Nat) (off : Nat := 0) (len : Nat := 64) : State :=
  let n := s.store.nextTag
  let (tag, s) := newTag s
  pump { s with eng := { s.eng with
    reads := s.eng.reads ++ [{ tag := tag, sa := sa, seq := sq, held := true, off := off, len := len, ord := n }] } }

/-- The primary's line in a MIRROR2 extent that still sends mirror writes: the partner chip and SA (R41, R489). -/
def mirrorOf (s : State) (sa : Nat) : Option (Nat × Nat) :=
  let r := recOf s sa
  let st := bget r EXT.STATE
  if saChip sa = own s && bget r EXT.RCLASS = 1 && bget r EXT.ROLE = 0 && (st = exNormal || st = exRebuilding || st = exRetiring)
      && saTier sa ≤ 1 then
    some (bget r EXT.PCHIP, mkSa (bget r EXT.PCHIP) (bget r EXT.PTIER) (bget r EXT.PEXT * 2 ^ 30 + sa % 2 ^ 30))
  else none

/-- The bytes of `q` sent to the secondary; the write is acknowledged when it accepts (R41). -/
def sendMirror (s : State) (q : HomeReq) (htx : Option Nat) : State :=
  match mirrorOf s q.sa with
  | none => s
  | some (c, sa) =>
    let (tag, s) := newTag s
    let o := maskOff q.mask
    let k := maskCount q.mask 64
    let s := send s (engMsg s 3 c 0 tag 0 k true (sa + o) (sliceBytes q.data o k))
    { s with store := { s.store with mirrors := s.store.mirrors ++ [{ tag := tag, sa := q.sa, req := q, htx := htx }] } }

/-- The chip's own write of bytes at an SA of which it keeps the line: no reply is awaited; a MIRROR2 line goes to its
secondary too. -/
def ownWrite (s : State) (sa : Nat) (bs : List Byte) : State :=
  (cutLines sa bs.length).foldl (fun s (l, o, k, i) =>
    let q : HomeReq := { kind := .engWr, who := .memClass, ten := 0, prv := true, sa := l,
                         data := placeBytes o ((bs.drop i).take k), mask := byteMask o k }
    sendMirror (lineWrite s q l).2 q none) s

/-- The chip's own write of a ring entry or a record at an SA: at its own home, or posted. -/
def saWrite (s : State) (ctx sq : Nat) (prv : Bool) (ten sa : Nat) (bs : List Byte) (cpl : Bool := false) : State :=
  if servedBy s sa = own s then
    match localSa s sa with
    | some a => ownWrite s a bs
    | none => s
  else (cutLines sa bs.length).foldl (fun s (l, o, k, i) =>
    postWrite s ctx sq { kind := .engWr, who := .memClass, ten := ten, prv := prv, sa := l,
                         data := placeBytes o ((bs.drop i).take k), mask := byteMask o k } cpl) s

end Sys2Proof.Machine
end

