-- ==== Sys2Proof/Machine/QueOps.lean ====
section
/-! DEFINITION. QueOps.lean: completions, interrupts of queues, halting, parking and the fault ring (chapters "Queues,
doorbells and completions" and "Translation at submission"). -/
namespace Sys2Proof.Machine

/-! ## Lease records (R278), for the pins that a descriptor holds -/

def leaseSa (s : State) (i : Nat) : Nat := adrF s ARR_KVLTAB.BASE + 64 * i

def leaseRec (s : State) (i : Nat) : Line := tabLine s (leaseSa s i)

def setLease (s : State) (i : Nat) (f : BF) (x : Nat) : State := sysPut s (leaseSa s i) (bset (leaseRec s i) f x)

/-- PINS of every lease named falls by one (R284). -/
def unpin (s : State) (l : List Nat) : State :=
  l.foldl (fun s i => setLease s i LEASE.PINS (bget (leaseRec s i) LEASE.PINS - 1)) s

/-! ## Slots -/

/-- A descriptor slot is free to queue `n` (R96). -/
def slotFree (s : State) (n : Nat) : Bool :=
  decide (s.que.slots.length < 16384) &&
  (!partitioned s || qPrv s n ||
    decide ((s.que.slots.filter fun e => !qPrv s e.2.ctx && qTen s e.2.ctx == qTen s n).length
      < min 16384 (getF s TEN_QSLOTQ.LIMIT (qTen s n))))

/-- A descriptor that waits for a slot after RETRY takes the one that freed, in launch order. -/
def retryTake (s : State) : State :=
  match s.que.retryWait.find? fun sl => slotFree s sl.ctx with
  | none => s
  | some sl =>
    { s with que := { s.que with retryWait := s.que.retryWait.filter (fun x => x.seq != sl.seq)
                                 slots := mput s.que.slots sl.seq sl } }

/-- Every descriptor that waits for a slot takes one where one is free to it (R96). -/
def retryTakeAll (s : State) : State := s.que.retryWait.foldl (fun s _ => retryTake s) s

/-- A scan that has its snapshot leaves SCANS of its collection (R372). -/
def scanDrop (s : State) (sl : Slot) : State :=
  match sl.work with
  | .scan _ =>
    let s := { s with vsc := { s.vsc with up := s.vsc.up.filter (·.2 != sl.seq) } }
    let sa := adrF s VSC_CTAB.BASE + 128 * (par sl.d 112 2 % 4096)
    sysPut s sa (bset (tabLine s sa) VCOLL.SCANS (bget (tabLine s sa) VCOLL.SCANS - 1))
  | _ => s

/-- A KV_APPEND that ends without OK returns the slots it took (R291). -/
def appendDrop (s : State) (sl : Slot) : State :=
  match sl.work with
  | .append _ taken _ =>
    { s with kv := { s.kv with slots := taken.foldl (fun m k => mdel m (qTen s sl.ctx * 2 ^ 32 + k)) s.kv.slots } }
  | _ => s

/-- A look-up or an update releases its pin (R333). -/
def embDrop (s : State) (sl : Slot) : State :=
  match sl.work with
  | .emb r =>
    let sa := adrF s EMB_TTAB.BASE + 128 * r.tab
    let f := if r.slotB then ETAB.PINSB else ETAB.PINSA
    sysPut s sa (bset (tabLine s sa) f (bget (tabLine s sa) f - 1))
  | _ => s

/-- A LAYER_STREAM releases its pins (R317 to R319). -/
def layerDrop (s : State) (sl : Slot) : State :=
  match sl.work with
  | .layer .. => { s with store := { s.store with pages := mmap s.store.pages fun _ g => { g with pins := g.pins.filter (· != sl.seq) } } }
  | _ => s

/-- The slot of a descriptor given up, with every unit, pin and hold that the descriptor has. -/
def dropSlot (s : State) (sl : Slot) : State :=
  let sq := sl.seq
  let s := embDrop (layerDrop (appendDrop (scanDrop (unpin s sl.leases) sl) sl) sl) sl
  let s := { s with
    que := { s.que with slots := mdel s.que.slots sq }
    xlt := { s.xlt with shoots := s.xlt.shoots.map fun h => { h with holders := h.holders.filter (· != sq) } }
    arr := { s.arr with held := mfilter s.arr.held fun _ v => v != sq
                        waiting := s.arr.waiting.filter (· != sq)
                        chosen := s.arr.chosen.filter (· != sq)
                        plumb := mdel s.arr.plumb sq }
    nmo := { s.nmo with held := mfilter s.nmo.held fun _ v => v != sq, waiting := s.nmo.waiting.filter (· != sq) }
    eng := { s.eng with reads := s.eng.reads.filter (·.seq != sq) } }
  retryTake s

/-! ## Completions -/

/-- The status and substatus complete over all or part of the input. -/
def fine (st : Nat) : Bool := st == stOk || st == stPartial

/-- The completion of a descriptor (Table QUE-8) at ring position `pos`. -/
def cplOf (s : State) (sl : Slot) (pos st sub res : Nat) : BitVec 256 :=
  let n := sl.ctx
  bset (bset (bset (bset (bset (bset (bset (bset 0 CPL.TAG (hd sl.d DHDR.TAG)) CPL.STATUS st) CPL.SUBSTATUS sub) CPL.RESULT res)
    CPL.FTIME s.tim.now.toNat) CPL.RINGIDX sl.idx) CPL.QUEUE (if qPrv s n then 0 else cq s n QCTX.QNUM))
    CPL.PHASE (1 - pos / ringSize s n % 2)

/-- The message of context `n`: it waits while a completion entry written to another home is not acknowledged, so that the
entries it announces are visible (R121). -/
def signalOut (s : State) (n : Nat) : State :=
  if s.eng.pend.any fun p => p.cpl && p.ctx == n then { s with que := { s.que with msgDue := insRising s.que.msgDue n } }
  else msix s (qFn s n) (cq s n QCTX.VEC)

/-- The interrupt rules of R120 to R122 for one completion with status `st`. -/
def signalCpl (s : State) (n : Nat) (irq : Bool) (st : Nat) : State :=
  let err := cq s n QCTX.ERRIRQ == 1
  if irq || (err && st != stOk) then
    let k := mgetD 0 s.que.signal n + 1
    if (err && !fine st) || cq s n QCTX.ITIME == 0 || decide (max 1 (cq s n QCTX.ICOUNT) ≤ k) then
      signalOut { s with que := { s.que with signal := mdel s.que.signal n } } n
    else { s with que := { s.que with signal := mput s.que.signal n k } }
  else s

/-- Counts of statuses that other chapters keep (R434, Table TIM-10, R212, R229). -/
def countStatus (s : State) (n st sub : Nat) : State :=
  if st = stRaiseMissed then
    let s := satF s TIM_RSTAT.MISSED 0
    if qPrv s n then s else satF s TEN_RAISESTAT.MISSED (qTen s n)
  else if st = stTierLate then setEvt s TIER_EVT.LATE
  else if st = stQuota ∧ sub = 3 ∧ !qPrv s n then setF s TEN_QSTAT.STG (qTen s n) 1
  else s

/-- One completion, with everything that R111, R112 and R120 to R122 attach to it. -/
def completeOne (s : State) (sq st sub res : Nat) : State :=
  match slotOf s sq with
  | none => s
  | some sl =>
    let n := sl.ctx
    let sub := if sl.late && st = stOk && sub = 0 then 0x00B0 else sub
    let pos := cq s n QCTX.CQTAIL
    let c := ctxOf s n
    let addr := bget c QCTX.CQADDR * 32 + 32 * (pos % ringSize s n)
    let bs := bytesOf (cplOf s sl pos st sub res)
    let s := if btst c QCTX.CQLOC then saWrite s n sq (qPrv s n) (qTen s n) addr bs true else hostWrite s (qFn s n) addr bs
    let s := setQ (setQ s n QCTX.CQTAIL (pos + 1)) n QCTX.INFL (cq s n QCTX.INFL - 1)
    let s := bump s 0x0103 1 { occOf s sl with lat := some ((s.tim.now - sl.ftime).toNat * 10 / 1024) }
    let s := if fine st then s else bump s 0x0104 1 (occOf s sl)
    let s := countStatus s n st sub
    let s := signalCpl s n (hd sl.d DHDR.IRQ == 1 || sl.sig) st
    dropSlot s sl

/-- The descriptor has not launched. -/
def unlaunched (sl : Slot) : Bool :=
  match sl.ph with
  | .fetching | .untranslated | .waiting => true
  | .launched | .running | .finishing => false

/-- A park slot given up: its generation advances modulo 32 (R75). A record it still held for the fault ring goes with it: the
spec does not say that it is written later (DESIGN CHOICE, log entry 114). -/
def freePark (s : State) (p : Nat) : State :=
  { s with que := { s.que with park := mdel s.que.park p
                               parkGen := mputD 0 s.que.parkGen p ((mgetD 0 s.que.parkGen p + 1) % 32) } }

/-- A parked descriptor back in a descriptor slot, its park slot freed. -/
def parkOut (s : State) (p : Nat) (sl : Slot) : State :=
  let s := freePark s p
  { s with que := { s.que with slots := mput s.que.slots sl.seq sl } }

/-- A descriptor that waits for a slot after RETRY, in one. -/
def waitOut (s : State) (sl : Slot) : State :=
  { s with que := { s.que with retryWait := s.que.retryWait.filter (fun x => x.seq != sl.seq)
                               slots := mput s.que.slots sl.seq sl } }

/-- Every descriptor of queue `n` that has not launched and satisfies `p` is cancelled with substatus `sub`; one whose
bytes are still on their way is cancelled when they arrive, for the first reason it was given (R116, R118). -/
def cancelPass (s : State) (n sub : Nat) (p : Slot → Bool) : State :=
  let s := (mvals s.que.slots).foldl (fun s sl =>
    if sl.ctx = n && unlaunched sl && p sl then
      if sl.ph = .fetching then modSlot s sl.seq fun x => { x with stop := x.stop.or (some (stCancelled, sub)) }
      else completeOne s sl.seq stCancelled sub 0
    else s) s
  let s := s.que.park.foldl (fun s e =>
    if e.2.slot.ctx = n && p e.2.slot then completeOne (parkOut s e.1 e.2.slot) e.2.slot.seq stCancelled sub 0 else s) s
  s.que.retryWait.foldl (fun s sl =>
    if sl.ctx = n && p sl then completeOne (waitOut s sl) sl.seq stCancelled sub 0 else s) s

/-- STATE HALTED, unless the queue drains. Causes for which its fetching is stopped stay (R71). -/
def haltState (s : State) (n : Nat) : State :=
  if cq s n QCTX.STATE = qDraining then s else setQ s n QCTX.STATE qHalted

/-- HALT_ON_ERROR (R116): the queue halts and its descriptors that have not launched are cancelled. -/
def haltOn (s : State) (n st : Nat) (halt : Bool) : State :=
  if halt && !fine st then cancelPass (haltState s n) n 1 fun _ => true else s

/-- The descriptors of queue `n` that a cancellation by `p` completes at once: some has HALT_ON_ERROR. -/
def haltsAmong (s : State) (n : Nat) (p : Slot → Bool) : Bool :=
  (mvals s.que.slots ++ (mvals s.que.park).map (·.slot) ++ s.que.retryWait).any fun sl =>
    sl.ctx == n && unlaunched sl && sl.ph != .fetching && p sl && hd sl.d DHDR.HALT_ON_ERROR == 1

/-- A cancellation of descriptors that have not launched: CANCELLED with HALT_ON_ERROR halts the queue as any failure does
(R116, R118). -/
def cancelUnlaunched (s : State) (n sub : Nat) (p : Slot → Bool) : State :=
  haltOn (cancelPass s n sub p) n stCancelled (haltsAmong s n p)

/-- A descriptor completes: its completion, and the halt that a failure may bring. -/
def complete (s : State) (sq st sub res : Nat) : State :=
  match slotOf s sq with
  | none => s
  | some sl => haltOn (completeOne s sq st sub res) sl.ctx st (hd sl.d DHDR.HALT_ON_ERROR == 1)

/-- A parked descriptor completed from its park slot. -/
def completeParked (s : State) (p st sub : Nat) : State :=
  match mget s.que.park p with
  | none => s
  | some k => complete (parkOut s p k.slot) k.slot.seq st sub 0

/-- A descriptor that waits for a slot after RETRY, completed. -/
def completeWaiting (s : State) (sl : Slot) (st sub : Nat) : State := complete (waitOut s sl) sl.seq st sub 0

/-- A KV_APPEND whose last write has been performed keeps the slots it took, and the lease counts them (R291). -/
def appendKeep (s : State) (sl : Slot) (st : Nat) : State :=
  match sl.work with
  | .append _ taken 2 =>
    if fine st then
      let i := sl.leases.headD 0
      modSlot (setLease s i LEASE.BLOCKS (bget (leaseRec s i) LEASE.BLOCKS + taken.length)) sl.seq fun x => { x with work := .idle }
    else s
  | _ => s

/-- Opcodes whose result word is a number of bytes written or moved: FILL, COPY without a scribe, REDUCE. -/
def countsBytes (d : Desc) : Bool := opcode d == 0x100 || (opcode d == 0x101 && ops0 d 1 1 == 0) || opcode d == 0x103

/-- Some write of descriptor `sq` to another home is not yet issued (R166, R167). -/
def unissued (s : State) (sq : Nat) : Bool := s.eng.pend.any fun p => p.held && p.seq == sq

/-- The work of a descriptor has ended: it completes once every write of it whose home is this chip has been performed, and
every other write issued (R170). A status that a line, a tier or a refusal gave it replaces OK and PARTIAL. -/
def finish (s : State) (sq st sub res : Nat) : State :=
  match slotOf s sq with
  | none => s
  | some sl =>
    let (st, sub) := match sl.err with
      | some e => if fine st then e else (st, sub)
      | none => (st, sub)
    if sl.owed = 0 && !unissued s sq then complete (appendKeep s sl st) sq st sub (if countsBytes sl.d then res - sl.unwrit else res)
    else modSlot s sq fun x => { x with ph := .finishing, fin := some (st, sub, res) }

/-- A deferred completion whose last local write has been performed, and whose last remote one is issued. -/
def tryFinish (s : State) (sq : Nat) : State :=
  match slotOf s sq with
  | some sl =>
    match sl.fin with
    | some (st, sub, res) => if sl.owed = 0 then finish s sq st sub res else s
    | none => s
  | none => s

/-- The message of a PUBLISH to another home waits for a port: the home has not compared versions (R119). -/
def pubQueued (s : State) (sl : Slot) (m : Msg) : Bool :=
  let home := par sl.d 58 2 % 1024
  opcode sl.d == 4 && sl.work == .await sl.seq && m.vc == .eng && m.src == own s && m.dst == servedBy s (mkSa home 2 0)
    && bget m.hdr ENGH.OPC == 3 && bget m.hdr ENGH.TAG == sl.seq % 65536
    && bget m.hdr ENGH.SA == mkSa home 2 (0x00400000 + 64 * (par sl.d 56 2 % 2 ^ 14))

/-- A PUBLISH whose message has not left the chip is taken back and completes. -/
def pubTakeBack (s : State) (sl : Slot) (st sub : Nat) : State :=
  complete { s with txq := s.txq.filter fun m => !pubQueued s sl m } sl.seq st sub 0

/-- The opcodes that a cancellation does not stop once they have launched (R119): TALLY_SET, CUT, PUBLISH once sent,
EMB_SWITCH. -/
def unstoppable (sl : Slot) : Bool :=
  let o := opcode sl.d
  o == 2 || o == 3 || o == 0x302 || (o == 4 && sl.ph != .launched)

/-- A running descriptor is told to stop at its next tile boundary. -/
def stopRunning (s : State) (sq st sub : Nat) : State :=
  modSlot s sq fun x => match x.stop with
    | none => { x with stop := some (st, sub) }
    | some _ => x

/-- Every deferred completion tried. -/
def finishAll (s : State) : State := (mkeys s.que.slots).foldl tryFinish s

/-- An entry of the pending-write table given up: writes and reads behind it go on, and what waited for it (R121, R166, R167,
R170). -/
def dropPend (s : State) (tag : Nat) : State :=
  let s := pump { s with eng := { s.eng with pend := s.eng.pend.filter (·.tag != tag) } }
  let due := s.que.msgDue
  finishAll (due.foldl signalOut { s with que := { s.que with msgDue := [] } })

/-- A posted write is lost or refused (R175, R641): recorded, and reported to its descriptor or to the next POSTED_FENCE
descriptor of its queue. A write of the chip itself, for no queue, is recorded alone. -/
def lostWrite (s : State) (p : Pend) (st sub : Nat) : State :=
  let s := if st = stRegionLost then ledger s 0x0C03 2 (if p.req.prv then none else some p.req.ten) [p.sa]
    else ledger s 0x0CFF 0 (if p.req.prv then none else some p.req.ten) [p.sa, st]
  match slotOf s p.seq with
  | some _ =>
    if st = stRegionLost then { s with que := { s.que with lost := s.que.lost ++ [(p.ctx, p.seq, st, sub, p.sa)] } }
    else modSlot s p.seq fun x => { x with err := x.err.or (some (st, sub)), unwrit := x.unwrit + maskCount p.req.mask 64 }
  | none => if p.ctx < 2 ^ 16 then { s with que := { s.que with lost := s.que.lost ++ [(p.ctx, p.seq, st, sub, p.sa)] } } else s

/-- The pending-write table is full and the descriptor has a write that waits for an entry: its engine stalls (R167). -/
def stalled (s : State) (sq : Nat) : Bool := decide (32768 ≤ pendSent s) && unissued s sq

/-- The descriptor's operator does not go on: a cut freezes it, so that every engine write is held at issue (R502), or its engine
stalls. -/
def heldBack (s : State) (sq : Nat) : Bool := s.red.freeze || stalled s sq

/-- The stop that a descriptor meets at a tile boundary: its outputs are left as they stand. -/
def atBoundary (s : State) (sq : Nat) (go : Slot → State) : State :=
  match slotOf s sq with
  | none => s
  | some sl =>
    if (sl.ph != .launched && sl.ph != .running) || heldBack s sq then s else
    match sl.stop with
    | some (st, sub) => finish s sq st sub 0
    | none => go sl

/-! ## Tallies and their waiters (R182) -/

/-- A waiter of tally `i` whose target is reached passes condition 4. -/
def tallyPass (s : State) (i : Nat) (sl : Slot) : Slot :=
  if sl.tallyWait && (hd sl.d DHDR.TALLY == i) && decide (hd sl.d DHDR.TARGET ≤ bget (tallyRec s i) TALLY.COUNT)
    then { sl with tallyOk := true } else sl

/-- Every descriptor that waits on tally `i`, parked ones and those that wait for a slot too, rechecked. -/
def tallyTouch (s : State) (i : Nat) : State :=
  { s with que := { s.que with slots := mmap s.que.slots fun _ sl => tallyPass s i sl
                               park := mmap s.que.park fun _ k => { k with slot := tallyPass s i k.slot }
                               retryWait := s.que.retryWait.map (tallyPass s i) } }

/-- A performed write counted by its tally, and the waiters rechecked. -/
def tallyAdd (s : State) (i n t : Nat) (prv : Bool) (src : Nat) : State :=
  if i = 0 then s else tallyTouch (tallyCount s i n t prv src) i

/-! ## The fault ring and parking (R66 to R76) -/

def fringSize (s : State) (t : Nat) : Nat := 2 ^ max 6 (getF s TEN_FRING_CTL.LOG2N t)

/-- Records written and not consumed. -/
def fringUsed (s : State) (t : Nat) : Nat := (getF s TEN_FRING_TAIL.INDEX t + 65536 - getF s TEN_FRING_HEAD.INDEX t) % 65536

/-- Parked descriptors of tenant `t` whose record is still held, in detection order. -/
def heldRecs (s : State) (t : Nat) : List (Nat × Parked) :=
  (s.que.park.filter fun e => e.2.held && qTen s e.2.slot.ctx == t).mergeSort fun a b => a.2.order ≤ b.2.order

/-- A batch closes: one message (R70). -/
def closeBatch (s : State) (t : Nat) : State :=
  if (mget s.xlt.batch t).isSome then
    msix { s with xlt := { s.xlt with batch := mdel s.xlt.batch t } } 0 (getF s TEN_FRING_CTL.VEC t)
  else s

/-- The record of park slot `p` written at the ring's tail (R69, R70). -/
def fringPut (s : State) (t p : Nat) (k : Parked) : State :=
  let tail := getF s TEN_FRING_TAIL.INDEX t
  let n := fringSize s t
  let r := bset k.rec_ FREC.PHASE (1 - tail / n % 2)
  let addr := adrF s TEN_FRING_BASE.ADDR t + 32 * (tail % n)
  let s := if tstF s TEN_FRING_BASE.LOC t then saWrite s (2 ^ 16) (2 ^ 64) true 0 addr (bytesOf r) else hostWrite s 0 addr (bytesOf r)
  let s := bump s 0x0202 1 { ten := some t }
  let s := setF s TEN_FRING_TAIL.INDEX t (tail + 1)
  let s := { s with que := { s.que with park := mput s.que.park p { k with held := false } } }
  let c := mgetD 0 s.xlt.batch t + 1
  let s := { s with xlt := { s.xlt with batch := mput s.xlt.batch t c } }
  if c ≥ 64 then closeBatch s t else s

/-- Fetching of queue `n` stops for cause `c`: a queue that runs becomes STOPPED, one in another state keeps the cause (R71,
R72). -/
def stopFor (s : State) (n : Nat) (c : StopCause) : State :=
  let cs := mgetD [] s.que.stopped n
  let s := { s with que := { s.que with stopped := mput s.que.stopped n (if cs.contains c then cs else cs ++ [c]) } }
  if cq s n QCTX.STATE = qRunning then setQ s n QCTX.STATE qStopped else s

/-- Every queue of tenant `t` stops fetching (R71). -/
def stopTenant (s : State) (t : Nat) : State :=
  s.que.ctx.foldl (fun s e => if !qPrv s e.1 && qTen s e.1 == t then stopFor s e.1 .fring else s) s

/-- Cause `c` for which queue `n` is stopped has ended: the queue runs again once none is left. -/
def unstop (s : State) (n : Nat) (c : StopCause) : State :=
  let cs := (mgetD [] s.que.stopped n).filter (· != c)
  let s := { s with que := { s.que with stopped := mputD [] s.que.stopped n cs } }
  if cs.isEmpty && cq s n QCTX.STATE == qStopped then setQ s n QCTX.STATE qRunning else s

/-- Held records of tenant `t` written while the ring has room; once none is held its queues fetch again. -/
def fringDrain (s : State) (t : Nat) : State :=
  let s := (heldRecs s t).foldl (fun s e =>
    if tstF s TEN_FRING_CTL.EN t && decide (fringUsed s t < fringSize s t) then fringPut s t e.1 e.2 else s) s
  if (heldRecs s t).isEmpty && tstF s TEN_FRING_CTL.EN t then s.que.stopped.foldl (fun s e =>
    if e.2.contains .fring && qTen s e.1 == t then unstop s e.1 .fring else s) s
  else s

/-- Park slots of tenant `t` in use. -/
def parkedOf (s : State) (t : Nat) : Nat := (s.que.park.filter fun e => qTen s e.2.slot.ctx == t).length

/-- A park slot is free to tenant `t` (R72). -/
def parkFree (s : State) (t : Nat) : Bool :=
  decide (s.que.park.length < 2048) && (!partitioned s || decide (parkedOf s t < min 2048 (getF s TEN_PARKQ.LIMIT t)))

/-- A free park slot, whichever. -/
def parkPlace (s : State) : Nat :=
  let c := Config.pick s.fresh % 2048
  if (mget s.que.park c).isSome then (firstFree 2048 fun i => (mget s.que.park i).isSome).getD 0 else c

/-- A descriptor faults at translation (R61, R71): it is parked with its record, or, where parking is exhausted, it
stays untranslated at the head of its queue. -/
def parkFault (s : State) (sl : Slot) (kind level va opnd acc : Nat) : State :=
  let n := sl.ctx
  let t := qTen s n
  if !parkFree s t then
    let s := setF s TEN_FSTAT.PFULL t 1
    let s := modSlot s sl.seq fun x => { x with ph := .untranslated, ops := [], rgns := [] }
    stopFor s n .park
  else
    let p := parkPlace s
    let g := mgetD 0 s.que.parkGen p
    let r : BitVec 256 := bset (bset (bset (bset (bset (bset (bset (bset (bset (bset 0 FREC.FTIME s.tim.now.toNat) FREC.VA va)
      FREC.TAG (hd sl.d DHDR.TAG)) FREC.GEN g) FREC.SLOT p) FREC.QUEUE (cq s n QCTX.QNUM)) FREC.OPND opnd) FREC.LEVEL level)
      FREC.KIND kind) FREC.RINGIDX sl.idx
    let r := bset (bset (bset (bset r FREC.ACC_R (acc % 2)) FREC.ACC_W (acc / 2 % 2)) FREC.ACC_A (acc / 4 % 2)) FREC.TENANT t
    let full := tstF s TEN_FRING_CTL.EN t && decide (fringSize s t ≤ fringUsed s t + (heldRecs s t).length)
    let s := dropSlot s sl
    let s := { s with fresh := s.fresh + 1, que := { s.que with
      park := mput s.que.park p
        { slot := { sl with ph := .untranslated, epoch := none, ops := [], rgns := [], leases := [] }
          kind := kind, rec_ := r, held := true, order := s.que.parkOrder }
      parkOrder := s.que.parkOrder + 1 } }
    let s := if full then setF s TEN_FSTAT.OVF t 1 else s
    if full || !tstF s TEN_FRING_CTL.EN t then stopTenant s t else s

end Sys2Proof.Machine
end

