-- ==== Sys2Proof/Machine/Doorbell.lean ====
section
/-! DEFINITION. Doorbell.lean: the doorbell writes of Table QUE-2 (R97, R98, R117, R118). -/
namespace Sys2Proof.Machine

/-- Where a doorbell is rung: a privileged doorbell names its context, a tenant doorbell its queue. -/
structure Bell where
  prv : Bool
  ten : Nat
  q   : Nat
  deriving DecidableEq, Repr

/-- The enabled context that a doorbell reaches (R98, R515). -/
def bellCtx (s : State) (b : Bell) : Option Nat :=
  if b.prv then
    if b.q < 4096 && cq s b.q QCTX.EN == 1 && qPrv s b.q then some b.q else none
  else if tstF s TEN_SECCTL.EN b.ten then ctxFor s b.ten b.q else none

/-- The record of a doorbell that is ignored or refused. -/
def bellRefused (s : State) (b : Bell) (ctx : Option Nat) (v : Nat) : State :=
  ledger s 0x0201 0 (if b.prv then none else some b.ten) [ctx.getD b.q, v]

/-- A write of a wrong size or alignment to a doorbell page (R97): the record names the page and the offset in it. -/
def misBell (s : State) (prv : Bool) (page off : Nat) : State :=
  ledger s 0x0201 0 (if prv then none else some page) [page, off]

/-- An accepted doorbell value is counted. -/
def bellCount (s : State) (n : Nat) : State :=
  bump s 0x0101 1 { prv := if qPrv s n then 1 else 0, ten := qOwner s n, mst := some (4, qFn s n) }

/-- SQ_TAIL (R97): accepted when the new tail lies no further ahead than the ring has room for. -/
def ringSqTail (s : State) (b : Bell) (v : Nat) : State :=
  match bellCtx s b with
  | none => bellRefused s b none v
  | some n =>
    let tail := cq s n QCTX.SQTAIL
    let used := (tail + 65536 - cq s n QCTX.SQHEAD) % 65536
    if (v % 65536 + 65536 - tail) % 65536 ≤ ringSize s n - used then bellCount (setQ s n QCTX.SQTAIL v) n
    else bellRefused (setQ s n QCTX.BADDB 1) b (some n) v

/-- CQ_HEAD (R97): accepted when it lies between the old CQHEAD and CQTAIL. -/
def ringCqHead (s : State) (b : Bell) (v : Nat) : State :=
  match bellCtx s b with
  | none => bellRefused s b none v
  | some n =>
    let head := cq s n QCTX.CQHEAD
    if (v % 65536 + 65536 - head) % 65536 ≤ (cq s n QCTX.CQTAIL + 65536 - head) % 65536 then
      bellCount (setQ s n QCTX.CQHEAD v) n
    else bellRefused (setQ s n QCTX.BADDB 1) b (some n) v

/-- CMD RESUME (R117): a queue whose fetching is stopped for another cause becomes STOPPED (R71). -/
def ringResume (s : State) (b : Bell) : State :=
  match bellCtx s b with
  | none => bellRefused s b none 1
  | some n =>
    if cq s n QCTX.STATE = qHalted then
      setQ s n QCTX.STATE (if (mgetD [] s.que.stopped n).isEmpty then qRunning else qStopped)
    else s

/-- Cancels the fetched and uncompleted descriptors of queue `n` that satisfy `p` (R118, R119): those not launched
complete at once, running ones stop at their next tile boundary. A PUBLISH whose message still waits for a port is one that its
home has not seen. -/
def cancelQueue (s : State) (n : Nat) (p : Slot → Bool) : State :=
  let pubs := (mvals s.que.slots).filter fun sl => sl.ctx = n && p sl && s.txq.any (pubQueued s sl)
  let s := pubs.foldl (fun s sl => pubTakeBack s sl stCancelled 2) s
  let run := (mvals s.que.slots).filter fun sl => sl.ctx = n && !unlaunched sl && p sl && sl.ph != .finishing && !unstoppable sl
  let s := run.foldl (fun s sl => stopRunning s sl.seq stCancelled 2) s
  cancelUnlaunched s n 0 p

/-- CMD CANCEL_ALL and CANCEL_TAG. -/
def ringCancel (s : State) (b : Bell) (tag : Option Nat) : State :=
  match bellCtx s b with
  | none => bellRefused s b none (if tag.isSome then 3 else 2)
  | some n =>
    match tag with
    | none => cancelQueue s n fun _ => true
    | some t =>
      let s := { s with que := { s.que with slots := mmap s.que.slots fun _ sl =>
        if sl.ctx = n ∧ sl.ph = .fetching ∧ sl.stop = none then { sl with ctag := t :: sl.ctag } else sl } }
      cancelQueue s n fun sl => sl.ph != .fetching && hd sl.d DHDR.TAG == t

/-- A CMD value: bits [3:0] the command, bits [63:32] the TAG. -/
def ringCmd (s : State) (b : Bell) (v : W64) : State :=
  match bget v ⟨0, 4⟩ with
  | 1 => ringResume s b
  | 2 => ringCancel s b none
  | 3 => ringCancel s b (some (bget v ⟨32, 32⟩))
  | _ => s

/-- An aligned 64-byte doorbell write: CQ_HEAD, SQ_TAIL and CMD, in that order. -/
def ringWide (s : State) (b : Bell) (d : Line) : State :=
  let s := ringCqHead s b (bget d ⟨64, 16⟩)
  let s := ringSqTail s b (bget d ⟨0, 16⟩)
  ringCmd s b (d.extractLsb' 128 64)

/-- An aligned 8-byte write at a doorbell page, at `off` within the queue's 64 bytes. -/
def ringWord (s : State) (b : Bell) (off : Nat) (v : W64) : State :=
  match off with
  | 0x00 => ringSqTail s b (bget v ⟨0, 16⟩)
  | 0x08 => ringCqHead s b (bget v ⟨0, 16⟩)
  | 0x10 => ringCmd s b v
  | _ => s

end Sys2Proof.Machine
end

