-- ==== Sys2Proof/Machine/HomeOps.lean ====
section
/-! DEFINITION. HomeOps.lean: the home of a line (chapter "The home and coherence"): messages, the directory, the start
of a request, and what follows once its snoops and its memory access are done (Tables COH-7 and COH-7a). -/
namespace Sys2Proof.Machine

/-! ## Messages -/

/-- Opcodes of Table COH-3 that the home sends or receives. -/
def opRdShared : Nat := 0x01
def opRdOwn : Nat := 0x02
def opRdCur : Nat := 0x03
def opWrFull : Nat := 0x04
def opWb : Nat := 0x10
def opEvict : Nat := 0x11
def opSnpInv : Nat := 0x20
def opSnpShare : Nat := 0x21
def opSnpCur : Nat := 0x22
def opRspI : Nat := 0x30
def opRspS : Nat := 0x31
def opRspFwd : Nat := 0x32
def opRspGone : Nat := 0x33
def opRspData : Nat := 0x34
def opDataS : Nat := 0x40
def opDataE : Nat := 0x41
def opDataX : Nat := 0x42
def opDataCur : Nat := 0x43
def opCmp : Nat := 0x50
def opCmpOwn : Nat := 0x51
def opWbAck : Nat := 0x52
def opCmpAck : Nat := 0x53
def opErr : Nat := 0x5F

/-- ERR codes (Table COH-4). -/
def erAccess : Nat := 1
def erTimeout : Nat := 2
def erLost : Nat := 3
def erUncorr : Nat := 4

/-- Virtual channel of an opcode (Table COH-3). -/
def vcOf (opc : Nat) : VC :=
  if opc < 0x10 then .req else if opc < 0x20 then .dat else if opc < 0x30 then .snp
  else if opc < 0x34 then .rsp else if opc < 0x50 then .dat else .rsp

/-- Requester ID and TID of a request; zero for the chip's own requests. -/
def reqAgent (q : HomeReq) : Nat := match q.who with | .agent a _ => a | _ => 0
def reqTid (q : HomeReq) : Nat := match q.who with | .agent _ t => t | _ => 0

/-- The header of a message of a transaction (Table COH-2); `fs` sets further fields. -/
def cohHdr (opc htx : Nat) (q : HomeReq) (fs : List (BF × Nat)) : BitVec 128 :=
  let h : BitVec 128 := bset (bset (bset (bset (bset (bset 0 COHH.OPC opc) COHH.TENANT q.ten) COHH.AGENT (reqAgent q))
    COHH.TID (reqTid q)) COHH.HTX htx) COHH.LINE (saLine q.sa)
  fs.foldl (fun h f => bset h f.1 f.2) h

/-- A message from this home to agent `a`. -/
def toAgent (s : State) (a opc htx : Nat) (q : HomeReq) (fs : List (BF × Nat)) (data : List Byte := []) : State :=
  send s { vc := vcOf opc, dst := a / 8, dep := a % 8, src := own s, sep := 8, hdr := cohHdr opc htx q fs, data := data }

/-- ERR to the requester of `q`. -/
def errTo (s : State) (q : HomeReq) (htx code : Nat) : State :=
  match q.who with
  | .agent a _ => toAgent s a opErr htx q [(COHH.CODE, code)]
  | _ => s

/-! ## The answers of the home -/

/-- An exchange in service changed by `f`. -/
def modExch (s : State) (n : Nat) (f : Exch → Exch) : State := { s with emb := { s.emb with xin := mmod s.emb.xin n f } }

/-- A line has been read for `q` outside a transaction with an agent: the data reach the descriptor, the other chip's
engine, or the memory-sourced class that asked. -/
def remGot (s : State) (chip tag sa : Nat) (d : Line) (poison : Bool) : State :=
  { s with home := { s.home with rem := s.home.rem.map fun (r : RemOp) =>
      if r.chip = chip ∧ r.tag = tag then { r with got := mput r.got (sa / 64) (d, poison), owed := r.owed - 1 } else r } }

/-- The answer to another chip's engine once none of its lines is awaited: ENG_RDATA, ENG_ACK or ENG_ERR. -/
def remDone (s : State) (chip tag : Nat) : State :=
  match s.home.rem.find? fun (r : RemOp) => r.chip = chip && r.tag = tag with
  | none => s
  | some r =>
    if r.owed ≠ 0 ∨ (r.bad.isNone ∧ r.hold ≠ []) then s else
    let s := { s with home := { s.home with rem := s.home.rem.filter fun (x : RemOp) => !(x.chip = chip && x.tag = tag) } }
    if chip = own s then
      -- a posted write of this chip, performed here by its recovery (R175)
      dropPend (match r.bad, s.eng.pend.find? fun p => p.tag == tag with
        | some st, some p => lostWrite s p st (if st = stRegionLost then 0x0040 else if st = stAccess then 0x0017 else 0)
        | _, _ => s) tag
    else match r.bad with
    | some st => send s (engMsg s 6 chip r.ten tag st 0 r.prv r.sa [])
    | none =>
      if r.read then
        let poison := r.got.any fun e => e.2.2
        let bs := ((cutLines r.sa r.len).map fun (l, o, k, _) =>
          sliceBytes (((mget r.got (l / 64)).map (·.1)).getD 0) o k).flatten
        send s { engMsg s 2 chip r.ten tag 0 r.len r.prv r.sa bs with poison := poison }
      else send s (engMsg s 4 chip r.ten tag 0 0 r.prv r.sa [])

/-- A line read for a party other than an agent. -/
def gotLine (s : State) (q : HomeReq) (d : Line) (poison : Bool) : State :=
  match q.who with
  | .slot sq => modSlot s sq fun sl =>
      { sl with rdata := mput sl.rdata (saLine q.sa) (d, poison), asked := sl.asked.filter (· != saLine q.sa),
                err := if poison && sl.err.isNone then some (stPoison, 0) else sl.err }
  | .remote c t => remDone (remGot s c t q.sa d poison) c t
  | .exch n => modExch s n fun x => { x with
      rdata := mput x.rdata (saLine q.sa) (d, poison), asked := x.asked.filter (· != saLine q.sa), poison := x.poison || poison }
  | _ => s

/-- A write is performed: its tally counts (R179), and its writer is told. Agents are told by their transaction. -/
def performed (s : State) (q : HomeReq) : State :=
  match q.who with
  | .slot sq =>
    let s := tallyAdd s q.tally (maskCount q.mask 64) q.ten q.prv (own s)
    tryFinish (modSlot s sq fun sl => { sl with owed := sl.owed - 1 }) sq
  | .remote c t =>
    let s := { s with home := { s.home with rem := s.home.rem.map fun (r : RemOp) =>
      if r.chip = c ∧ r.tag = t then { r with owed := r.owed - 1 } else r } }
    match s.home.rem.find? fun (r : RemOp) => r.chip = c && r.tag = t with
    | some r =>
      if r.owed = 0 ∧ r.bad.isNone ∧ r.hold = [] then remDone (tallyAdd s q.tally r.len q.ten q.prv c) c t
      else remDone s c t
    | none => s
  | .agent a _ => if q.kind = .wb then toAgent s a opWbAck 0 q [] else s
  | .exch n => modExch s n fun x => { x with owed := x.owed - 1 }
  | .memClass => s

/-- A read or a write ends with a status (R56, R150, R491, R641). -/
def failed (s : State) (q : HomeReq) (st sub : Nat) : State :=
  match q.who with
  | .slot sq =>
    let s := modSlot s sq fun sl => { sl with
      asked := sl.asked.filter (· != saLine q.sa),
      rdata := if q.kind = .engRd then mput sl.rdata (saLine q.sa) (0, false) else sl.rdata,
      owed := if q.kind = .engWr then sl.owed - 1 else sl.owed,
      unwrit := if q.kind = .engWr then sl.unwrit + maskCount q.mask 64 else sl.unwrit,
      err := match sl.err with | none => some (st, sub) | some e => if e.1 = stPoison then some (st, sub) else some e }
    tryFinish s sq
  | .remote c t =>
    let s := { s with home := { s.home with rem := s.home.rem.map fun (r : RemOp) =>
      if r.chip = c ∧ r.tag = t then { r with owed := r.owed - 1, bad := r.bad.or (some st) } else r } }
    remDone s c t
  | .agent a _ =>
    if q.kind = .wb then toAgent s a opErr 0 q [(COHH.CODE, if st = stRegionLost then erLost else erAccess)] else s
  | .exch n => modExch s n fun x => { x with
      asked := x.asked.filter (· != saLine q.sa)
      rdata := if q.kind = .engRd then mput x.rdata (saLine q.sa) (0, false) else x.rdata
      owed := if q.kind = .engWr then x.owed - 1 else x.owed
      err := x.err.or (some (st, sub)) }
  | .memClass => s

/-! ## The directory -/

def dirEntry (s : State) (sa : Nat) : Option DirEntry := mget s.home.dir (saLine sa)

def setDir (s : State) (sa : Nat) (e : DirEntry) : State :=
  { s with home := { s.home with dir := mput s.home.dir (saLine sa) e } }

def delDir (s : State) (sa : Nat) : State := { s with home := { s.home with dir := mdel s.home.dir (saLine sa) } }

/-- The set of a line (R139). -/
def dirSet (sa : Nat) : Nat := (sa / 2 ^ 6 % 2 ^ 18) ^^^ (sa / 2 ^ 24 % 2 ^ 18) ^^^ (sa / 2 ^ 42 % 2 ^ 18)

/-- Ways of a set that the entries of tenant `t` may take (R139, Table SEC-1). -/
def dirWays (s : State) (t : Nat) : Nat := if partitioned s then maskCount (regGet s .TEN_DIRQ t) 16 else 16

/-- Entries of a set that lie in the tenant's ways. -/
def setEntries (s : State) (sa t : Nat) : List (Nat × DirEntry) :=
  s.home.dir.filter fun e => dirSet (e.1 * 64) == dirSet sa &&
    (!partitioned s || bget (recOf s (e.1 * 64)) EXT.OWNER == t)

/-- The agent is in group `g` of a vector. -/
def inGroups (g : BitVec 64) (a : Nat) : Bool := g.getLsbD (a / 128 % 64)

/-- Live caching agents of the groups marked. -/
def liveIn (s : State) (g : BitVec 64) : List Nat := s.home.caching.filter fun a => inGroups g a && !s.home.dead.contains a

/-- The holders that a sharer record names. -/
def holders (s : State) : Sharers → List Nat
  | .precise l => l.filter fun a => !s.home.dead.contains a
  | .coarse g => liveIn s g

/-- `a` added to a sharer record: a fifth sharer makes it coarse (R139). -/
def addSharer (r : Sharers) (a : Nat) : Sharers :=
  match r with
  | .precise l =>
    let l' := insRising l a
    if l'.length ≤ 4 then .precise l' else .coarse (l'.foldl (fun g x => maskSet g (x / 128 % 64)) 0)
  | .coarse g => .coarse (maskSet g (a / 128 % 64))

/-- `a` removed from a precise record. -/
def dropSharer (r : Sharers) (a : Nat) : Sharers :=
  match r with
  | .precise l => .precise (l.filter (· != a))
  | .coarse g => .coarse g

def noSharer : Sharers → Bool
  | .precise l => l.isEmpty
  | .coarse _ => false

/-- The extent's owner's caching groups (R127). -/
def ownerGroups (s : State) (sa : Nat) : BitVec 64 := regGet s .TEN_CAGRP (bget (recOf s sa) EXT.OWNER)

/-- The line lies in a COHERENT extent. -/
def coherent (s : State) (sa : Nat) : Bool := saTier sa ≤ 1 && !btst (recOf s sa) EXT.ATTR

/-- The stable state of a line and its sharer record: its entry, or DIRSUM (R137). -/
def lineState (s : State) (sa : Nat) : DirSt × Sharers :=
  match dirEntry s sa with
  | some e => (e.st, e.shr)
  | none => (if coherent s sa && lineSlost s ((localSa s sa).getD sa) then .slost else .inv, .precise [])

/-! ## Hops and the source rule (R145) -/

/-- Peer hops from chip `a` to chip `c`. -/
def peerHops (s : State) (a c : Nat) : Nat :=
  if a = c then 0 else if a = own s then getF s LNK_RT.HOPS c else mgetD 15 s.home.hops (a * 1024 + c)

/-- Hops between two agents. -/
def agentHops (s : State) (a b : Nat) : Nat := if a / 8 = b / 8 then 2 else peerHops s (a / 8) (b / 8) + 2

/-- The holder that forwards, if the source rule holds: strictly nearer than the home, fewest hops, lowest ID. -/
def sourceOf (s : State) (r : Nat) (hs : List Nat) (precise : Bool) : Option Nat :=
  if tstF s HOME_DIRCFG.NOFWD || !precise then none else
  let mine := peerHops s (own s) (r / 8) + 1
  (hs.filter fun a => decide (agentHops s r a < mine)).foldl (fun best a => match best with
    | none => some a
    | some b => if agentHops s r a < agentHops s r b then some a else some b) none

/-! ## The transaction table -/

def setTxn (s : State) (h : Nat) (t : Txn) : State := { s with home := { s.home with htx := mput s.home.htx h t } }

/-- Open transaction on a line. -/
def txnOn (s : State) (sa : Nat) : Option (Nat × Txn) := s.home.htx.find? fun e => saLine e.2.req.sa == saLine sa

/-- An index free to tenant `t` (16,384, or 1,024 for each way in partitioned mode). -/
def freeHtx (s : State) (t : Nat) (prv : Bool) : Option Nat :=
  let room := !partitioned s || prv ||
    decide ((s.home.htx.filter fun e => e.2.req.ten == t && !e.2.req.prv).length < 1024 * dirWays s t)
  let used (h : Nat) : Bool := (mget s.home.htx h).isSome || s.home.quarantine.any fun e => e.1 == h && decide (s.tim.now.toNat < e.2)
  let c := Config.pick s.fresh % 16384
  if !room then none else if used c then firstFree 16384 used else some c

/-- The transaction ends: its index is free, and its entry is unpegged, or freed where the line keeps none (R140). -/
def endTxn (s : State) (h : Nat) (t : Txn) (st : DirSt) (shr : Sharers) : State :=
  let s := { s with home := { s.home with htx := mdel s.home.htx h, clock := s.home.clock + 1 } }
  match dirEntry s t.req.sa with
  | none => s
  | some e =>
    match st with
    | .inv | .slost => delDir s t.req.sa
    | _ => setDir s t.req.sa { e with st := st, shr := shr, peg := false, age := s.home.clock }

/-- The arrival-to-answer latency of an edge request is counted (COH_REQ). -/
def countReq (s : State) (t : Txn) : State :=
  match t.req.who with
  | .agent a _ => bump s 0x0301 1 { ten := some t.req.ten, sa := some t.req.sa, cls := some 6, mst := some (3, a % 8),
                                     lat := some ((s.tim.now - t.t0).toNat * 10 / 1024) }
  | _ => s

/-- A message sent to each snooped agent, dead ones skipped (R156); the transaction waits for all of them. With nobody to snoop it goes on. -/
def snoop (s : State) (h : Nat) (t : Txn) (opc : Nat) (ags : List Nat) (fwd : Option Nat) (wbreq : Bool) : State × Txn :=
  let ags := ags.filter fun a => !s.home.dead.contains a
  let t := { t with tr := .snp, snp := opc, snooped := ags, owed := ags, fwd := fwd }
  let s := ags.foldl (fun s a =>
    bump (toAgent s a opc h t.req [(COHH.FWD, if fwd = some a then 1 else 0), (COHH.WBREQ, if wbreq then 1 else 0)])
      0x0303 1 { ten := some t.req.ten, sa := some t.req.sa }) s
  let s := if fwd.isSome then bump s 0x0304 1 { ten := some t.req.ten, sa := some t.req.sa } else s
  (setTxn s h t, t)

/-! ## What a transaction grants -/

/-- The grant or the answer of a read, with its data; CMP_ACK follows a grant (R134, R143). -/
def grantRead (s : State) (h : Nat) (t : Txn) (d : Line) (poison : Bool) : State :=
  let q := t.req
  let r := reqAgent q
  let pf := [(COHH.POISON, if poison then 1 else 0)]
  let bs := bytesOf d
  match q.kind with
  | .rdCur =>
    let s := toAgent s r opDataCur h q pf bs
    endTxn (countReq s t) h t t.goal t.shr
  | .rdShared | .rdOwn =>
    let opc := match t.goal with | .owned _ => opDataE | _ => opDataS
    let s := toAgent s r opc h q pf bs
    let t := { t with tr := .ack }
    let s := match dirEntry s q.sa with
      | some e => setDir s q.sa { e with st := t.goal, shr := t.shr }
      | none => s
    setTxn (countReq s t) h t
  | _ => endTxn (gotLine s q d poison) h t t.goal t.shr

/-- A request that memory cannot serve: ERR, or the descriptor's status. -/
def failTxn (s : State) (h : Nat) (t : Txn) (st sub : Nat) : State :=
  let code := if st = stTierUncorr then erUncorr else if st = stRegionLost then erLost else erAccess
  let s := failed s t.req st sub
  let s := if t.req.kind = .wb then s else errTo s t.req h code
  let rest := dropSharer t.shr (reqAgent t.req)
  match t.req.kind, t.goal with
  | .rdShared, .shared => endTxn s h t (if noSharer rest then .inv else .shared) rest
  | .rdShared, .slost => endTxn s h t .slost t.shr
  | .rdCur, g | .engRd, g => endTxn s h t g t.shr
  | _, _ => endTxn s h t .inv (.precise [])

/-- A write has reached memory and, where there is one, the secondary: CMP or the writer's notice, and the end. -/
def writeDone (s : State) (h : Nat) (t : Txn) : State :=
  let s := performed s t.req
  let s := match t.req.who, t.req.kind with
    | .agent a _, .wrFull => toAgent s a opCmp h t.req []
    | _, _ => s
  endTxn (countReq s t) h t .inv (.precise [])

/-- The write of a transaction lands in memory; a MIRROR2 line then waits for its secondary. -/
def landTxn (s : State) (h : Nat) (t : Txn) : State :=
  let (r, s) := lineWrite s t.req ((localSa s t.req.sa).getD t.req.sa)
  match r with
  | .done =>
    if (mirrorOf s t.req.sa).isSome then setTxn (sendMirror s t.req (some h)) h { t with tr := .mirror }
    else writeDone s h t
  | .waits => setTxn s h { t with tr := .stage }
  | .bad st sub => failTxn s h t st sub

/-- The line's pseudo-channel has failed and a secondary holds the line (Table FLT-5). -/
def needsSecondary (s : State) (sa : Nat) : Bool :=
  saTier sa = 0 && saChip sa = own s && s.store.failedPc.contains (pcOf s (saOff sa)) && bget (recOf s sa) EXT.RCLASS = 1

/-- The memory access of a transaction whose snoops are done: an agent's near-tier access is issued and returns later
(NEAR_READ_RETURN, NEAR_WRITE_DONE); an engine's is made at once; a far-tier line may first have to be staged. -/
def access (s : State) (h : Nat) (t : Txn) : State :=
  let q := t.req
  let sa := (localSa s q.sa).getD q.sa
  let byAgent := match q.who with | .agent _ _ => true | _ => false
  match q.kind with
  | .wrFull | .wb | .engWr =>
    if saTier sa = 0 && byAgent then setTxn s h { t with tr := .memWr } else landTxn s h t
  | .recall => endTxn s h t .inv (.precise [])
  | _ =>
    if saTier sa = 0 && (byAgent || needsSecondary s sa) then setTxn s h { t with tr := .memRd }
    else
      let (r, s) := lineRead s { q with sa := q.sa } sa
      match r with
      | .got d p => grantRead s h t d p
      | .waits => setTxn s h { t with tr := .stage }
      | .bad st sub => failTxn s h t st sub

/-- A write that holds no transaction has landed: its writer is told once the secondary, where there is one, accepts (R41). -/
def landed (s : State) (q : HomeReq) : State := if (mirrorOf s q.sa).isSome then sendMirror s q none else performed s q

/-- The snoop data or the WB data is written to memory: DIRSUM UNCACHED, POISON as it came (R143). -/
def writeBack (s : State) (sa : Nat) (d : Line) (poison : Bool) : State :=
  let q : HomeReq := { kind := .wb, who := .memClass, ten := 0, prv := true, sa := sa, data := d, mask := fullMask, poison := poison }
  match lineWrite s q ((localSa s sa).getD sa) with
  | (.done, s) => sendMirror s q none
  | (_, s) => s

/-- The atomic-line-cache copy of a line written to memory. -/
def spillAtomic (s : State) (sa : Nat) : State :=
  match mget s.home.alc (saLine sa) with
  | none => s
  | some d => writeBack { s with home := { s.home with alc := mdel s.home.alc (saLine sa) } } sa d false

/-- Room for a line in the atomic line cache of 2,048 sets of 16 ways (R149): a full set gives one of its lines back to memory.
Which lines share a set, and which gives way, the spec leaves open (log entry 117). -/
def alcRoom (s : State) (sa : Nat) : State :=
  let set_ := (mkeys s.home.alc).filter fun l => l % 2048 == saLine sa % 2048
  if set_.length < 16 then s
  else
    let l := set_.getD (Config.pick s.fresh % set_.length) 0
    delDir (spillAtomic { s with fresh := s.fresh + 1 } (l * 64)) (l * 64)

/-- The end of the snoops of a transaction (Table COH-7 and the paragraph before it). -/
def afterSnoops (s : State) (h : Nat) (t : Txn) : State :=
  let q := t.req
  let r := reqAgent q
  let sa := (localSa s q.sa).getD q.sa
  let s := if t.origin = .slost then setSlost s sa false else s
  if t.unknown then
    let t := { t with unknown := false, origin := .inv, got := none, kept := [], snooped := [] }
    access s h { t with goal := match q.kind with | .rdShared | .rdOwn => .owned r | _ => .inv }
  else
  let remains := match t.origin with
    | .owned a => if t.kept.contains a then .precise [a] else .precise []
    | _ => match t.shr with
      | .precise l => .precise (l.filter fun a => !t.snooped.contains a || t.kept.contains a)
      | .coarse g => .coarse g
  match q.kind with
  | .rdShared =>
    if t.fwdDone then
      let s := match dirEntry s q.sa with
        | some e => setDir s q.sa { e with st := .shared, shr := addSharer remains r }
        | none => s
      setTxn (countReq s t) h { t with tr := .ack, goal := .shared, shr := addSharer remains r }
    else match t.got with
      | some (d, p) => grantRead s h { t with goal := .shared, shr := addSharer remains r } d p
      | none =>
        if noSharer remains then access s h { t with goal := .owned r, shr := .precise [] }
        else access s h { t with goal := .shared, shr := addSharer remains r }
  | .rdCur | .engRd =>
    let goal := if noSharer remains then .inv else t.origin
    if t.fwdDone then endTxn (countReq s t) h t goal remains
    else match t.got with
      | some (d, p) => grantRead s h { t with goal := goal, shr := remains } d p
      | none => access s h { t with goal := goal, shr := remains }
  | .rdOwn =>
    let t := { t with goal := .owned r, shr := .precise [] }
    let cmpOwn (s : State) (u : Nat) : State :=
      let s := toAgent s r opCmpOwn h q [(COHH.UPG, u)]
      let s := match dirEntry s q.sa with
        | some e => setDir s q.sa { e with st := .owned r, shr := .precise [] }
        | none => s
      setTxn (countReq s t) h { t with tr := .ack }
    if t.noData then cmpOwn s 1
    else if t.fwdDone then cmpOwn s 0
    else match t.got with
      | some (d, p) => grantRead s h t d p
      | none => access s h t
  | .wrFull | .wb | .engWr | .recall => access s h { t with goal := .inv, shr := .precise [] }
  | .atomic =>
    let (d, _) := match t.got with
      | some x => x
      | none => match (lineRead s q sa).1 with | .got d p => (d, p) | _ => (0, false)
    let s := alcRoom s q.sa
    let s := { s with home := { s.home with alc := mput s.home.alc (saLine q.sa) d } }
    endTxn s h t .atomicH (.precise [])

/-- Once every awaited answer has come the transaction goes on. -/
def whenAnswered (s : State) (h : Nat) (t : Txn) : State :=
  if t.owed.isEmpty && t.wbOf.isNone then afterSnoops s h t else setTxn s h t

/-- WBREQ of the snoops for a write or a recall of a shared or S_LOST line: a partial write needs the line's bytes, a recall
asks for them (R148, Table TIR-7). -/
def wantsBack (q : HomeReq) : Bool :=
  match q.kind with
  | .engWr => q.mask != fullMask
  | .recall => true
  | _ => false

/-- The first action of a transaction: Table COH-7 by the state of the line. -/
def begin_ (s : State) (h : Nat) (t : Txn) : State :=
  let q := t.req
  let r := reqAgent q
  let go (s : State) (opc : Nat) (ags : List Nat) (fwd : Option Nat) (wb : Bool) (t : Txn) : State :=
    let (s, t) := snoop s h t opc ags fwd wb
    whenAnswered s h t
  let ownGoal : DirSt := match q.kind with | .rdShared | .rdOwn => .owned r | _ => .inv
  match t.origin with
  | .inv | .atomicH => access s h { t with goal := ownGoal }
  | .slost =>
    if saChip q.sa ≠ own s then
      go s opSnpInv (liveIn s (ownerGroups s q.sa)) none true { t with unknown := true }
    else match q.kind with
      | .rdShared | .rdCur | .engRd => access s h { t with goal := .slost }
      | .rdOwn => go s opSnpInv ((liveIn s (ownerGroups s q.sa)).filter (· != r)) none false t
      | _ => go s opSnpInv (liveIn s (ownerGroups s q.sa)) none (wantsBack q) t
  | .shared =>
    let hs := holders s t.shr
    let prec := match t.shr with | .precise _ => true | .coarse _ => false
    match q.kind with
    | .rdShared =>
      match sourceOf s r (hs.filter (· != r)) prec with
      | some f => go s opSnpShare [f] (some f) false t
      | none => access s h { t with goal := .shared, shr := addSharer t.shr r }
    | .rdCur =>
      match sourceOf s r hs prec with
      | some f => go s opSnpCur [f] (some f) false t
      | none => access s h { t with goal := .shared }
    | .engRd => access s h { t with goal := .shared }
    | .rdOwn =>
      let others := hs.filter (· != r)
      let up := q.upg && prec && hs.contains r
      go s opSnpInv others (if up then none else sourceOf s r others prec) false { t with noData := up }
    | _ => go s opSnpInv hs none (wantsBack q) t
  | .owned a =>
    match q.kind with
    | .rdShared => go s opSnpShare [a] (sourceOf s r [a] true) false t
    | .rdCur => go s opSnpCur [a] (sourceOf s r [a] true) false t
    | .engRd => go s opSnpCur [a] none false t
    | .rdOwn => let f := sourceOf s r [a] true; go s opSnpInv [a] f f.isNone t
    | .wrFull => go s opSnpInv [a] none false t
    | .engWr => go s opSnpInv [a] none (q.mask != fullMask || (match q.who with | .memClass => true | _ => false)) t
    | _ => go s opSnpInv [a] none true t

/-! ## The start of a request -/

/-- What a set can give a line that has no entry (R141). -/
inductive Way where
  | free
  | victim (line : Nat) (e : DirEntry)
  | none
  deriving DecidableEq, Repr

/-- The way that a line without an entry takes: a free one, else an S entry, an H entry, an O entry, by LRU age, never a
pegged one. -/
def wayFor (s : State) (sa : Nat) : Way :=
  let t := bget (recOf s sa) EXT.OWNER
  let es := setEntries s sa t
  if es.length < dirWays s t then .free
  else
    let cls (e : DirEntry) : Nat := match e.st with | .shared => 0 | .atomicH => 1 | _ => 2
    let best := (es.filter fun e => !e.2.peg).foldl (fun b e => match b with
      | Option.none => some e
      | some x => if cls e.2 * 2 ^ 64 + e.2.age < cls x.2 * 2 ^ 64 + x.2.age then some e else some x) (Option.none : Option (Nat × DirEntry))
    match best with
    | Option.none => .none
    | some (l, e) => .victim l e

/-- A request joins the retry queue; a full queue withholds REQ credit (R142). -/
def enqueue (s : State) (q : HomeReq) (t0 : W64) (made : Bool) : State :=
  let s := bump s 0x0305 1 { ten := some q.ten, sa := some q.sa }
  let s := { s with home := { s.home with retry := s.home.retry ++ [{ req := q, num := s.home.clock, t0 := t0, made := made }],
                                          clock := s.home.clock + 1 } }
  if s.home.retry.length ≥ 1024 then setEvt s HOME_EVT.CREDIT else s

/-- A transaction opened for `q` on an entry of its own, where the line keeps one. -/
def openTxn (s : State) (q : HomeReq) (t0 : W64) (h : Nat) : State :=
  let s := { s with fresh := s.fresh + 1 }
  let (st, shr) := lineState s q.sa
  let s := if st = .atomicH then spillAtomic s q.sa else s
  let st := if st = .atomicH then .inv else st
  let s := if coherent s q.sa && (dirEntry s q.sa).isNone && dirsumBad s ((localSa s q.sa).getD q.sa) then
      ledger s 0x0401 0 (some q.ten) [q.sa, reqAgent q] else s
  let s := if coherent s q.sa then
      setDir s q.sa { (dirEntry s q.sa).getD { st := st } with st := st, shr := shr, peg := true, htx := h, age := s.home.clock }
    else s
  begin_ s h { req := q, tr := .memRd, t0 := t0, origin := st, shr := shr }

/-- An agent that owns the line asks for it again (last row but one of Table COH-7). -/
def ownsIt (s : State) (q : HomeReq) : Bool :=
  match q.who, dirEntry s q.sa with
  | .agent a _, some e => q.kind != .wb && e.st == .owned a
  | _, _ => false

/-- A victim makes room for a line: S dropped with DIRSUM S_LOST, H written to memory, O recalled (R141). The result
says whether the way is free at once. -/
def evictWay (s : State) (l : Nat) (e : DirEntry) : Bool × State :=
  let sa := l * 64
  match e.st with
  | .shared => (true, delDir (setSlost s ((localSa s sa).getD sa) true) sa)
  | .atomicH => (true, delDir (spillAtomic s sa) sa)
  | .owned _ =>
    match freeHtx s 0 true with
    | none => (false, s)
    | some h =>
      let q : HomeReq := { kind := .recall, who := .memClass, ten := bget (recOf s sa) EXT.OWNER, prv := true, sa := sa }
      (false, openTxn s q s.tim.now h)
  | _ => (true, delDir s sa)

/-- A recall of a line of the set of `sa` is in progress. -/
def recallInSet (s : State) (sa : Nat) : Bool :=
  (setEntries s sa (bget (recOf s sa) EXT.OWNER)).any fun e => e.2.peg && match mget s.home.htx e.2.htx with
    | some t => t.req.kind == .recall
    | none => false

/-- The page of a request's line is being evicted, for which the request waits (Table TIR-7). -/
def evicting (s : State) (q : HomeReq) : Option (Nat × Page) :=
  let sa := (localSa s q.sa).getD q.sa
  if saTier sa ≠ 1 ∨ q.kind = .recall then none
  else match pageOf s (blkKey s sa) with
    | some (p, g) => if pg g PAGE.STATE = pgEvicting then some (p, g) else none
    | none => none

/-- The line waits for something that holds no transaction: its secondary's acceptance of a write (R41), or an eviction. -/
def lineHeld (s : State) (q : HomeReq) : Bool :=
  (evicting s q).isSome || s.store.mirrors.any fun m => m.htx.isNone && saLine m.sa == saLine q.sa

/-- A request starts at the home, or it has to wait (R140 to R142): whether it started. A victim that owns its line is
recalled while the request waits; `made` says that a recall for this request was opened before, and while a recall of the
set is in progress it opens no other. -/
def startReq (s : State) (q : HomeReq) (t0 : W64) (queued made : Bool) : Bool × State :=
  if (txnOn s q.sa).isSome || lineHeld s q then (false, s)
  else if !queued && s.home.retry.any (fun w => saLine w.req.sa == saLine q.sa) then (false, s)
  else match freeHtx s q.ten q.prv with
    | none => (false, s)
    | some h =>
      if ownsIt s q then
        (true, errTo (setEvt (ledgerFF s 4 q.sa (some q.ten)) HOME_EVT.BADREQ) q 0 erAccess)
      else if coherent s q.sa && (dirEntry s q.sa).isNone then
        let s := bump s 0x0302 1 { ten := some q.ten, sa := some q.sa }
        match wayFor s q.sa with
        | .free => (true, openTxn s q t0 h)
        | .none => (false, s)
        | .victim l e =>
          if made && recallInSet s q.sa then (false, s)
          else match evictWay s l e with
          | (true, s) => (true, openTxn s q t0 h)
          | (false, s) => (false, s)
      else (true, openTxn s q t0 h)

/-- A request arrives at the home; one for a page that is being evicted has the eviction abandoned (Table TIR-7). -/
def homeStart (s : State) (q : HomeReq) : State :=
  let s := match evicting s q with
    | some (p, g) => setPage s p { g with evAbandon := true }
    | none => s
  match startReq s q s.tim.now false false with
  | (true, t) => t
  | (false, t) => enqueue t q s.tim.now (decide (s.home.htx.length < t.home.htx.length))

/-- A request leaves the pages it waits for. -/
def leavePages (s : State) (q : HomeReq) : State :=
  { s with store := { s.store with
      pages := mmap s.store.pages fun _ g => { g with deferred := g.deferred.filter (· != q) }
      pageWait := s.store.pageWait.filter (· != q) } }

/-- The writes of descriptor `sq` that wait on the far tier, or have not started, are given up unperformed: their bytes keep their
old values (R170, R212). -/
def withdraw (s : State) (sq : Nat) : State :=
  let mine (q : HomeReq) : Bool := q.who == .slot sq && q.kind == .engWr
  let stage := s.home.htx.filter fun e => mine e.2.req && e.2.tr == .stage
  let queued := (s.home.retry.filter fun w => mine w.req).map (·.req)
  let s := stage.foldl (fun s e => endTxn (leavePages s e.2.req) e.1 e.2 .inv (.precise [])) s
  let s := { s with home := { s.home with retry := s.home.retry.filter fun w => !mine w.req } }
  let gone := stage.map (fun e => e.2.req) ++ queued
  modSlot s sq fun x => { x with owed := x.owed - gone.length, unwrit := x.unwrit + (gone.map fun q => maskCount q.mask 64).sum }

/-! ## Memory-sourced reads (R146) -/

/-- Lines (SA / 64), among the `n` from `sa` on, that an agent owns. -/
def ownedIn (s : State) (sa n : Nat) : List Nat :=
  mkeys (s.home.dir.filter fun e => decide (saLine sa ≤ e.1 ∧ e.1 < saLine sa + n) && match e.2.st with
    | .owned _ => true
    | _ => false)

/-- SNP_CUR sent to the owner of each of them; what it returns is written to memory. -/
def memPull (s : State) (sa n : Nat) : State :=
  (ownedIn s sa n).foldl (fun s l =>
    homeStart s { kind := .engRd, who := .memClass, ten := bget (recOf s (l * 64)) EXT.OWNER, prv := true, sa := l * 64 }) s

/-- Some such read of those lines is not answered. -/
def memBusy (s : State) (sa n : Nat) : Bool :=
  let mine (q : HomeReq) : Bool := q.kind == .engRd && q.who == .memClass && decide (saLine sa ≤ saLine q.sa ∧ saLine q.sa < saLine sa + n)
  (s.home.htx.any fun e => mine e.2.req) || s.home.retry.any fun w => mine w.req

end Sys2Proof.Machine
end

