-- ==== Sys2Proof/Machine/RedOps.lean ====
section
/-! DEFINITION. RedOps.lean: reports to the fault manager and the states of extents that failures change (chapter
"Redundancy, failure and recovery"). -/
namespace Sys2Proof.Machine

/-- A report (Table FLT-8). -/
def reportOf (s : State) (kind subj d0 d1 : Nat) : BitVec 512 :=
  bset (bset (bset (bset (bset (bset (bset 0 RPT.KIND kind) RPT.CHIP (own s)) RPT.SUBJ subj) RPT.SEQ (getF s RED_RPTSTAT.NEXTSEQ))
    RPT.FTIME s.tim.now.toNat) RPT.DETAIL0 d0) RPT.DETAIL1 d1

/-- Report `r` sent to the fault manager. -/
def sendReport (s : State) (r : BitVec 512) : State :=
  if tstF s RED_FMCFG.EN then emit s (.udp (getF s RED_FMCFG.IPV4) (getF s RED_FMCFG.UDPPORT) (bytesOf r)) else s

/-- A report written to the ring and sent (R497); with 256 unacknowledged none is written and OVF is set (R498). -/
def report (s : State) (kind subj d0 d1 : Nat) : State :=
  if getF s RED_RPTSTAT.UNACK ≥ 256 then setF s RED_RPTSTAT.OVF 0 1
  else
    let r := reportOf s kind subj d0 d1
    let n := getF s RED_RPTSTAT.NEXTSEQ
    let s := { s with red := { s.red with reports := mput s.red.reports (n % 256) r } }
    sendReport (setF (setF s RED_RPTSTAT.NEXTSEQ 0 (n + 1)) RED_RPTSTAT.UNACK 0 (getF s RED_RPTSTAT.UNACK + 1)) r

/-- The SA base of an extent of this chip. -/
def extBase (s : State) (t e : Nat) : Nat := mkSa (own s) t (e * 2 ^ 30)

/-- STATE of a record replaced. -/
def setExtState (s : State) (t e st : Nat) : State := setExt s t e (bset (extRec s t e) EXT.STATE st)

/-- The ward copy of a record with redundancy, sent to this chip's stand-in (R481). -/
def wardCopy (s : State) (t e : Nat) : State :=
  let r := extRec s t e
  if bget r EXT.RCLASS = 0 then s else
  match standIn s (own s) with
  | none => s
  | some c =>
    if fencedChip s c then report (setEvt s RED_EVT.NOWARD) 0x0F c c 0
    else emit s (.ward c (if t = 0 then 262144 + e else e) r)

/-- An extent becomes DEGRADED (R489, R490). Its mirror writes that wait for the secondary are acknowledged now. -/
def degrade (s : State) (t e cause : Nat) : State :=
  let st := bget (extRec s t e) EXT.STATE
  if st ≠ exNormal ∧ st ≠ exRebuilding then s else
  let s := setExtState s t e exDegraded
  let mine (m : MirrorWrite) : Bool := saTier m.sa == t && saExt m.sa == e
  let ms := s.store.mirrors.filter mine
  let s := { s with store := { s.store with mirrors := s.store.mirrors.filter fun m => !mine m } }
  let s := ms.foldl (fun s m => match m.htx with
    | none => performed s m.req
    | some h => match mget s.home.htx h with
      | some t => if t.tr = .mirror then writeDone s h t else s
      | none => s) s
  report (setEvt s RED_EVT.DEGRADED) 0x04 0 (extBase s t e) cause

/-- An extent becomes LOST (R490, R491). -/
def lose (s : State) (t e : Nat) : State :=
  if bget (extRec s t e) EXT.STATE = exLost then s else
  let s := setExtState s t e exLost
  let s := ledger s 0x0C02 2 none [extBase s t e]
  report (setEvt s RED_EVT.LOST) 0x05 0 (extBase s t e) 0

end Sys2Proof.Machine
end

