-- ==== Sys2Proof/Machine/Tier2.lean ====
section
/-! DEFINITION. Tier2.lean: the control windows of tier 2 (Table STO-3): extent records, version records, parity group
records, tallies, queue contexts and doorbell pages, as words and as 64-byte lines. -/
namespace Sys2Proof.Machine

/-! ## Extent records (R25 to R28, R33, R34, R226 to R228) -/

/-- Tier 2 offset of a record, for the ledger. -/
def extOff (t e : Nat) : Nat := if t = 0 then 0x01000000 + 16 * e else 0x01400000 + 16 * e

/-- A record write refused or ignored, with its ledger record. -/
def recordRefused (s : State) (off : Nat) : State := ledger s 0x0501 0 none [off]

/-- Bits of a record that the field table reserves. -/
def extReserved : BitVec 128 :=
  ~~~ ([EXT.GROUP, EXT.POS, EXT.PEXT, EXT.PTIER, EXT.PCHIP, EXT.ROLE, EXT.OWNER, EXT.STATE, EXT.RCLASS, EXT.SYS, EXT.ATTR,
    EXT.VALID].foldl (fun m f => m ||| bmask 128 f) 0)

/-- The record may be applied (R28). -/
def extOk (s : State) (t : Nat) (r : BitVec 128) : Bool :=
  r &&& extReserved == 0
  && !(bget r EXT.RCLASS == 2 && t == 0)
  && !(bget r EXT.RCLASS == 1 && bget r EXT.PCHIP == own s)
  && bget r EXT.RCLASS != 3
  && !(bget r EXT.RCLASS == 2 && decide (10 ≤ bget r EXT.POS))
  && !(bget r EXT.RCLASS == 1 && decide (2 ≤ bget r EXT.PTIER))

/-- The near or far quota, and its largest LIMIT. -/
def extQuota (t : Nat) : Fld × Fld × Nat × Fld :=
  if t = 0 then (TEN_QUOTA_NEAR.USED, TEN_QUOTA_NEAR.LIMIT, 576, TEN_QSTAT.NEAR)
  else (TEN_QUOTA_FAR.USED, TEN_QUOTA_FAR.LIMIT, 223516, TEN_QSTAT.FAR)

/-- The extent belongs to the staging pool, whose records firmware sets: SYS, DIRECT, NONE (R192). -/
def poolRecord (s : State) (t e : Nat) : Bool := t == 0 && (poolAt s (e * 2 ^ 30)).isSome

/-- A write of bytes 8 to 15 of a record. -/
def extHighWrite (s : State) (t e : Nat) (v : W64) : State :=
  if !populated s t e then s else
  if poolRecord s t e then recordRefused s (extOff t e + 8) else
  let r := extRec s t e
  if btst r EXT.VALID || bget r EXT.STATE = exRetiring then recordRefused s (extOff t e + 8)
  else setExt s t e (bset r ⟨64, 64⟩ v.toNat)

/-- Blocks of a far extent whose recorded key is not the extent's are trimmed: they read as zeros (R526). -/
def trimBlocks (s : State) (e k : Nat) : State :=
  { s with store := { s.store with far := mfilter s.store.far fun b x => b / 2 ^ 18 != e || x.key == k } }

/-- A write of bytes 0 to 7 that applies the record (R27, R28, R228). -/
def extApply (s : State) (t e : Nat) (v : W64) : State :=
  let r := bset (bset (extRec s t e) ⟨0, 64⟩ v.toNat) EXT.STATE exNormal
  let ten := bget r EXT.OWNER
  let (used, limit, mx, stat) := extQuota t
  if !extOk s t r then recordRefused s (extOff t e)
  else if !btst r EXT.SYS && decide (limitQ s limit ten mx ≤ getF s used ten) then
    recordRefused (setF s stat ten 1) (extOff t e)
  else
    let s := if btst r EXT.SYS then s else chargeQ s used ten true
    let s := wardCopy (setExt s t e r) t e
    if t = 1 then trimBlocks s e (keyOf s r) else s

/-- The lines of an extent that some cache may hold. -/
def extLines (s : State) (t e : Nat) : List Nat :=
  let mine (l : Nat) : Bool := saTier (l * 64) == t && saExt (l * 64) == e && saChip (l * 64) == own s
  ((mkeys s.home.dir).filter mine ++
    (if t = 0 then ((s.store.near.filter fun x => x.1 / 2 ^ 24 == e && bget x.2.lmeta LMETA.DIRSUM != 0).map fun x => saLine (mkSa (own s) 0 (x.1 * 64)))
     else (s.store.pages.filter fun x => x.2.foreign == 0 && bget x.2.entry PAGE.BLOCK / 2 ^ 18 == e && x.2.slost != 0).map (fun x =>
       (List.range 64).filterMap fun n => if x.2.slost.getLsbD n then
         some (saLine (mkSa (own s) 1 (bget x.2.entry PAGE.BLOCK * 4096 + n * 64))) else none) |>.flatten)).eraseDups

/-- Every cached line of an extent recalled (R33, Table STO-6). -/
def recallExtent (s : State) (t e : Nat) : State :=
  (extLines s t e).foldl (fun s l =>
    homeStart s { kind := .recall, who := .memClass, ten := bget (extRec s t e) EXT.OWNER, prv := true, sa := l * 64 }) s

/-- A write of bytes 0 to 7 that clears VALID: VALID alone is taken; the extent retires (R27, R33). -/
def extClear (s : State) (t e : Nat) : State :=
  let s := setExt s t e (bset (bset (extRec s t e) EXT.VALID 0) EXT.STATE exRetiring)
  recallExtent (wardCopy s t e) t e

/-- A write of bytes 0 to 7 of a record. -/
def extLowWrite (s : State) (t e : Nat) (v : W64) : State :=
  if !populated s t e then s else
  if poolRecord s t e then recordRefused s (extOff t e) else
  let r := extRec s t e
  if bget r EXT.STATE = exRetiring then recordRefused s (extOff t e)
  else if btst r EXT.VALID then
    if btst v EXT.VALID then recordRefused s (extOff t e) else extClear s t e
  else if btst v EXT.VALID then extApply s t e v
  else setExt s t e (bset (bset r ⟨0, 64⟩ v.toNat) EXT.STATE (bget r EXT.STATE))

/-! ## Version records (R36) -/

def verRec (s : State) (r : Nat) : BitVec 512 := mgetD 0 s.store.ver r

def setVer (s : State) (r : Nat) (v : BitVec 512) : State :=
  { s with store := { s.store with ver := mputD 0 s.store.ver r v } }

/-- STATE codes of a version record (Table STO-8). -/
def vrFree : Nat := 0
def vrOpen : Nat := 1
def vrPublished : Nat := 2
def vrRetiring : Nat := 3

/-- Fields that a privileged write may change, and bits the field table reserves. -/
def verRw : BitVec 512 := [VER.CUR, VER.LENGTH, VER.OWNER, VER.PSIZE].foldl (fun m f => m ||| bmask 512 f) 0
def verReserved : BitVec 512 :=
  ~~~ ([VER.PUBTIME, VER.PREV, VER.STATE, VER.VERSION].foldl (fun m f => m ||| bmask 512 f) verRw)

/-- A privileged write under the bit mask `m`: ignored as a whole if it would make a reserved field non-zero or set
PSIZE to 3; a FREE record given a LENGTH reads OPEN (R36). -/
def verWrite (s : State) (rgn : Nat) (v m : BitVec 512) : State :=
  if v &&& m &&& verReserved ≠ 0 ∨ (btst m VER.PSIZE ∧ bget v VER.PSIZE = 3) then ledgerFF s 5 (0x00400000 + 64 * rgn)
  else
    let old := verRec s rgn
    let new := (old &&& ~~~ (m &&& verRw)) ||| (v &&& m &&& verRw)
    let new := if bget old VER.STATE = vrFree ∧ bget new VER.LENGTH ≠ 0 then bset new VER.STATE vrOpen else new
    setVer s rgn new

/-- The bit mask of word `w` of a 64-byte record. -/
def wordMask (w : Nat) : BitVec 512 := bmask 512 ⟨64 * w, 64⟩

/-! ## Tallies (R176, R177, R184) -/

/-- Bits [111:74] of a tally record must be written zero. -/
def tallyReserved (v : W64) : Bool := bget v ⟨10, 38⟩ != 0

/-- The descriptor waits on tally `i`. -/
def waitsOn (i : Nat) (sl : Slot) : Bool := sl.tallyWait && !sl.tallyOk && hd sl.d DHDR.TALLY == i

/-- Every waiter of tally `i` completes: in a slot, parked, or waiting for a slot (R182, R184). -/
def tallyEnd (s : State) (i st sub : Nat) : State :=
  let s := (mvals s.que.slots).foldl (fun s sl => if waitsOn i sl then complete s sl.seq st sub 0 else s) s
  let s := s.que.park.foldl (fun s e => if waitsOn i e.2.slot then completeParked s e.1 st sub else s) s
  s.que.retryWait.foldl (fun s sl => if waitsOn i sl then completeWaiting s sl st sub else s) s

/-- A write of bytes 8 to 15 of a tally record. -/
def tallyHighWrite (s : State) (i : Nat) (v : W64) : State :=
  let r := tallyRec s i
  let refuse (s : State) : State := ledgerFF s 5 (0x00300000 + 16 * i + 8)
  let own_ := bget v ⟨0, 9⟩
  if i = 0 || tallyReserved v then refuse s
  else if btst r TALLY.EN then
    if own_ ≠ bget r TALLY.OWNER then refuse s
    else if maskBit v 9 then s
    else
      let s := chargeQ (setTally s i (bset r TALLY.EN 0)) TEN_QUOTA_TALLY.USED (bget r TALLY.OWNER) false
      tallyEnd s i stAccess 0x0031
  else if maskBit v 9 then
    if limitQ s TEN_QUOTA_TALLY.LIMIT own_ 65535 ≤ getF s TEN_QUOTA_TALLY.USED own_ then
      refuse (setF s TEN_QSTAT.TALLY own_ 1)
    else chargeQ (setTally s i (bset (bset 0 TALLY.OWNER own_) TALLY.EN 1)) TEN_QUOTA_TALLY.USED own_ true
  else setTally s i (bset r TALLY.OWNER own_)

/-- A privileged write of COUNT. -/
def tallyCountSet (s : State) (i : Nat) (v : W64) : State :=
  if i = 0 then ledgerFF s 5 0x00300000 else tallyTouch (setTally s i (bset (tallyRec s i) TALLY.COUNT v.toNat)) i

/-- A tally record as it reads: WAITERS counted, tally 0 always zero. -/
def tallyRead (s : State) (i : Nat) : BitVec 128 :=
  if i = 0 then 0 else bset (tallyRec s i) TALLY.WAITERS (tallyWaiters s i)

/-- Four tally records as tenant `t` reads their line (R176, R178). -/
def tallyLine (s : State) (i t : Nat) : Line :=
  (List.range 4).foldl (fun d k =>
    if tallyMine s (i + k) t false then bset d ⟨128 * k, 64⟩ (bget (tallyRec s (i + k)) TALLY.COUNT) else d) 0

/-! ## Queue contexts (R88 to R91) -/

/-- A write to word 2 that enables a context. It is refused whole where another enabled context names the queue (R89), and EN stays
0 where the tenant is at its queue quota or is not enabled (R226, R515). A queue of a tenant whose fault ring holds records back
does not fetch (R71). -/
def enableCtx (s : State) (n : Nat) (v : W64) : State :=
  let c := bset (ctxOf s n) ⟨128, 64⟩ v.toNat
  let ten := bget c QCTX.TENANT
  let off := bset c QCTX.EN 0
  if btst c QCTX.PRIV then setCtx s n (bset c QCTX.STATE qRunning)
  else if (ctxFor s ten (bget c QCTX.QNUM)).isSome then ledger s 0x0201 0 (some ten) [n, v.toNat]
  else if !tstF s TEN_SECCTL.EN ten then ledger (setCtx s n off) 0x0201 0 (some ten) [n, v.toNat]
  else if limitQ s TEN_QUOTA_QUEUE.LIMIT ten 64 ≤ getF s TEN_QUOTA_QUEUE.USED ten then
    ledgerFF (setF (setCtx s n off) TEN_QSTAT.QUEUE ten 1) 5 (0x00200000 + 256 * n + 16) (some ten)
  else
    let s := chargeQ (setCtx s n (bset c QCTX.STATE qRunning)) TEN_QUOTA_QUEUE.USED ten true
    if (heldRecs s ten).isEmpty then s else stopFor s n .fring

/-- A write that clears EN: every descriptor of the queue is cancelled and the queue drains (R91). -/
def disableCtx (s : State) (n : Nat) : State :=
  let s := cancelQueue s n fun _ => true
  setQ (setQ { s with que := { s.que with stopped := mdel s.que.stopped n } } n QCTX.EN 0) n QCTX.STATE qDraining

/-- Bits of words 0 to 3 that a write may change. -/
def ctxRw : BitVec 2048 :=
  [QCTX.ITIME, QCTX.ICOUNT, QCTX.DEFDL, QCTX.VEC, QCTX.MAXINFL, QCTX.QNUM, QCTX.TENANT, QCTX.ERRIRQ, QCTX.LATEPOL, QCTX.PRIV,
    QCTX.LOG2N, QCTX.EN, QCTX.CQADDR, QCTX.CQLOC, QCTX.SQADDR, QCTX.SQLOC].foldl (fun m f => m ||| bmask 2048 f) 0

/-- A write of word `w` of context `n`. -/
def ctxWrite (s : State) (n w : Nat) (v : W64) : State :=
  let v := v &&& ctxRw.extractLsb' (64 * w) 64
  if w = 5 then s
  else if w > 3 then s
  else if cq s n QCTX.STATE = qDraining then ledgerFF s 2 (0x00200000 + 256 * n + 8 * w) (qOwner s n)
  else if cq s n QCTX.EN = 1 then (if w = 2 ∧ !maskBit v 0 then disableCtx s n else s)
  else if w = 2 ∧ maskBit v 0 then enableCtx s n v
  else setCtx s n (bset (ctxOf s n) ⟨64 * w, 64⟩ v.toNat)

/-- A write of word 5: BADDB is cleared by writing 1. -/
def ctxWord (s : State) (n w : Nat) (v : W64) : State :=
  if w = 5 ∧ maskBit v (QCTX.BADDB.lo - 320) then setQ s n QCTX.BADDB 0 else ctxWrite s n w v

/-! ## Parity group records (R42) -/

def pgrRec (s : State) (g : Nat) : BitVec 512 := mgetD 0 s.store.pgr g

def setPgr (s : State) (g : Nat) (v : BitVec 512) : State :=
  { s with store := { s.store with pgr := mputD 0 s.store.pgr g v } }

/-! ## The map (Table STO-3) -/

/-- What a tier 2 offset holds. -/
inductive T2 where
  | bell (ten q : Nat)
  | ctx (n : Nat)
  | tally (i : Nat)
  | ver (r : Nat)
  | pgr (g : Nat)
  | ext (t e : Nat)
  | reserved
  deriving DecidableEq, Repr

/-- The object at tier 2 offset `off` (Table STO-3). -/
def t2At (off : Nat) : T2 :=
  if off < 0x00200000 then .bell (off / 4096) (off % 4096 / 64)
  else if off < 0x00300000 then .ctx ((off - 0x00200000) / 256)
  else if off < 0x00400000 then .tally ((off - 0x00300000) / 16)
  else if off < 0x00500000 then .ver ((off - 0x00400000) / 64)
  else if off < 0x00900000 then .pgr ((off - 0x00500000) / 64)
  else if off < 0x01000000 then .reserved
  else if off < 0x01400000 then .ext 0 ((off - 0x01000000) / 16)
  else if off < 0x01800000 then .ext 1 ((off - 0x01400000) / 16)
  else .reserved

/-- The 64 bytes at an aligned tier 2 offset, as a privileged master reads them (R639). -/
def t2Line (s : State) (off : Nat) : Line :=
  let off := off / 64 * 64
  match t2At off with
  | .bell _ _ => 0
  | .ctx n => (ctxOf s n).extractLsb' (8 * (off % 256)) 512
  | .tally i => (List.range 4).foldl (fun d k => bset d ⟨128 * k, 128⟩ (tallyRead s (i + k)).toNat) 0
  | .ver r => verRec s r
  | .pgr g => pgrRec s g
  | .ext t e => (List.range 4).foldl (fun d k => bset d ⟨128 * k, 128⟩ (if populated s t (e + k) then (extRec s t (e + k)).toNat else 0)) 0
  | .reserved => 0

/-- A tenant may read the aligned `n` bytes at `off`: a tally of its own (COUNT), a whole line of tallies, or a doorbell
page, which reads as zeros (Table STO-3, R176). -/
def t2MayRead (s : State) (prv : Bool) (ten off n : Nat) : Bool :=
  match t2At off with
  | .reserved => false
  | .bell _ _ => true
  | .tally i => prv || n == 64 || (n == 8 && (i == 0 || (off % 16 == 0 && tallyMine s i ten false)))
  | _ => prv

/-- The aligned `n` bytes at `off`, 8 or 64, as the master reads them. -/
def t2Read (s : State) (prv : Bool) (ten off n : Nat) : Line :=
  match t2At off with
  | .tally i => if prv || n == 8 then t2Line s off else tallyLine s i ten
  | _ => t2Line s off

/-- The master may write the aligned `n` bytes at `off` (Table STO-3). A write to tally 0 is anybody's, and changes nothing (R176). -/
def t2MayWrite (prv : Bool) (ten off : Nat) (n : Nat := 64) : Bool :=
  match t2At off with
  | .reserved => false
  | .bell t _ => prv || t == ten
  | .tally i => prv || (i == 0 && n == 8)
  | _ => prv

/-- An aligned 8-byte write to tier 2 by a master that may write there. -/
def t2Write8 (s : State) (off : Nat) (v : W64) : State :=
  match t2At off with
  | .bell t q => ringWord s ⟨false, t, q⟩ (off % 64) v
  | .ctx n => ctxWord s n (off % 256 / 8) v
  | .tally i => if off % 16 = 0 then tallyCountSet s i v else tallyHighWrite s i v
  | .ver r => verWrite s r (bset 0 ⟨8 * (off % 64), 64⟩ v.toNat) (wordMask (off % 64 / 8))
  | .pgr g => setPgr s g (bset (pgrRec s g) ⟨8 * (off % 64), 64⟩ v.toNat)
  | .ext t e => if off % 16 = 0 then extLowWrite s t e v else extHighWrite s t e v
  | .reserved => s

/-- An aligned 64-byte write to tier 2: 16-byte records one after the other, bytes 8 to 15 before bytes 0 to 7; a 64-byte
record at once; a doorbell stride in its own order (R639, R97). The words of a queue context apply from the lowest up: word 2 with
EN set before word 3, which an enabled context then ignores; the spec gives no order (DESIGN CHOICE, log entry 124). -/
def t2Write64 (s : State) (off : Nat) (d : Line) : State :=
  match t2At off with
  | .bell t q => ringWide s ⟨false, t, q⟩ d
  | .ver r => verWrite s r d (BitVec.allOnes 512)
  | .pgr g => setPgr s g d
  | .tally _ | .ext _ _ =>
    (List.range 4).foldl (fun s k =>
      let s := t2Write8 s (off + 16 * k + 8) (d.extractLsb' (128 * k + 64) 64)
      t2Write8 s (off + 16 * k) (d.extractLsb' (128 * k) 64)) s
  | .ctx _ => (List.range 8).foldl (fun s k => t2Write8 s (off + 8 * k) (d.extractLsb' (64 * k) 64)) s
  | .reserved => s

end Sys2Proof.Machine
end

