-- ==== Sys2Proof/Machine/EngOps.lean ====
section
/-! DEFINITION. EngOps.lean: how a running descriptor reads and writes the store. Lines it needs are asked of their
homes and gathered in its slot; bytes it writes go to the home of their line, here or posted to another chip
(R147, R148, R166, R170, R173, R491, R640). -/
namespace Sys2Proof.Machine

/-- The status of an access to an extent in the state its record shows (R33, R30, R491); none where it is admitted. -/
def extentStop (s : State) (sa : Nat) : Option Stop :=
  if saTier sa > 1 then none
  else
    let r := recOf s sa
    if bget r EXT.STATE = exLost then some (stRegionLost, 0x0041)
    else if saChip sa ≠ own s then none
    else if !btst r EXT.VALID then some (stAccess, 0x0017)
    else none

/-- The record of an access to an extent that is no longer VALID: it names the extent (Table STO-6, step 5). -/
def staleNote (s : State) (prv : Bool) (ten sa st : Nat) : State :=
  if st = stAccess then ledgerFF s 5 (sa / 2 ^ 30 * 2 ^ 30) (if prv then none else some ten) else s

/-- What the stand-in does with an access to a fenced home's extent by the ward copy (Table FLT-1). -/
inductive Redirect where
  /-- Served here: this chip's own line, its secondary, or a block it reconstructs. -/
  | serve
  /-- Passed to the acting home. -/
  | relay (chip : Nat)
  | refuse (st sub : Nat)
  deriving DecidableEq, Repr

/-- Where an access that reaches this chip goes (R481 to R486). -/
def redirect (s : State) (sa : Nat) : Redirect :=
  if saChip sa = own s then .serve
  else if (localSa s sa).isSome then .serve
  else
    let r := wardRec s (saTier sa) (saExt sa)
    if !btst r EXT.VALID || bget r EXT.RCLASS = 0 then .refuse stRegionLost 0x0042
    else if bget r EXT.RCLASS = 1 then
      if bget r EXT.ROLE = 1 then .refuse stAccess 0x0017
      else if fencedChip s (bget r EXT.PCHIP) then .refuse stRegionLost 0x0041
      else if bget r EXT.PCHIP = own s then .serve else .relay (bget r EXT.PCHIP)
    else if 8 ≤ bget r EXT.POS then .refuse stAccess 0x0017
    else .serve

/-- The tenant identity of a descriptor's accesses. -/
def slotReq (s : State) (sl : Slot) (kind : ReqKind) (sa : Nat) : HomeReq :=
  { kind := kind, who := .slot sl.seq, ten := qTen s sl.ctx, prv := qPrv s sl.ctx, sa := sa }

/-- A tier 2 line of another chip read as R640 divides it: whole where an operand covers it, else the 8-byte units that the
operands touch. -/
def remoteT2 (s : State) (sq : Nat) (sl : Slot) (sa : Nat) : State :=
  let es := sl.ops.flatten
  if es.any fun e => decide (e.base ≤ sa ∧ sa + 64 ≤ e.base + e.len) then remoteRead s sq sa
  else ((List.range 8).filter fun u => es.any fun e => decide (e.base ≤ sa + 8 * u ∧ sa + 8 * u < e.base + e.len)).foldl
    (fun s u => remoteRead s sq sa (8 * u) 8) s

/-- One line asked for descriptor `sq`, unless it holds it or has asked already. -/
def askLine (s : State) (sq l hint : Nat) : State :=
  match slotOf s sq with
  | none => s
  | some sl =>
    if (mget sl.rdata l).isSome || sl.asked.contains l then s else
    let sa := l * 64
    let s := setSlot s sq { sl with asked := sl.asked ++ [l] }
    let q := { slotReq s sl .engRd sa with hint := hint }
    let c := servedBy s sa
    if c = own s then
      if saTier sa = 2 then
        gotLine s q (t2Read s q.prv q.ten (saOff sa) 64) false
      else match extentStop s sa, redirect s sa with
        | some (st, sub), _ => failed (staleNote s q.prv q.ten sa st) q st sub
        | none, .refuse st sub => failed s q st sub
        | none, .relay _ => remoteRead s sq sa
        | none, .serve => homeStart s q
    else if fencedChip s c then failed s q stRegionLost 0x0042
    else if saTier sa = 2 then remoteT2 s sq sl sa
    else remoteRead s sq sa

/-- An 8-byte part of a tier 2 piece that names a tally the tenant may not read is refused as it is made (R176, R640). -/
def t2Denied (s : State) (sl : Slot) (p : Nat × Nat) : Bool :=
  saTier p.1 == 2 && servedBy s p.1 == own s && (cutLines p.1 p.2).any fun (l, o, k, _) =>
    k != 64 && (List.range (k / 8)).any fun j => !t2MayRead s (qPrv s sl.ctx) (qTen s sl.ctx) (saOff l + o + 8 * j) 8

/-- THINT of the SA extent that holds a byte of line `l` (R204). -/
def hintAt (es : List SAExt) (l : Nat) : Nat :=
  ((es.find? fun e => decide (e.base < l + 64 ∧ l < e.base + e.len)).map (·.hint)).getD 0

/-- The lines of bytes `off` to `off + n - 1` of operand `i` asked. -/
def askBytes (s : State) (sq i off n : Nat) : State :=
  match slotOf s sq with
  | none => s
  | some sl =>
    let s := if (piecesOf (extsOf sl i) off n).any (t2Denied s sl) then
      modSlot s sq fun x => { x with err := x.err.or (some (stAccess, 0x0017)) } else s
    (linesOf (extsOf sl i) off n).foldl (fun s sa => askLine s sq (sa / 64) (hintAt (extsOf sl i) sa)) s

/-- Every line of bytes `off` to `off + n - 1` of operand `i` has come. -/
def haveBytes (sl : Slot) (i off n : Nat) : Bool :=
  (linesOf (extsOf sl i) off n).all fun sa => (mget sl.rdata (sa / 64)).isSome

/-- Bytes `off` to `off + n - 1` of operand `i`, from the lines gathered; poisoned bytes are zeros (Table QUE-9). -/
def gather (sl : Slot) (i off n : Nat) : List Byte :=
  ((piecesOf (extsOf sl i) off n).map fun p =>
    ((cutLines p.1 p.2).map fun (l, o, k, _) => sliceBytes (((mget sl.rdata (l / 64)).map (·.1)).getD 0) o k).flatten).flatten

/-- Some line of those bytes is poisoned. -/
def anyPoison (sl : Slot) (i off n : Nat) : Bool :=
  (linesOf (extsOf sl i) off n).any fun sa => ((mget sl.rdata (sa / 64)).map (·.2)).getD false

/-- The lines gathered for a descriptor forgotten. -/
def dropLines (s : State) (sq : Nat) : State := modSlot s sq fun sl => { sl with rdata := [] }

/-- One line-sized write of descriptor `sl`: at this home, or posted. `tally` is the tally it carries. -/
def putLine (s : State) (sl : Slot) (l o : Nat) (bs : List Byte) (tally hint : Nat) (poison : Bool) (fill : Bool := false) : State :=
  let q : HomeReq := { slotReq s sl .engWr l with
    data := placeBytes o bs, mask := byteMask o bs.length, tally := tally, hint := hint, poison := poison, fill := fill }
  let c := servedBy s l
  let own_ (s : State) : State := modSlot s sl.seq fun x => { x with owed := x.owed + 1 }
  if c = own s then
    if saTier l = 2 then
      let off := saOff l + o
      let s := tallyAdd s tally bs.length q.ten q.prv (own s)
      if bs.length = 64 then t2Write64 s off (ofBytes 512 bs)
      else (List.range (bs.length / 8)).foldl (fun s k => t2Write8 s (off + 8 * k) (ofBytes 64 ((bs.drop (8 * k)).take 8))) s
    else match extentStop s l, redirect s l with
      | some (st, sub), _ => failed (staleNote (own_ s) q.prv q.ten l st) q st sub
      | none, .refuse st sub => failed (own_ s) q st sub
      | none, .relay _ => postWrite s sl.ctx sl.seq q
      | none, .serve => homeStart (own_ s) q
  else if fencedChip s c then failed (own_ s) q stRegionLost 0x0042
  else if saTier l = 2 ∧ bs.length ≠ 64 then
    (List.range (bs.length / 8)).foldl (fun s j => postWrite s sl.ctx sl.seq { q with
      data := placeBytes (o + 8 * j) ((bs.drop (8 * j)).take 8), mask := byteMask (o + 8 * j) 8 }) s
  else postWrite s sl.ctx sl.seq q

/-- `bs` written at byte `off` of operand `i` of descriptor `sq`, with the tally the descriptor carries. `bad o n` says
whether the `n` bytes from the o-th of `bs` carry poison to their line. -/
def storeBytes (s : State) (sq i off : Nat) (bs : List Byte) (bad : Nat → Nat → Bool := fun _ _ => false)
    (fill : Bool := false) : State :=
  match slotOf s sq with
  | none => s
  | some sl =>
    let es := extsOf sl i
    ((piecesOf es off bs.length).foldl (fun (acc : State × Nat) p =>
      let s := (cutLines p.1 p.2).foldl (fun s (l, o, k, i) =>
        putLine s sl l o ((bs.drop (acc.2 + i)).take k) (carriedTally sl.d) (hintAt es l) (bad (acc.2 + i) k) fill) acc.1
      (s, acc.2 + p.2)) (s, 0)).1

/-- `bs` written at an SA that the chip itself chose, for descriptor `sq` (a lease block, a shard row, an item slot); like every
store write of a descriptor it carries the descriptor's tally (R179). -/
def storeAt (s : State) (sq sa : Nat) (bs : List Byte) : State :=
  match slotOf s sq with
  | none => s
  | some sl => (cutLines sa bs.length).foldl (fun s (l, o, k, i) => putLine s sl l o ((bs.drop i).take k) (carriedTally sl.d) 0 false) s

/-- The lines of `n` bytes at an SA asked for descriptor `sq`. -/
def askAt (s : State) (sq sa n : Nat) : State := (cutLines sa n).foldl (fun s (l, _, _, _) => askLine s sq (l / 64) 0) s

/-- Whether they have all come, and the bytes. -/
def haveAt (sl : Slot) (sa n : Nat) : Bool := (cutLines sa n).all fun (l, _, _, _) => (mget sl.rdata (l / 64)).isSome

def gatherAt (sl : Slot) (sa n : Nat) : List Byte :=
  ((cutLines sa n).map fun (l, o, k, _) => sliceBytes (((mget sl.rdata (l / 64)).map (·.1)).getD 0) o k).flatten

/-- Bytes of an output left undefined by a stop: each granule may hold new data (Table QUE-9). The bytes `bs` are written
granule by granule, as the free choice says. -/
def storeMaybe (s : State) (sq i off : Nat) (bs : List Byte) : State :=
  match slotOf s sq with
  | none => s
  | some sl =>
    let es := extsOf sl i
    let n := s.fresh
    let s := { s with fresh := s.fresh + 1 }
    ((piecesOf es off bs.length).foldl (fun (acc : State × Nat) p =>
      let s := (cutLines p.1 p.2).foldl (fun s (l, o, k, j) =>
        if Config.granuleNew n l then putLine s sl l o ((bs.drop (acc.2 + j)).take k) (carriedTally sl.d) (hintAt es l) false else s) acc.1
      (s, acc.2 + p.2)) (s, 0)).1

end Sys2Proof.Machine
end

