-- ==== Sys2Proof/Machine/Arith.lean ====
section
/-! DEFINITION. Arith.lean: the number formats of Tables ARR-3 and ARR-4, their exact values, rounding and conversion
(R238 to R248), and the plane's functions within their stated accuracy (R266, R267). -/
namespace Sys2Proof.Machine

/-! ## Exact values -/

/-- A value: NaN, an infinity, or sign · m · 2^e. A zero keeps its sign. -/
inductive Num where
  | nan
  | inf (neg : Bool)
  | fin (neg : Bool) (m : Nat) (e : Int)
  deriving DecidableEq, Repr

/-- How a floating-point format marks infinity and NaN (Table ARR-4). -/
inductive Spec where
  | ieee
  /-- No infinity; NaN is all ones. -/
  | e4m3
  /-- Neither infinity nor NaN. -/
  | finite
  deriving DecidableEq, Repr

/-- A floating-point format: exponent bits, mantissa bits, bias. -/
structure FF where
  eb : Nat
  mb : Nat
  bias : Nat
  sp : Spec
  deriving DecidableEq, Repr

def ffFp32 : FF := ⟨8, 23, 127, .ieee⟩
def ffBf16 : FF := ⟨8, 7, 127, .ieee⟩
def ffFp16 : FF := ⟨5, 10, 15, .ieee⟩
def ffE4m3 : FF := ⟨4, 3, 7, .e4m3⟩
def ffE5m2 : FF := ⟨5, 2, 15, .ieee⟩
def ffE3m2 : FF := ⟨3, 2, 3, .finite⟩
def ffE2m3 : FF := ⟨2, 3, 1, .finite⟩
def ffE2m1 : FF := ⟨2, 1, 1, .finite⟩

/-- The value of an encoding. -/
def decodeF (f : FF) (x : Nat) : Num :=
  let man := x % 2 ^ f.mb
  let ex := x / 2 ^ f.mb % 2 ^ f.eb
  let neg := x / 2 ^ (f.mb + f.eb) % 2 == 1
  let top := ex == 2 ^ f.eb - 1
  if f.sp == .ieee && top then (if man = 0 then .inf neg else .nan)
  else if f.sp == .e4m3 && top && man == 2 ^ f.mb - 1 then .nan
  else if ex = 0 then .fin neg man (1 - (f.bias : Int) - f.mb)
  else .fin neg (2 ^ f.mb + man) ((ex : Int) - f.bias - f.mb)

/-- The largest finite magnitude's encoding. -/
def maxFin (f : FF) : Nat :=
  match f.sp with
  | .ieee => (2 ^ f.eb - 1) * 2 ^ f.mb - 1
  | .e4m3 => 2 ^ (f.eb + f.mb) - 2
  | .finite => 2 ^ (f.eb + f.mb) - 1

def signBit (f : FF) (neg : Bool) : Nat := if neg then 2 ^ (f.eb + f.mb) else 0

/-- The canonical NaN of a format (R244). A format without NaN is no output format. -/
def nanF (f : FF) : Nat :=
  match f.sp with
  | .ieee => (2 ^ f.eb - 1) * 2 ^ f.mb + 2 ^ (f.mb - 1)
  | .e4m3 => 2 ^ (f.eb + f.mb) - 1
  | .finite => maxFin f

/-- A value beyond the format's range (R246): the largest finite one with saturation, else infinity, or NaN in E4M3. -/
def overF (f : FF) (neg sat : Bool) : Nat :=
  if sat then maxFin f + signBit f neg
  else match f.sp with
    | .ieee => (2 ^ f.eb - 1) * 2 ^ f.mb + signBit f neg
    | .e4m3 => nanF f
    | .finite => maxFin f + signBit f neg

/-- How a magnitude is brought to the grid of the format. -/
inductive Rnd where
  /-- To nearest, ties to even. -/
  | rne
  /-- Toward minus or plus infinity. -/
  | down | up
  /-- Stochastic: the 16-bit random value (R247). -/
  | sr (r : Nat)
  deriving DecidableEq, Repr

/-- m / 2^k rounded. -/
def roundShift (r : Rnd) (neg : Bool) (m k : Nat) : Nat :=
  let q := m / 2 ^ k
  let rem := m % 2 ^ k
  match r with
  | .rne => if rem * 2 > 2 ^ k ∨ (rem * 2 = 2 ^ k ∧ q % 2 = 1) then q + 1 else q
  | .down => if rem ≠ 0 ∧ neg then q + 1 else q
  | .up => if rem ≠ 0 ∧ !neg then q + 1 else q
  | .sr x => (m + (if k ≤ 16 then x % 65536 / 2 ^ (16 - k) else x % 65536 * 2 ^ (k - 16))) / 2 ^ k

/-- The encoding of a value, rounded (R243, R246): subnormals kept, `sat` says whether it saturates. -/
def encodeF (f : FF) (r : Rnd) (sat : Bool) : Num → Nat
  | .nan => nanF f
  | .inf neg => overF f neg sat
  | .fin neg m e =>
    if m = 0 then signBit f neg else
    let q0 : Int := 1 - (f.bias : Int) - f.mb
    let q : Int := max q0 (e + (Nat.log2 m : Int) - f.mb)
    let n := if q ≤ e then m * 2 ^ (e - q).toNat else roundShift r neg m (q - e).toNat
    let code := (q - q0).toNat * 2 ^ f.mb + n
    if code > maxFin f then overF f neg sat else code + signBit f neg

/-- An FP32 encoding. -/
abbrev F32 := Nat

def f32 (n : Num) : F32 := encodeF ffFp32 .rne false n
def val32 (x : F32) : Num := decodeF ffFp32 x

/-- Sign and magnitude as an integer at exponent `e0`. -/
def atExp (neg : Bool) (m : Nat) (e e0 : Int) : Int := (if neg then -1 else 1) * (m * 2 ^ (e - e0).toNat : Nat)

def ofInt (i : Int) (e : Int) : Num := .fin (i < 0) i.natAbs e

/-- The exact sum. -/
def addN : Num → Num → Num
  | .nan, _ => .nan
  | _, .nan => .nan
  | .inf a, .inf b => if a = b then .inf a else .nan
  | .inf a, _ => .inf a
  | _, .inf b => .inf b
  | .fin n1 m1 e1, .fin n2 m2 e2 =>
    let e := min e1 e2
    let i := atExp n1 m1 e1 e + atExp n2 m2 e2 e
    if i = 0 then .fin (n1 && n2) 0 e else ofInt i e

/-- The exact product. -/
def mulN : Num → Num → Num
  | .nan, _ => .nan
  | _, .nan => .nan
  | .inf a, .inf b => .inf (a != b)
  | .inf a, .fin n m _ => if m = 0 then .nan else .inf (a != n)
  | .fin n m _, .inf b => if m = 0 then .nan else .inf (n != b)
  | .fin n1 m1 e1, .fin n2 m2 e2 => .fin (n1 != n2) (m1 * m2) (e1 + e2)

def negN : Num → Num
  | .nan => .nan
  | .inf a => .inf !a
  | .fin n m e => .fin (!n) m e

/-- The value times 2^k. -/
def scaleN (k : Int) : Num → Num
  | .fin n m e => .fin n m (e + k)
  | x => x

/-- Exact quotient to 80 bits, its last bit odd where it is not exact: enough for every rounding above. -/
def divN : Num → Num → Num
  | .nan, _ => .nan
  | _, .nan => .nan
  | .inf _, .inf _ => .nan
  | .inf a, .fin n _ _ => .inf (a != n)
  | .fin n _ _, .inf b => .fin (n != b) 0 0
  | .fin n1 m1 e1, .fin n2 m2 e2 =>
    if m2 = 0 then (if m1 = 0 then .nan else .inf (n1 != n2))
    else
      let k := 80 + Nat.log2 m2
      let q := m1 * 2 ^ k / m2
      .fin (n1 != n2) (2 * q + (if m1 * 2 ^ k % m2 = 0 then 0 else 1)) (e1 - e2 - k - 1)

def isNan : Num → Bool | .nan => true | _ => false

/-- Order of two values that are not NaN: −0 equals +0. -/
def ltN : Num → Num → Bool
  | .inf true, .inf true => false
  | .inf true, .nan => false
  | .inf true, _ => true
  | .inf false, _ => false
  | .fin _ _ _, .inf b => !b
  | .fin n1 m1 e1, .fin n2 m2 e2 => let e := min e1 e2; decide (atExp n1 m1 e1 e < atExp n2 m2 e2 e)
  | _, _ => false

def eqN (a b : Num) : Bool := !isNan a && !isNan b && !ltN a b && !ltN b a

def isNeg : Num → Bool | .fin n _ _ => n | .inf n => n | .nan => false

/-- Min and max of the plane (Table ARR-9): the operand that is not NaN, −0 below +0. -/
def minN (a b : Num) : Num :=
  if isNan a then b else if isNan b then a else if ltN a b then a else if ltN b a then b else if isNeg a then a else b
def maxN (a b : Num) : Num :=
  if isNan a then b else if isNan b then a else if ltN a b then b else if ltN b a then a else if isNeg a then b else a

/-! ## FP32 operations of the plane, correctly rounded -/

def add32 (a b : F32) : F32 := f32 (addN (val32 a) (val32 b))
def mul32 (a b : F32) : F32 := f32 (mulN (val32 a) (val32 b))
def fma32 (a b c : F32) : F32 := f32 (addN (mulN (val32 a) (val32 b)) (val32 c))
def neg32 (a : F32) : F32 := a ^^^ 2 ^ 31
def sub32 (a b : F32) : F32 := add32 a (neg32 b)

/-- `x` moved by `k` places among the FP32 values of its sign, staying finite or infinite as the neighbours are. -/
def nudge (x : F32) (k : Int) : F32 :=
  let s := x / 2 ^ 31 * 2 ^ 31
  let mag : Int := x % 2 ^ 31
  if x % 2 ^ 31 > 0x7F800000 then x else s + (max 0 (min 0x7F800000 (mag + k))).toNat

/-- One of the FP32 values within `u` units in the last place of the reference: which one is free (R266). -/
def within (u seed idx : Nat) (x : F32) : F32 :=
  nudge x ((Config.pick2 seed idx % (2 * u + 1) : Nat) - (u : Int))

/-- ln 2 in 96 fraction bits. -/
def ln2fix : Nat := 54916777467707473351141471128

/-- e^(y / 2^96) in 96 fraction bits, by `k` terms of the series from the n-th on. -/
def expSeries (y : Nat) : Nat → Nat → Nat → Nat
  | 0, _, _ => 0
  | k + 1, n, t => t + expSeries y k (n + 1) (t * y / 2 ^ 96 / (n + 1))

/-- The reference of 2^x. -/
def exp2Ref : Num → Num
  | .nan => .nan
  | .inf n => if n then .fin false 0 0 else .inf false
  | .fin neg m e =>
    if m = 0 then .fin false 1 0
    else if e + Nat.log2 m > 10 then (if neg then .fin false 0 0 else .inf false)
    else
      let fx : Int := (if neg then -1 else 1) * (if e + 96 ≥ 0 then (m * 2 ^ (e + 96).toNat : Nat) else (m / 2 ^ (-(e + 96)).toNat : Nat) : Int)
      let n := fx / 2 ^ 96
      let fr := (fx - n * 2 ^ 96).toNat
      .fin false (expSeries (fr * ln2fix / 2 ^ 96) 40 0 (2 ^ 96)) (n - 96)

/-- Fraction bits of log2 of v / 2^96 in [1, 2), by repeated squaring. -/
def log2Bits : Nat → Nat → Nat
  | 0, _ => 0
  | k + 1, v =>
    let v := v * v / 2 ^ 96
    if v ≥ 2 ^ 97 then 2 ^ k + log2Bits k (v / 2) else log2Bits k v

/-- The reference of log2 x. -/
def log2Ref : Num → Num
  | .nan => .nan
  | .inf n => if n then .nan else .inf false
  | .fin neg m e =>
    if m = 0 then .inf true
    else if neg then .nan
    else
      let l := Nat.log2 m
      let v := if l ≤ 96 then m * 2 ^ (96 - l) else m / 2 ^ (l - 96)
      ofInt ((e + l) * 2 ^ 64 + log2Bits 64 v) (-64)

/-- The reference of 1 / √x. -/
def rsqrtRef : Num → Num
  | .nan => .nan
  | .inf n => if n then .nan else .fin false 0 0
  | .fin neg m e =>
    if m = 0 then .inf neg
    else if neg then .nan
    else
      let (m, e) := if e % 2 = 0 then (m, e) else (2 * m, e - 1)
      let k := 100 + Nat.log2 m
      .fin false (Nat.sqrt (2 ^ (2 * k) / m) * 2 + 1) (-(e / 2) - k - 1)

/-- exp2 and log2 within 2 ULP, reciprocal and reciprocal square root within 1 ULP (Table ARR-9); natural exponent and
logarithm within 3 ULP, quotient and square root within 2 (R267). `seed` and `idx` name the free choice. -/
def exp2P (seed idx : Nat) (x : F32) : F32 := within 2 seed idx (f32 (exp2Ref (val32 x)))
def log2P (seed idx : Nat) (x : F32) : F32 := within 2 seed idx (f32 (log2Ref (val32 x)))
def recipP (seed idx : Nat) (x : F32) : F32 := within 1 seed idx (f32 (divN (.fin false 1 0) (val32 x)))
def rsqrtP (seed idx : Nat) (x : F32) : F32 := within 1 seed idx (f32 (rsqrtRef (val32 x)))
def log2e : Num := .fin false 26613026195688644984 (-64)
def ln2 : Num := .fin false ln2fix (-96)
def expP (seed idx : Nat) (x : F32) : F32 := within 3 seed idx (f32 (exp2Ref (mulN (val32 x) log2e)))
def lnP (seed idx : Nat) (x : F32) : F32 := within 3 seed idx (f32 (mulN (log2Ref (val32 x)) ln2))
def divP (seed idx : Nat) (a b : F32) : F32 := within 2 seed idx (f32 (divN (val32 a) (val32 b)))
def sqrtP (seed idx : Nat) (x : F32) : F32 :=
  if x % 2 ^ 31 = 0 then x else within 2 seed idx (f32 (mulN (val32 x) (rsqrtRef (val32 x))))

/-! ## Sums in an order that the spec leaves open (R248) -/

/-- `x` put at a free place of `l`. -/
def insertFree {α : Type} (seed : Nat) (x : α) (l : List α) : List α :=
  let k := Config.pick2 seed l.length % (l.length + 1)
  l.take k ++ x :: l.drop k

/-- The list in some order. -/
def someOrder {α : Type} (seed : Nat) : List α → List α
  | [] => []
  | x :: l => insertFree seed x (someOrder seed l)

/-- The terms added two by two along some tree; `node` numbers the tree's nodes. -/
def treeSum {α : Type} (add : α → α → α) (zero : α) (seed : Nat) : Nat → Nat → List α → α
  | 0, _, l => l.foldl add zero
  | _, _, [] => zero
  | _, _, [x] => x
  | fuel + 1, node, l =>
    let k := 1 + Config.pick2 seed node % (l.length - 1)
    add (treeSum add zero seed fuel (2 * node) (l.take k)) (treeSum add zero seed fuel (2 * node + 1) (l.drop k))

/-- An FP32 sum of the terms in some order, along some tree (R248). -/
def sum32 (seed : Nat) (l : List F32) : F32 := treeSum add32 0 seed l.length 1 (someOrder seed l)

/-! ## Formats (Table ARR-3) -/

def fmRaw : Nat := 0x00
def fmFp32 : Nat := 0x01
def fmBf16 : Nat := 0x02
def fmFp16 : Nat := 0x03
def fmE4m3 : Nat := 0x04
def fmE5m2 : Nat := 0x05
def fmInt8 : Nat := 0x06
def fmInt4 : Nat := 0x07
def fmInt32 : Nat := 0x08
def fmInt64 : Nat := 0x09
def fmMx8e4 : Nat := 0x10
def fmMx8e5 : Nat := 0x11
def fmMx6e3 : Nat := 0x12
def fmMx6e2 : Nat := 0x13
def fmMx4 : Nat := 0x14

/-- Element bits of a format; 0: RAW or reserved. -/
def fmBits (f : Nat) : Nat :=
  match f with
  | 0x01 | 0x08 => 32
  | 0x02 | 0x03 => 16
  | 0x04 | 0x05 | 0x06 | 0x10 | 0x11 => 8
  | 0x07 | 0x14 => 4
  | 0x09 => 64
  | 0x12 | 0x13 => 6
  | _ => 0

def isMx (f : Nat) : Bool := 0x10 ≤ f && f ≤ 0x14
def isInt (f : Nat) : Bool := 6 ≤ f && f ≤ 9
def isFp8 (f : Nat) : Bool := f == fmE4m3 || f == fmE5m2

/-- The floating-point format of a code's elements. -/
def ffOf (f : Nat) : FF :=
  match f with
  | 0x01 => ffFp32
  | 0x02 => ffBf16
  | 0x03 => ffFp16
  | 0x04 | 0x10 => ffE4m3
  | 0x05 | 0x11 => ffE5m2
  | 0x12 => ffE3m2
  | 0x13 => ffE2m3
  | _ => ffE2m1

/-- Bytes that `n` packed elements take (R240). -/
def elemBytes (f n : Nat) : Nat := if fmBits f = 6 then ceilDiv n 4 * 3 else ceilDiv (n * fmBits f) 8

/-- Bytes of an operand of `n` elements: an MX operand carries its scale region from the next 64-byte boundary (R241). -/
def operandBytes (f n : Nat) : Nat :=
  if isMx f then ceilDiv (elemBytes f n) 64 * 64 + ceilDiv n 32 else elemBytes f n

/-- Bits `lo` to `lo + w - 1` of a byte string. -/
def bitsAt (bs : List Byte) (lo w : Nat) : Nat :=
  leNat ((bs.drop (lo / 8)).take 9) / 2 ^ (lo % 8) % 2 ^ w

/-- The bits of element `i` (R240). -/
def rawElem (f : Nat) (bs : List Byte) (i : Nat) : Nat := bitsAt bs (i * fmBits f) (fmBits f)

/-- The E8M0 scale byte of the block of element `i`; 127 in a format without scales (R242). -/
def scaleOf (f n : Nat) (bs : List Byte) (i : Nat) : Nat :=
  if isMx f then ((bs[ceilDiv (elemBytes f n) 64 * 64 + i / 32]?).map (·.toNat)).getD 0 else 127

/-- The element as the grid takes it, its block scale aside: a scale of 0xFF makes it NaN (R242). -/
def unscaled (f n : Nat) (bs : List Byte) (i : Nat) : Num :=
  if scaleOf f n bs i = 0xFF then .nan else decodeF (ffOf f) (rawElem f bs i)

/-- The value of element `i` of an operand of `n` elements. -/
def elemN (f n : Nat) (bs : List Byte) (i : Nat) : Num :=
  if isInt f then ofInt (sgn (fmBits f) (rawElem f bs i)) 0
  else scaleN ((scaleOf f n bs i : Int) - 127) (unscaled f n bs i)

/-- The integer element `i`. -/
def elemI (f : Nat) (bs : List Byte) (i : Nat) : Int := sgn (fmBits f) (rawElem f bs i)

/-- An element encoded in a format without scales, as bytes (R246): INT8 from INT32 saturates. -/
def outElem (f : Nat) (r : Rnd) (sat : Bool) (x : Num) : List Byte :=
  leBytes (fmBits f / 8) (encodeF (ffOf f) r (sat && (isFp8 f || f == fmFp16)) x)

def clampI (lo hi x : Int) : Int := max lo (min hi x)

/-- An integer as a two's complement number of `w` bits. -/
def wrapI (w : Nat) (x : Int) : Nat := (x % 2 ^ w).toNat

/-! ## The plane's other operations (Table ARR-9)

Operators reach these through microcode, which the spec does not give; no rule names a place where one is used alone. -/

/-- Packed BF16 operations, correctly rounded to BF16. -/
def addBf (a b : Nat) : Nat := encodeF ffBf16 .rne false (addN (decodeF ffBf16 a) (decodeF ffBf16 b))
def mulBf (a b : Nat) : Nat := encodeF ffBf16 .rne false (mulN (decodeF ffBf16 a) (decodeF ffBf16 b))
def fmaBf (a b c : Nat) : Nat := encodeF ffBf16 .rne false (addN (mulN (decodeF ffBf16 a) (decodeF ffBf16 b)) (decodeF ffBf16 c))

/-- INT32 operations, exact modulo 2^32. -/
inductive IOp where
  | add | sub | mul | shl | shr | sar | and | or | xor
  deriving DecidableEq, Repr

def int32 (o : IOp) (a b : BitVec 32) : BitVec 32 :=
  match o with
  | .add => a + b
  | .sub => a - b
  | .mul => a * b
  | .shl => a <<< b.toNat
  | .shr => a >>> b.toNat
  | .sar => a.sshiftRight b.toNat
  | .and => a &&& b
  | .or => a ||| b
  | .xor => a ^^^ b

/-- Compare and select: −0 equals +0, and a NaN is below and equal to nothing. -/
def lt32 (a b : F32) : Bool := !isNan (val32 a) && !isNan (val32 b) && ltN (val32 a) (val32 b)
def eq32 (a b : F32) : Bool := eqN (val32 a) (val32 b)
def select32 (c : Bool) (a b : F32) : F32 := if c then a else b
def min32 (a b : F32) : F32 := f32 (minN (val32 a) (val32 b))

/-- The sum of 512 lanes along one tree, the same for every sum: the spec fixes the tree and does not draw it. The largest and the
smallest lane. -/
def laneSum (l : List F32) : F32 := treeSum add32 0 0 l.length 1 l
def laneMax (l : List F32) : F32 := l.foldl (fun a b => f32 (maxN (val32 a) (val32 b))) 0xFF800000
def laneMin (l : List F32) : F32 := l.foldl min32 0x7F800000

/-- A compare-exchange step of a sorting network on the lanes `i` and `j`: the smaller value goes to `i`. -/
def cmpExchange (l : List F32) (i j : Nat) : List F32 :=
  let a := l.getD i 0
  let b := l.getD j 0
  if lt32 b a then (l.set i b).set j a else l

/-- A value as an integer, to nearest with ties to even; none for NaN and infinities. -/
def toInt : Num → Option Int
  | .fin neg m e =>
    let q := if 0 ≤ e then m * 2 ^ e.toNat else roundShift .rne neg m (-e).toNat
    some (if neg then -(q : Int) else q)
  | _ => none

/-- An element of format `fi` converted to format `fo` (R246, R247): block scales aside. A value that an integer format does not
hold saturates from INT32 to INT8; elsewhere the spec states no result, and `free` stands for it. -/
def convert (fi fo : Nat) (r : Rnd) (sat : Bool) (free x : Nat) : Nat :=
  let v : Num := if isInt fi then ofInt (sgn (fmBits fi) x) 0 else decodeF (ffOf fi) x
  if isInt fo then
    let w := fmBits fo
    match toInt v with
    | none => free
    | some i =>
      if -(2 ^ (w - 1)) ≤ i ∧ i < 2 ^ (w - 1) then wrapI w i
      else if fi = fmInt32 ∧ fo = fmInt8 then wrapI 8 (clampI (-128) 127 i) else free
  else encodeF (ffOf fo) r (sat && (isFp8 fo || fo == fmFp16)) v

/-- Elements in MX form: per block of 32 the scale is the largest exponent less the format's largest (Table ARR-9), and
the elements are rounded with saturation. The result is (element codes, scales). -/
def toMx (f : FF) (xs : List Num) : List Nat × List Nat :=
  let emax : Int := (maxFin f / 2 ^ f.mb : Nat) - (f.bias : Int)
  let blocks := (List.range (ceilDiv xs.length 32)).map fun b => (xs.drop (32 * b)).take 32
  let one (b : List Num) : List Nat × Nat :=
    if b.any (fun x => match x with | .fin _ _ _ => false | _ => true) then (b.map fun _ => 0, 0xFF)
    else
      let ex := b.foldl (fun (a : Option Int) x => match x with
        | .fin _ m e => if m = 0 then a else some (match a with | none => e + Nat.log2 m | some y => max y (e + Nat.log2 m))
        | _ => a) none
      let sc : Nat := match ex with | none => 0 | some y => (max 0 (min 254 (y - emax + 127))).toNat
      (b.map fun x => encodeF f .rne true (scaleN (127 - (sc : Int)) x), sc)
  let r := blocks.map one
  ((r.map (·.1)).flatten, r.map (·.2))

end Sys2Proof.Machine
end

