-- ==== Sys2Proof/Machine/Uses.lean ====
section
/-! DEFINITION. Uses.lean: what each opcode makes of its slots (Tables QUE-7, ARR-5, ATT-2, ATT-3, ATT-5, ATT-7, ATT-9,
EMB-3 to EMB-5, VSC-4, VSC-5, NMO-6) and the checks of R104 that need the descriptor alone. -/
namespace Sys2Proof.Machine

/-- Every opcode of Table QUE-6. -/
def knownOpcode (o : Nat) : Bool := o ≤ 4 || (0x100 ≤ o && o ≤ 0x105) || (0x200 ≤ o && o ≤ 0x205) || (0x300 ≤ o && o ≤ 0x302)
  || (0x400 ≤ o && o ≤ 0x403) || o == 0x500

/-- Access sets: read 1, write 2. No opcode of Table QUE-6 takes the atomic right. -/
def accR : Nat := 1
def accW : Nat := 2
def accRW : Nat := 3

/-- The kind of an ADVISE and the operations of KV_LEASE and EMB_SWITCH: OPSPEC[3:1]. -/
def subOp (d : Desc) : Nat := ops0 d 1 3

/-- Slots that an opcode uses as store operands, with their access sets. -/
def operandsOf (d : Desc) : List (Nat × Nat) :=
  let o := opcode d
  if o = ocPublish ∨ o = ocAdvise then [(0, accR)]
  else if o = ocFill then [(0, accW)]
  else if o = ocCopy then [(0, accR), (1, accW)]
  else if o = ocCompare then [(0, accR), (1, accR)]
  else if o = ocReduce then [(0, accR), (1, accR), (2, accR), (3, accR), (4, accW)]
  else if o = ocPrefetch then [(1, if ops0 d 1 1 = 1 then accR else accW)]
  else if o = ocGemm then [(0, accR), (1, accR), (2, accR), (3, accR), (4, if ops0 d 3 1 = 1 then accRW else accW)]
  else if o = ocAttn then [(0, accR), (1, accR), (2, accW), (3, accW)]
  else if o = ocKvAppend ∨ o = ocLayer ∨ o = ocEmbUpdate then [(0, accR), (1, accR)]
  else if o = ocExpert then [(0, accR), (1, accR), (2, accR), (3, accR), (4, if ops0 d 6 1 = 1 then accRW else accW)]
  else if o = ocEmbGather then [(0, accR), (1, accR), (2, accR), (3, accW)]
  else if o = ocEmbSwitch then (if subOp d = 0 ∨ subOp d = 3 then [(0, accR)] else [])
  else if o = ocVinsert then [(0, accR), (1, accR), (2, accR), (3, accW)]
  else if o = ocVdelete then [(0, accR), (1, accW)]
  else if o = ocVscan then [(0, accR), (1, accW), (2, accW)]
  else if o = ocVrerank then [(0, accR), (1, accR), (2, accW)]
  else if o = ocScribe then
    (if ops0 d 6 2 = 0 then [(0, accR)]
     else if ops0 d 8 1 = 1 then [(0, accR), (1, accW), (2, accR)] else [(0, accR), (1, accW)])
  else []

/-- The operator's chapter lets it write COHERENT extents (Table STO-5, R110, R393). -/
def cohWriter (o : Nat) : Bool := o == ocFill || o == ocCopy || o == ocReduce || o == ocPrefetch

/-- Bits of the opcode-specific word that the opcode defines; the others are reserved. -/
def opspecBits (d : Desc) : Nat :=
  let o := opcode d
  if o = ocCut ∨ o = ocPrefetch ∨ o = ocAttn ∨ o = ocEmbUpdate then 0x3
  else if o = ocFill then 0x7
  else if o = ocCopy then (if ops0 d 1 1 = 1 then 0x13F else 0x1)
  else if o = ocReduce ∨ o = ocAdvise ∨ o = ocEmbSwitch then 0xF
  else if o = ocGemm ∨ o = ocExpert then 0x7F
  else if o = ocKvLease ∨ o = ocEmbGather then 0x1F
  else if o = ocScribe then 0x1FF
  else 0x1

/-- Bytes of parameter slots that must be zero: (first byte, count). -/
def zeroBytes (d : Desc) : List (Nat × Nat) :=
  let o := opcode d
  if o = ocPublish then [(60, 4)]
  else if o = ocCut ∨ o = ocFill then [(120, 8)]
  else if o = ocCopy then (if ops0 d 1 1 = 1 then [] else [(112, 16)])
  else if o = ocAttn then [(124, 4)]
  else if o = ocKvAppend then [(117, 11)]
  else if o = ocKvLease then
    match subOp d with
    | 0 => [(62, 2), (64, 16)]
    | 3 => [(56, 8), (68, 12)]
    | 4 => [(48, 16), (73, 7)]
    | _ => [(48, 16), (68, 12)]
  else if o = ocExpert then [(115, 1), (124, 4)]
  else if o = ocLayer then [(85, 11)]
  else if o = ocEmbGather ∨ o = ocVinsert then [(114, 14)]
  else if o = ocEmbUpdate then [(114, 2), (120, 8)]
  else if o = ocEmbSwitch then (if subOp d ≤ 1 then [(114, 2), (120, 8)] else [(114, 14)])
  else if o = ocVscan then [(115, 1), (118, 2)]
  else if o = ocVrerank then [(115, 1), (118, 2), (120, 8)]
  else []

/-- An identifier field with reserved high bits is in range: TABLE and COLL of 12 bits, REGION of 14 and HOME of 10. -/
def idHigh (d : Desc) : Bool :=
  let o := opcode d
  if o = ocPublish then par d 56 2 / 2 ^ 14 != 0 || par d 58 2 / 2 ^ 10 != 0
  else if (0x300 ≤ o && o ≤ 0x302) || (0x400 ≤ o && o ≤ 0x403) then par d 112 2 / 2 ^ 12 != 0
  else false

/-- Slots whose reserved bits are checked: the operands, and slot 0 of PREFETCH. -/
def checkedSlots (d : Desc) : List Nat := (operandsOf d).map (·.1) ++ (if opcode d = ocPrefetch then [0] else [])

/-- A reserved field of the header or of a used slot is not zero (substatus 0x0021). -/
def reservedSet (d : Desc) : Bool :=
  bget d ⟨22, 10⟩ != 0
  || (checkedSlots d).any (fun i => opF d i ⟨105, 7⟩ != 0)
  || (ops0 d 0 16 &&& (0xFFFF - opspecBits d)) != 0
  || (zeroBytes d).any (fun z => par d z.1 z.2 != 0)
  || idHigh d

/-- Format codes of Table ARR-3. -/
def knownFmt (f : Nat) : Bool := f ≤ 9 || (0x10 ≤ f && f ≤ 0x14)

/-- The formats that an opcode accepts in a slot (R238); a slot of raw bytes takes any code of Table ARR-3. -/
def fmtOk (d : Desc) (i : Nat) : Bool :=
  let o := opcode d
  let f := opF d i OPND.FMT
  let fp8s := [fmE4m3, fmE5m2, fmMx8e4, fmMx8e5]
  let small := [fmMx6e3, fmMx6e2, fmMx4]
  let ws := fp8s ++ small ++ [fmInt8, fmInt4, fmBf16, fmFp16]
  if o = ocReduce then [fmFp32, fmBf16, fmE4m3, fmE5m2, fmInt32, fmInt64].contains f
  else if o = ocGemm then
    let a := opF d 0 OPND.FMT
    match i with
    | 0 => ws.contains f
    | 1 =>
      if fp8s.contains a || small.contains a then (fp8s ++ small).contains f
      else if isInt a then f == fmInt8 || f == fmInt4
      else f == a
    | 4 => if isInt a then f == fmInt32 || f == fmInt8 else [fmFp32, fmBf16, fmFp16, fmE4m3, fmE5m2].contains f
    | _ => f == fmRaw
  else if o = ocAttn then
    match i with
    | 0 | 2 => [fmBf16, fmFp16, fmFp32].contains f
    | 1 => f == fmRaw
    | _ => f == fmFp32
  else if o = ocKvAppend then [fmE4m3, fmE5m2, fmBf16, fmFp16, fmFp32].contains f
  else if o = ocExpert then
    match i with
    | 0 => [fmBf16, fmE4m3, fmMx8e4].contains f
    | 1 | 4 => f == fmBf16 || f == fmFp32
    | _ => ws.contains f
  else if o = ocLayer then f == fmRaw
  else if o = ocEmbGather then
    match i with
    | 0 => f == fmInt32 || f == fmInt64
    | 1 => f == fmInt32
    | 2 => f == fmFp32
    | _ => [fmFp32, fmBf16, fmFp16].contains f
  else if o = ocEmbUpdate then (if i = 0 then f == fmInt32 || f == fmInt64 else f == fmFp32 || f == fmBf16)
  else if o = ocEmbSwitch then (if subOp d = 3 then f == fmInt64 else knownFmt f)
  else if o = ocVinsert || o = ocVscan || o = ocVrerank then (if i = 0 then f == fmInt8 || f == fmRaw else f == fmRaw)
  else if o = ocVdelete then f == fmRaw
  else knownFmt f

/-! ## Sizes -/

/-- Logical tiles of SPARSE_GEMM. -/
def gemmM (d : Desc) : Nat := par d 112 4
def gemmN (d : Desc) : Nat := par d 116 4
def gemmK (d : Desc) : Nat := par d 120 4
def gemmSpar (d : Desc) : Nat := ops0 d 1 2

/-- Stored bytes of `n` weights of format `f` with their scales over blocks of `blk` elements (R241, R249). -/
def weightBytes (f n scales : Nat) : Nat := if isMx f then ceilDiv (elemBytes f n) 64 * 64 + scales else elemBytes f n

/-- R256. -/
def gemmBad (d : Desc) : Bool :=
  let m := gemmM d
  let n := gemmN d
  let k := gemmK d
  let dim (x : Nat) : Bool := decide (x < 64 ∨ 2 ^ 20 < x) || x % 64 != 0
  decide (m < 1 ∨ 2 ^ 20 < m) || dim n || dim k
  || (par d 124 4 != 0 && ops0 d 4 1 == 0)
  || gemmSpar d == 3
  || opLen d 0 != operandBytes (opF d 0 OPND.FMT) (m * k)
  || opLen d 4 != operandBytes (opF d 4 OPND.FMT) (m * n)
  || ((opLen d 2 == 0) == (gemmSpar d != 0))
  || (opLen d 3 != 0 && opLen d 3 != ceilDiv (k * n / 4096) 8)

/-- EXPERT_FFN parameters (Table ATT-7). -/
def ffnE (d : Desc) : Nat := par d 112 2
def ffnTopk (d : Desc) : Nat := par d 114 1
def ffnDm (d : Desc) : Nat := par d 116 4
def ffnF (d : Desc) : Nat := par d 120 4

/-- Tokens of EXPERT_FFN: what slot 0 holds in whole rows. -/
def ffnT (d : Desc) : Nat :=
  let x := opF d 0 OPND.FMT
  let dm := if ffnDm d = 0 then 1 else ffnDm d
  if isMx x then opLen d 0 * 32 / 33 / dm else opLen d 0 * 8 / fmBits x / dm

/-- Bytes of one expert's `k` × `n` block, and its stride. -/
def expertBytes (f k n : Nat) : Nat := weightBytes f (k * n) (k / 32 * n)
def expertStride (f k n : Nat) : Nat := ceilDiv (expertBytes f k n) 4096 * 4096

/-- R306; T tokens of DM elements, scale region of the whole of X included. Slot 3 has the format of slot 2 (Table ATT-7). -/
def ffnBad (d : Desc) : Bool :=
  let e := ffnE d
  let dm := ffnDm d
  let f := ffnF d
  let x := opF d 0 OPND.FMT
  let t := ffnT d
  decide (e < 1 ∨ 256 < e) || decide (ffnTopk d < 1 ∨ 8 < ffnTopk d ∨ e < ffnTopk d)
  || decide (dm < 64 ∨ 16384 < dm) || dm % 64 != 0 || decide (f < 64 ∨ 65536 < f) || f % 64 != 0
  || decide (t < 1 ∨ 65536 < t) || opLen d 0 != operandBytes x (t * dm)
  || opLen d 1 != operandBytes (opF d 1 OPND.FMT) (dm * e)
  || opLen d 2 != e * expertStride (opF d 2 OPND.FMT) dm (2 * f)
  || opLen d 3 != e * expertStride (opF d 3 OPND.FMT) f dm || opF d 3 OPND.FMT != opF d 2 OPND.FMT
  || opLen d 4 != operandBytes (opF d 4 OPND.FMT) (t * dm)
  || ops0 d 3 2 == 3 || decide (2 ≤ ops0 d 1 2)

/-- KV_LEASE (Table ATT-2). -/
def leaseBad (d : Desc) : Bool :=
  decide (4 < subOp d) || (subOp d == 0 &&
    (par d 56 2 == 0 || !([fmE4m3, fmE5m2, fmBf16, fmFp16].contains (par d 59 1)) || decide (par d 60 1 < 1 ∨ 64 < par d 60 1)
      || decide (2 < par d 61 1)))

/-- Row indices of an embedding opcode. -/
def embN (d : Desc) : Nat := opLen d 0 / (fmBits (opF d 0 OPND.FMT) / 8)
def embPool (d : Desc) : Nat := ops0 d 1 3
def embNbag (d : Desc) : Nat := opLen d 1 / 4 - 1

def embNBad (d : Desc) : Bool :=
  opLen d 0 % (fmBits (opF d 0 OPND.FMT) / 8) != 0 || decide (embN d < 1 ∨ 2 ^ 20 < embN d)

/-- EMB_GATHER (R331), its output aside. -/
def gatherBad (d : Desc) : Bool :=
  embNBad d || decide (4 < embPool d)
  || (if embPool d = 0 then opLen d 1 != 0
      else opLen d 1 % 4 != 0 || decide (opLen d 1 < 8 ∨ 65536 < embNbag d))
  || opLen d 2 != (if embPool d = 4 then 4 * embN d else 0)
  || opLen d 3 == 0

/-- Parameters of a scan. -/
def scanMetric (d : Desc) : Nat := par d 114 1
def scanK (d : Desc) : Nat := par d 116 2
def scanLmask (d : Desc) : Nat := par d 120 4
def scanLval (d : Desc) : Nat := par d 124 4

/-- SCRIBE_RUN (R413). -/
def scribeBad (d : Desc) : Bool :=
  let b := if ops0 d 6 2 = 1 then 512 else 4096
  ops0 d 1 1 == 1 || ops0 d 2 2 == 3 || ops0 d 4 2 == 3 || ops0 d 6 2 == 3
  || (ops0 d 6 2 != 0 && (opLen d 0 % b != 0
      || (opLen d 1 != 0 && opLen d 1 != opLen d 0 / b * 8)
      || (ops0 d 8 1 == 1 && opLen d 2 != opLen d 0 / b * 8)
      || (ops0 d 8 1 == 0 && opLen d 1 == 0)))

/-- REDUCE (R400, R401). -/
def reduceBad (d : Desc) : Bool :=
  let n := opLen d 4
  let f := opF d 4 OPND.FMT
  let op := ops0 d 1 3
  let groups := (List.range 4).filter fun i => opLen d i != 0
  n == 0 || decide (5 < op) || n % (fmBits f / 8) != 0 || (decide (2 < op) && !isInt f)
  || groups.any (fun i => opLen d i % n != 0 || opF d i OPND.FMT != f)
  || (let k := (groups.map fun i => opLen d i / n).sum; decide (k < 1 ∨ 16 < k))

/-- A field lies outside its stated range (substatus 0x0023), as far as the descriptor alone shows it. -/
def rangeBad (d : Desc) : Bool :=
  let o := opcode d
  hd d ⟨DHDR.TARGET.lo + 64, 16⟩ != 0
  || (operandsOf d).any (fun u => opF d u.1 OPND.HOST == 1 || (opLen d u.1 != 0 && !fmtOk d u.1))
  || (if o = ocFill then opLen d 0 == 0
      else if o = ocCopy then
        opLen d 0 != opLen d 1 || (ops0 d 1 1 == 1 && (ops0 d 2 2 == 3 || ops0 d 4 2 == 3))
      else if o = ocCompare then opLen d 0 != opLen d 1
      else if o = ocPrefetch then opLen d 0 != opLen d 1 || opF d 0 OPND.HOST == 0 || !knownFmt (opF d 0 OPND.FMT)
      else if o = ocAdvise then decide (4 < subOp d)
      else if o = ocReduce then reduceBad d
      else if o = ocGemm then gemmBad d
      else if o = ocKvAppend then opLen d 0 == 0 || opLen d 0 != opLen d 1 || opF d 0 OPND.FMT != opF d 1 OPND.FMT
      else if o = ocKvLease then leaseBad d
      else if o = ocAttn then opLen d 1 % 8 != 0 || decide (opLen d 1 / 8 < 1 ∨ 1024 < opLen d 1 / 8)
      else if o = ocExpert then ffnBad d
      else if o = ocLayer then
        decide (par d 84 1 < 1 ∨ 8 < par d 84 1) || opLen d 1 % 8 != 0 || decide (opLen d 1 / 8 < 2 ∨ 1025 < opLen d 1 / 8)
      else if o = ocEmbGather then gatherBad d
      else if o = ocEmbUpdate then embNBad d
      else if o = ocEmbSwitch then decide (4 < subOp d) || (subOp d == 3 && opLen d 0 % 8 != 0)
      else if o = ocVinsert then opLen d 0 == 0
      else if o = ocVdelete then
        opLen d 0 % 16 != 0 || decide (opLen d 0 / 16 < 1 ∨ 2 ^ 20 < opLen d 0 / 16)
        || (opLen d 1 != 0 && opLen d 1 != opLen d 0 / 16)
      else if o = ocVscan then
        decide (scanK d < 1 ∨ 256 < scanK d) || (scanLval d &&& (2 ^ 32 - 1 - scanLmask d)) != 0 || opLen d 0 == 0
        || (opLen d 2 != 0 && opLen d 2 != 16)
      else if o = ocVrerank then decide (scanK d < 1 ∨ 256 < scanK d) || opLen d 0 == 0
      else if o = ocScribe then scribeBad d
      else false)

/-- The substatus of R104 for a descriptor on a privileged or a tenant queue; 0 where it passes. -/
def headerCheck (d : Desc) (prv : Bool) : Nat :=
  if !knownOpcode (opcode d) then 0x0020
  else if reservedSet d then 0x0021
  else if opcode d = ocCut ∧ !prv then 0x0022
  else if rangeBad d then 0x0023
  else 0

end Sys2Proof.Machine
end

