-- ==== Sys2Proof/Machine/KvOps.lean ====
section
/-! DEFINITION. KvOps.lean: key/value pools, lease records, handles and the layout of blocks and layer maps (R275 to R288). -/
namespace Sys2Proof.Machine

/-! ## Pools (R275, R276) -/

/-- SLOT, the slot size in 4 KiB units. -/
def kvSlot (s : State) (t : Nat) : Nat := getF s TEN_KVPOOL.SLOT t

/-- Slots per extent. -/
def kvSpe (s : State) (t : Nat) : Nat := 262144 / kvSlot s t

/-- Slots of a tenant's pool. -/
def kvSlots (s : State) (t : Nat) : Nat := getF s TEN_KVPOOL.COUNT t * kvSpe s t

/-- Free slots of a tenant's pool (TEN_KVSTAT.FREE). -/
def kvFree (s : State) (t : Nat) : Nat := kvSlots s t - (s.kv.slots.filter fun e => e.1 / 2 ^ 32 == t).length

/-- The SA of slot `k`. -/
def kvSlotSa (s : State) (t k : Nat) : Nat :=
  mkSa (own s) (getF s TEN_KVPOOL.TIER t) ((getF s TEN_KVPOOL.FIRST t + k / kvSpe s t) * 2 ^ 30 + k % kvSpe s t * kvSlot s t * 4096)

/-- `n` free slots taken for a lease, whichever are free. -/
def kvTake (s : State) (t lease n : Nat) : List Nat × State :=
  (List.range n).foldl (fun (acc : List Nat × State) _ =>
    let s := acc.2
    let tot := kvSlots s t
    let used (k : Nat) : Bool := (mget s.kv.slots (t * 2 ^ 32 + k)).isSome
    let c := Config.pick s.fresh % tot
    let k := if used c then (firstFree tot used).getD 0 else c
    (acc.1 ++ [k], { s with fresh := s.fresh + 1, kv := { s.kv with slots := mput s.kv.slots (t * 2 ^ 32 + k) lease } })) ([], s)

/-- Slots returned to the pool. -/
def kvGive (s : State) (t : Nat) (ks : List Nat) : State :=
  { s with kv := { s.kv with slots := ks.foldl (fun m k => mdel m (t * 2 ^ 32 + k)) s.kv.slots } }

/-- The lease table and the tenant's pool are in service (R278). A privileged queue has no pool. -/
def kvReady (s : State) (sl : Slot) : Bool :=
  !qPrv s sl.ctx && tstF s ARR_KVLTAB.EN && tstF s TEN_KVPOOL.EN (qTen s sl.ctx)

/-! ## Lease records (Table ATT-1) -/

def lsFree : Nat := 0
def lsLive : Nat := 1
def lsIdle : Nat := 2
def lsReclaiming : Nat := 3

/-- A field of lease `i`. -/
def lease (s : State) (i : Nat) (f : BF) : Nat := bget (leaseRec s i) f

/-- EXPIRY has passed (R279; R283, Table ATT-4 step 6: at that very time it has). -/
def leaseExpired (s : State) (i : Nat) : Bool :=
  lease s i LEASE.EXPIRY != 0 && decide (lease s i LEASE.EXPIRY ≤ s.tim.now.toNat)

/-- Leases of the table that are not FREE. -/
def leasesUsed (s : State) : List Nat :=
  if tstF s ARR_KVLTAB.EN then
    let lo := saOff (adrF s ARR_KVLTAB.BASE) / 64
    ((mkeys s.store.near).filterMap fun l => if lo < l && l < lo + 65536 then some (l - lo) else none).filter fun i =>
      lease s i LEASE.STATE != lsFree
  else []

/-- An expired lease becomes RECLAIMING (R283). -/
def leaseExpire (s : State) (i : Nat) : State :=
  if (lease s i LEASE.STATE == lsLive || lease s i LEASE.STATE == lsIdle) && leaseExpired s i then setLease s i LEASE.STATE lsReclaiming else s

/-- A handle resolved for a tenant (R279, R284): its lease, or the substatus that refuses it. -/
def resolveHandle (s : State) (t h : Nat) : (Nat ⊕ Nat) × State :=
  let i := h % 65536
  let s := if i = 0 then s else leaseExpire s i
  let cur := i != 0 && lease s i LEASE.GEN == h / 65536 && (lease s i LEASE.STATE == lsLive || lease s i LEASE.STATE == lsIdle)
  if !cur then (.inr 0x0060, s)
  else if lease s i LEASE.OWNER ≠ t then (.inr 0x0061, s)
  else (.inl i, s)

/-- A descriptor pins a lease, once (R284). -/
def pinLease (s : State) (sq i : Nat) : State :=
  match slotOf s sq with
  | none => s
  | some sl =>
    if sl.leases.contains i then s
    else setLease (setSlot s sq { sl with leases := sl.leases ++ [i] }) i LEASE.PINS (lease s i LEASE.PINS + 1)

/-! ## Geometry (R282, R286, R288) -/

/-- Head dimension. -/
def lsD (s : State) (i : Nat) : Nat := 64 * 2 ^ lease s i LEASE.DCODE

/-- Bytes of an element. -/
def lsE (s : State) (i : Nat) : Nat := fmBits (lease s i LEASE.KFMT) / 8

/-- Bytes of a block with `h` heads of dimension `d` and elements of `e` bytes. -/
def blockBytes (h d e : Nat) : Nat := 4 * h * d + 128 * h * d * e

/-- The layer stride for MAXBLK `m`. -/
def layerStride (m : Nat) : Nat := ceilDiv (8 + 4 * m) 64 * 64

/-- Layers in a map slot. -/
def layersPerSlot (s : State) (t m : Nat) : Nat := kvSlot s t * 4096 / layerStride m

/-- MAP[k] of a lease. -/
def leaseMap (s : State) (i k : Nat) : Nat := bget (leaseRec s i) ⟨LEASE.MAP.lo + 32 * k, 32⟩

/-- The SA of layer `l`'s map. -/
def layerSa (s : State) (i l : Nat) : Nat :=
  let t := lease s i LEASE.OWNER
  let m := lease s i LEASE.MAXBLK
  let lps := layersPerSlot s t m
  kvSlotSa s t (leaseMap s i (l / lps)) + l % lps * layerStride m

/-- Offsets in a block of the summary of head `h`, of a key row and of a value row. -/
def kminOff (d h : Nat) : Nat := 4 * d * h
def kmaxOff (d h : Nat) : Nat := 4 * d * h + 2 * d
def keyOff (hkv d e h t : Nat) : Nat := 4 * hkv * d + (64 * h + t) * d * e
def valOff (hkv d e h t : Nat) : Nat := 4 * hkv * d + 64 * hkv * d * e + (64 * h + t) * d * e

end Sys2Proof.Machine
end

