-- ==== Sys2Proof/Machine/VscOps.lean ====
section
/-! DEFINITION. VscOps.lean: collection records, the places of items and the snapshot rule (R360 to R366, R372). -/
namespace Sys2Proof.Machine

/-! ## 128-byte records of the chip's tables -/

/-- A 128-byte record at an SA of the chip's own near tier. -/
def tabRec (s : State) (sa : Nat) : Desc :=
  BitVec.ofNat 1024 ((tabLine s sa).toNat + (tabLine s (sa + 64)).toNat * 2 ^ 512)

def setTabRec (s : State) (sa : Nat) (r : Desc) : State :=
  sysPut (sysPut s sa (r.extractLsb' 0 512)) (sa + 64) (r.extractLsb' 512 512)

/-! ## Collections -/

def collSa (s : State) (c : Nat) : Nat := adrF s VSC_CTAB.BASE + 128 * c

/-- Collection record `c`. -/
def collRec (s : State) (c : Nat) : Desc := tabRec s (collSa s c)

/-- A field of collection `c`. -/
def coll (s : State) (c : Nat) (f : BF) : Nat := bget (collRec s c) f

def setColl (s : State) (c : Nat) (f : BF) (x : Nat) : State := setTabRec s (collSa s c) (bset (collRec s c) f x)

/-- The collection that a vector descriptor names. -/
def collOf (d : Desc) : Nat := par d 112 2 % 4096

/-- The descriptor may use its collection (R364). -/
def collOk (s : State) (sl : Slot) : Bool :=
  tstF s VSC_CTAB.EN && coll s (collOf sl.d) VCOLL.ACTIVE == 1 && !qPrv s sl.ctx
    && coll s (collOf sl.d) VCOLL.OWNER == qTen s sl.ctx

/-- A vector's bytes, its stride, vectors of a block, and blocks per channel per stripe (R365). -/
def vecBytesOf (kind dim : Nat) : Nat := if kind = 0 then dim else dim / 8
def vecStride (b : Nat) : Nat := ceilDiv b 64 * 64
def vecsPerBlock (vs : Nat) : Nat := 4096 / vs
def stripeBlocks (vs : Nat) : Nat := 1 + ceilDiv 128 (vecsPerBlock vs)

def vecBytes (s : State) (c : Nat) : Nat := vecBytesOf (coll s c VCOLL.KIND) (coll s c VCOLL.DIM)

/-- Entry `k` of the extent list. -/
def collExt (s : State) (c k : Nat) : Nat :=
  let sa := coll s c VCOLL.EXTSA + 4 * k
  bget (sysLine s sa) ⟨8 * (sa % 64), 32⟩

/-- The SAs of slot `x`'s header and vector (R365). -/
def slotPlace (s : State) (c x : Nat) : Nat × Nat :=
  let n := coll s c VCOLL.NEXT
  let vs := coll s c VCOLL.VS
  let stripe := x / 2048
  let base := mkSa (own s) (coll s c VCOLL.TIER) (collExt s c (stripe % n) * 2 ^ 30) + stripe / n * 16 * coll s c VCOLL.G * 4096
  let ch := x % 2048 / 128
  let j := x % 128
  let p := vecsPerBlock vs
  (base + ch * 4096 + 32 * j, base + (16 * (1 + j / p) + ch) * 4096 + j % p * vs)

/-- Visible to a snapshot (R372). -/
def itemVisible (sq m x : Nat) (h : BitVec 256) : Bool :=
  decide (x < m) && decide (0 < bget h ITEMH.ISEQ) && decide (bget h ITEMH.ISEQ ≤ sq)
    && (bget h ITEMH.DSEQ == 0 || decide (sq < bget h ITEMH.DSEQ))

/-- Far extents of a collection. -/
def collExts (s : State) (c : Nat) : List Nat :=
  if coll s c VCOLL.TIER = 1 then (List.range (coll s c VCOLL.NEXT)).map (collExt s c) else []

/-- Pages of a collection's far extents that hold data not yet on the flash. -/
def dirtyPages (s : State) (c : Nat) : List (Nat × Page) :=
  let es := collExts s c
  s.store.pages.filter fun e => e.2.foreign == 0 && es.contains (bget e.2.entry PAGE.BLOCK / 2 ^ 18)
    && (bget e.2.entry PAGE.DMASK != 0 || bget e.2.entry PAGE.STATE == pgWriting)

/-- A direct media reader launches once the dirty sectors of its ranges are written back (R163, R373). -/
def mediaReady (s : State) (sl : Slot) : Bool := opcode sl.d != ocVscan || (dirtyPages s (collOf sl.d)).isEmpty

/-- The pages it waits for are chosen for write-back (R199). -/
def mediaAsk (s : State) (sl : Slot) : State :=
  if mediaReady s sl then s
  else (dirtyPages s (collOf sl.d)).foldl (fun s e => setPage s e.1 { e.2 with wbWant := true }) s

end Sys2Proof.Machine
end

