-- ==== Sys2Proof/Machine/XltOps.lean ====
section
/-! DEFINITION. XltOps.lean: the pre-translator (chapter "Translation at submission"): the walk, its caches, the checks of
targets, and the shootdowns. -/
namespace Sys2Proof.Machine

/-! ## Caches (R53, R57) -/

/-- A list kept to `n` entries: which entry leaves a full cache is not stated. -/
def capList {α : Type} (s : State) (n : Nat) (l : List α) : List α :=
  if l.length < n then l else l.eraseIdx (Config.pick s.fresh % l.length)

/-- An entry of the translation cache; the leaf's level is its PSIZE + 1. -/
def putTlb (s : State) (e : TlbE) : State :=
  let rest := s.xlt.tlb.filter fun x => !(x.ten == e.ten && x.va == e.va && x.size == e.size)
  { s with fresh := s.fresh + 1, xlt := { s.xlt with tlb := capList s 16384 rest ++ [e] } }

/-- Pointer entries of a walk, kept in the walk cache. -/
def putWalks (s : State) (ws : List WalkE) : State :=
  ws.foldl (fun s w =>
    if s.xlt.walk.any fun x => x.ten == w.ten && x.level == w.level && x.pfx == w.pfx then s
    else { s with fresh := s.fresh + 1, xlt := { s.xlt with walk := capList s 1024 s.xlt.walk ++ [w] } }) s

/-- A record whose VALID is 1 kept in the extent-check cache. -/
def putExtc (s : State) (sa : Nat) (r : BitVec 128) : State :=
  if !btst r EXT.VALID then s
  else { s with fresh := s.fresh + 1, xlt := { s.xlt with extc := mput (capList s 4096 s.xlt.extc) (sa / 2 ^ 30) r } }

/-- A version record kept in the region cache. -/
def putRegc (s : State) (key : Nat) (r : BitVec 512) : State :=
  { s with fresh := s.fresh + 1, xlt := { s.xlt with regc := mput (capList s 512 s.xlt.regc) key r } }

/-! ## Fault kinds (Table XLT-3) -/

def kNotValid : Nat := 0
def kNoRead : Nat := 1
def kNoWrite : Nat := 2
def kNoAtomic : Nat := 3
def kMalformed : Nat := 4
def kAttr : Nat := 5
def kTier : Nat := 6
def kRegion : Nat := 7
def kVaRange : Nat := 8
def kNoRoot : Nat := 9

/-! ## The walk (R48 to R54) -/

/-- A page-table page may lie at `sa` (R48): this chip's near tier, a SYS and DIRECT extent in service. -/
def tableOk (s : State) (sa : Nat) : Bool :=
  let r := extRec s 0 (saExt sa)
  saChip sa == own s && saTier sa == 0 && populated s 0 (saExt sa) && btst r EXT.VALID && btst r EXT.SYS && btst r EXT.ATTR

/-- Bytes of a leaf at a level. -/
def pageBytes (level : Nat) : Nat := 4096 * 512 ^ (level - 1)

/-- R51, R52. -/
def leafBad (pte : W64) (level : Nat) : Bool :=
  let size := pageBytes level
  decide (3 < level) || bget pte PTE.PSIZE + 1 != level
  || (btst pte PTE.W && !btst pte PTE.R)
  || (btst pte PTE.A && !(btst pte PTE.R && btst pte PTE.W))
  || (!btst pte PTE.INDIR && (decide (2 ≤ bget pte PTE.RUN) || bget pte PTE.FRAME * 4096 % size != 0))

/-- The right that an access set needs and the leaf does not give (R54). -/
def permFault (pte : W64) (acc : Nat) : Option Nat :=
  if acc % 2 = 1 && !btst pte PTE.R then some kNoRead
  else if acc / 2 % 2 = 1 && !btst pte PTE.W then some kNoWrite
  else if acc / 4 % 2 = 1 && !btst pte PTE.A then some kNoAtomic
  else none

/-- Where a walk ends: a leaf with its level and its table, or a fault. -/
inductive WalkRes where
  | leaf (pte : W64) (level table : Nat)
  | fault (kind level : Nat)
  deriving DecidableEq, Repr

/-- The walk from the table at `table`, for the levels that remain; the pointer entries read on the way are returned. -/
def walkFrom (s : State) (t va : Nat) : Nat → Nat → List WalkE → WalkRes × List WalkE
  | 0, _, ps => (.fault kMalformed 1, ps)
  | l + 1, table, ps =>
    let level := l + 1
    let pfx := va / 2 ^ (9 * level + 3)
    match s.xlt.walk.find? fun w => w.ten == t && w.level == level && w.pfx == pfx with
    | some w => walkFrom s t va l w.table ps
    | none =>
      let pte := sysWord s (table + 8 * (pfx % 512))
      if !btst pte PTE.V then (.fault kNotValid level, ps)
      else if bget pte ⟨60, 4⟩ ≠ 0 then (.fault kMalformed level, ps)
      else if bget pte PTE.PSIZE = 3 then
        let nxt := bget pte PTE.FRAME * 4096
        if level = 1 || !tableOk s nxt then (.fault kMalformed level, ps)
        else walkFrom s t va l nxt (ps ++ [{ ten := t, level := level, pfx := pfx, table := nxt }])
      else if leafBad pte level then (.fault kMalformed level, ps)
      else (.leaf pte level table, ps)

/-- The aligned group of 16 entries that holds a RUN leaf maps one run (R57). -/
def runOk (s : State) (table va level : Nat) : Bool :=
  let size := pageBytes level
  let idx := va / size % 512 / 16 * 16
  let es := (List.range 16).map fun k => sysWord s (table + 8 * (idx + k))
  let e0 := sysWord s (table + 8 * idx)
  let f0 := bget e0 PTE.FRAME * 4096
  ((List.range 16).zip es).all (fun (k, e) => btst e PTE.V && bget e ⟨0, 12⟩ == bget e0 ⟨0, 12⟩
    && bget e PTE.FRAME * 4096 == f0 + k * size) && f0 % (16 * size) == 0

/-- A resolved page: the cache entry that holds it, and the pointer entries of its walk. `cached`: it was in the
translation cache. -/
structure PageHit where
  e : TlbE
  level : Nat
  cached : Bool := false
  ptrs : List WalkE := []
  deriving DecidableEq, Repr

/-- Looks a page up: the cached leaf, or the walk (R54, R57, R58). A cached leaf is used without a look at TEN_XLTROOT: a root whose
VALID was cleared translates what is cached until a shootdown drops it (DESIGN CHOICE, log entry 120). -/
def lookup (s : State) (t va acc : Nat) : (PageHit ⊕ (Nat × Nat)) × State :=
  match s.xlt.tlb.find? fun e => e.ten == t && decide (e.va ≤ va) && decide (va < e.va + e.size) with
  | some e =>
    let level := bget e.pte PTE.PSIZE + 1
    match permFault e.pte acc with
    | some k => (.inr (k, level), s)
    | none => (.inl { e := e, level := level, cached := true }, s)
  | none =>
    if !tstF s TEN_XLTROOT.VALID t then (.inr (kNoRoot, 0), s)
    else
      let root := adrF s TEN_XLTROOT.BASE t
      if !tableOk s root then (.inr (kMalformed, 5), s)
      else
        let s := bump s 0x0201 1 { prv := 1, ten := some t, cls := some 9 }
        match walkFrom s t va 5 root [] with
        | (.fault k l, _) => (.inr (k, l), s)
        | (.leaf pte level table, ps) =>
          match permFault pte acc with
          | some k => (.inr (k, level), s)
          | none =>
            let size := pageBytes level
            let one : TlbE := { ten := t, va := va / size * size, size := size, pte := pte, sa := bget pte PTE.FRAME * 4096 }
            if btst pte PTE.INDIR then
              (.inl { e := { one with rgn := some (bget pte ⟨50, 10⟩, bget pte ⟨36, 14⟩) }, level := level, ptrs := ps }, s)
            else if bget pte PTE.RUN = 1 then
              let vb := va / (16 * size) * (16 * size)
              if runOk s table va level then
                let f0 := bget (sysWord s (table + 8 * (va / size % 512 / 16 * 16))) PTE.FRAME * 4096
                (.inl { e := { one with va := vb, size := 16 * size, sa := f0 }, level := level, ptrs := ps }, s)
              else (.inl { e := one, level := level, ptrs := ps }, ledger s 0x0301 0 (some t) [vb])
            else (.inl { e := one, level := level, ptrs := ps }, s)

/-! ## Regions (R35, R37, R55) -/

/-- The version record of a region: as this descriptor read it, from the region cache, or from its home. -/
def regionRec (s : State) (rem : RemRecs) (rgns : AMap (BitVec 512)) (home rgn : Nat) : BitVec 512 :=
  let key := home * 2 ^ 14 + rgn
  match mget rgns key, mget s.xlt.regc key with
  | some r, _ => r
  | none, some r => r
  | none, none =>
    if home = own s then verRec s rgn
    else ((rem.find? fun e => e.1 == mkSa home 2 (0x00400000 + 64 * rgn)).map (·.2)).getD 0

/-- The SA base of an indirected page, or a REGION fault (R55). -/
def regionBase (r : BitVec 512) (t : Nat) (pte : W64) (level : Nat) : Option Nat :=
  let page := bget pte ⟨12, 24⟩
  let size := pageBytes level
  let st := bget r VER.STATE
  if st = vrFree ∨ st = vrOpen ∨ bget r VER.OWNER ≠ t ∨ bget r VER.PSIZE ≠ bget pte PTE.PSIZE ∨ bget r VER.LENGTH ≤ page * size then none
  else some (bget r VER.CUR + page * size)

/-! ## Targets (R56, R60, R640, R642) -/

/-- What a check of an address gives. -/
inductive Check where
  | ok
  | fault (kind : Nat)
  | stop (st sub : Nat)
  deriving DecidableEq, Repr

/-- The extent record that governs an SA, as the pre-translator reads it: its cached copy, this chip's own, the stand-in's
ward copy of a fenced home's, or the home's answer (an operand); a stop where R11 or R642 gives one. -/
def extFor (s : State) (rem : RemRecs) (sa : Nat) : BitVec 128 ⊕ Stop :=
  let c := saChip sa
  let asked : Option (BitVec 128) :=
    (rem.find? fun e => e.1 == mkSa c 2 (extOff (saTier sa) (saExt sa))).map fun e => e.2.extractLsb' 0 128
  match mget s.xlt.extc (sa / 2 ^ 30) with
  | some r => .inl r
  | none =>
    if !routed s c then .inr (stAccess, 0x0016)
    else if fencedChip s c then
      match standIn s c with
      | none => .inr (stRegionLost, 0x0042)
      | some k =>
        let r := if k = own s then wardRec s (saTier sa) (saExt sa) else asked.getD 0
        if fencedChip s k || r == 0 || bget r EXT.RCLASS = 0 then .inr (stRegionLost, 0x0042) else .inl r
    else if c = own s then
      if populated s (saTier sa) (saExt sa) then .inl (extRec s (saTier sa) (saExt sa)) else .inr (stAccess, 0x0016)
    else match asked with
      | some r => .inl r
      | none => .inr (stAccess, 0x0016)

/-- The tier 2 checks of R640 that precede every byte: alignment and length of the operand, no reserved offset, and the
"Who may" columns. -/
def t2RangeOk (prv : Bool) (t acc off n : Nat) (aligned : Bool) : Bool :=
  let inside (lo hi : Nat) : Bool := decide (lo ≤ off) && decide (off + n ≤ hi)
  aligned && (inside 0 0x00900000 || inside 0x01000000 0x01800000)
  && (prv || ((acc % 2 = 0 || inside 0 0x00200000 || inside 0x00300000 0x00400000)
      && (acc / 2 % 2 = 0 || inside (t * 4096) (t * 4096 + 4096) || inside 0x00300000 0x00300010)))

/-- The check of one extent for a descriptor: VALID, and for a tenant SYS and OWNER, ATTR of the leaf, and Table STO-5
with R30. -/
def extCheck (r : BitVec 128) (tenant : Option (Nat × Nat)) (acc opc : Nat) : Check :=
  let last : Check :=
    if (bget r EXT.RCLASS = 1 ∧ bget r EXT.ROLE = 1) ∨ (acc / 2 % 2 = 1 ∧ !btst r EXT.ATTR ∧ !cohWriter opc) then .stop stAccess 0x0014
    else .ok
  if !btst r EXT.VALID then .stop stAccess 0x0011
  else match tenant with
    | none => last
    | some (t, attr) =>
      if btst r EXT.SYS then .stop stAccess 0x0012
      else if bget r EXT.OWNER ≠ t then .stop stAccess 0x0013
      else if bget r EXT.ATTR ≠ attr then .fault kAttr
      else last

/-- Bytes `sa` to `sa + n - 1` checked for a descriptor, extent by extent (R56 steps 1 to 5, R60). `tenant`: the tenant and
the leaf's ATTR; none on a privileged queue, whose VA field with a bit of [63:60] set completes with ACCESS 0x0016 (R60 gives no
outcome; DESIGN CHOICE, log entry 121). -/
def checkTarget (s : State) (rem : RemRecs) (tenant : Option (Nat × Nat)) (acc opc sa n : Nat) (aligned : Bool) : Check × State :=
  let tier := saTier sa
  match tenant with
  | some (_, attr) =>
    if tier = 3 ∨ (tier = 2 ∧ attr = 0) then (.fault kTier, s) else go s tier
  | none => if tier = 3 ∨ 2 ^ 60 ≤ sa then (.stop stAccess 0x0016, s) else go s tier
where
  go (s : State) (tier : Nat) : Check × State :=
    if !routed s (saChip sa) then (.stop stAccess 0x0016, s)
    else if tier = 2 then
      (if t2RangeOk tenant.isNone ((tenant.map (·.1)).getD 0) acc (saOff sa) n aligned then .ok else .stop stAccess 0x0016, s)
    else
      (List.range ((sa + n - 1) / 2 ^ 30 + 1 - sa / 2 ^ 30)).foldl (fun (a : Check × State) k =>
        match a.1 with
        | .ok =>
          let x := (sa / 2 ^ 30 + k) * 2 ^ 30
          match extFor a.2 rem x with
          | .inr (st, sub) => (.stop st sub, a.2)
          | .inl r => match extCheck r tenant acc opc with
            | .ok => (.ok, putExtc a.2 x r)
            | c => (c, a.2)
        | c => (c, a.2)) (.ok, s)

/-! ## Operands (R59 to R63) -/

/-- A list of SA extents, built in order; contiguous SAs with the same attribute and hint form one (R62). -/
def addExt (es : List SAExt) (e : SAExt) : List SAExt :=
  match es with
  | [] => [e]
  | [x] => if x.base + x.len = e.base ∧ x.attr = e.attr ∧ x.hint = e.hint then [{ x with len := x.len + e.len }] else [x, e]
  | x :: xs => x :: addExt xs e

/-- A translation in progress: the state, the regions read, and how it stands. -/
structure Tr where
  s    : State
  rgns : AMap (BitVec 512) := []
  exts : List SAExt := []
  /-- A fault: kind, level, VA. -/
  fault : Option (Nat × Nat × Nat) := none
  stop  : Option Stop := none
  deriving DecidableEq, Repr

/-- The end of the page of the leaf's size that holds `cur`: a merged run is taken page by page (R59, R61). -/
def pageEnd (h : PageHit) (cur : Nat) : Nat := (cur / pageBytes h.level + 1) * pageBytes h.level

/-- One resolved page of a tenant's operand, from `cur`, at most to `fin`: the bytes it covers, with the translation carried on.
The page is installed in the caches once it has passed every check (R53). An indirected leaf whose HOME has no route completes the
descriptor with ACCESS 0x0016 and one whose HOME is fenced with REGION_LOST 0x0042, even where the record is cached (DESIGN CHOICE,
log entry 122). -/
def trHit (a : Tr) (rem : RemRecs) (t opc acc cur fin : Nat) (aligned : Bool) (h : PageHit) : Nat × Tr :=
  let n := min (pageEnd h cur) fin - cur
  let attr := bget h.e.pte PTE.ATTR
  let at_ (a : Tr) (base : Nat) : Nat × Tr :=
    let sa := base + (cur - h.e.va)
    match checkTarget a.s rem (some (t, attr)) acc opc sa n aligned with
    | (.fault k, s) => (0, { a with s := s, fault := some (k, h.level, cur) })
    | (.stop st sub, s) => (0, { a with s := s, stop := some (st, sub) })
    | (.ok, s) =>
      let s := if h.cached then s else putTlb (putWalks s h.ptrs) h.e
      (n, { a with s := s, exts := addExt a.exts ⟨sa, n, attr, bget h.e.pte PTE.THINT⟩ })
  match h.e.rgn with
  | none => at_ a h.e.sa
  | some (home, rgn) =>
    if !routed a.s home then (0, { a with stop := some (stAccess, 0x0016) })
    else if fencedChip a.s home then (0, { a with stop := some (stRegionLost, 0x0042) })
    else
      let r := regionRec a.s rem a.rgns home rgn
      let a := { a with rgns := mput a.rgns (home * 2 ^ 14 + rgn) r }
      match regionBase r t h.e.pte h.level with
      | none => (0, { a with fault := some (kRegion, h.level, cur) })
      | some b =>
        let (n, a) := at_ a b
        (n, if a.fault.isNone && a.stop.isNone then { a with s := putRegc a.s (home * 2 ^ 14 + rgn) r } else a)

/-- One page of a tenant's operand, from `cur`, at most to `fin`. -/
def trPage (a : Tr) (rem : RemRecs) (t opc acc cur fin : Nat) (aligned : Bool) : Nat × Tr :=
  if 2 ^ 57 ≤ cur then (0, { a with fault := some (kVaRange, 0, cur) })
  else match lookup a.s t cur acc with
    | (.inr (k, l), s) => (0, { a with s := s, fault := some (k, l, cur) })
    | (.inl h, s) => trHit { a with s := s } rem t opc acc cur fin aligned h

/-- The pages of a tenant's operand from the lowest VA upwards; the first fault or stop ends it (R59, R61). -/
def trPages (rem : RemRecs) (t opc acc fin : Nat) (aligned : Bool) : Nat → Nat → Tr → Tr
  | 0, _, a => a
  | fuel + 1, cur, a =>
    if fin ≤ cur then a
    else
      let (n, a) := trPage a rem t opc acc cur fin aligned
      if a.fault.isSome || a.stop.isSome then a else trPages rem t opc acc fin aligned fuel (cur + n) a

/-- A privileged operand, divided at 1 GiB boundaries (R60). -/
def trPriv (a : Tr) (rem : RemRecs) (opc acc va len : Nat) (aligned : Bool) : Tr :=
  (List.range ((va + len - 1) / 2 ^ 30 + 1 - va / 2 ^ 30)).foldl (fun a k =>
    if a.stop.isSome then a else
    let lo := max va ((va / 2 ^ 30 + k) * 2 ^ 30)
    let hi := min (va + len) ((va / 2 ^ 30 + k + 1) * 2 ^ 30)
    match checkTarget a.s rem none acc opc lo (hi - lo) aligned with
    | (.ok, s) => { a with s := s, exts := addExt a.exts ⟨lo, hi - lo, 0, 0⟩ }
    | (.stop st sub, s) => { a with s := s, stop := some (st, sub) }
    | (.fault _, s) => { a with s := s, stop := some (stAccess, 0x0016) }) a

/-- One operand of a descriptor. -/
def trOperand (a : Tr) (rem : RemRecs) (sl : Slot) (i acc : Nat) : Tr :=
  let va := opF sl.d i OPND.VA
  let len := opLen sl.d i
  let aligned := va % 8 == 0 && len % 8 == 0
  if len = 0 then a
  else if qPrv a.s sl.ctx then trPriv a rem (opcode sl.d) acc va len aligned
  else trPages rem (qTen a.s sl.ctx) (opcode sl.d) acc (va + len) aligned (len / 4096 + 2) va a

/-- Bytes of the spill area that a list of `n` SA extents takes: 16 for each beyond the 32 of the slot. The spilled part is counted
alone: the bytes of the area in memory are left as they are (log entry 20). -/
def spillBytes (n : Nat) : Nat := 16 * (n - 32)

/-- The spill area's size: 2^SIZE MiB where it lies in a local near-tier SYS extent. The reserved values 11 to 15 of SIZE act as 10,
and a BASE elsewhere gives an area of size zero, for which every spilling descriptor waits (DESIGN CHOICE, log entry 123). -/
def spillCap (s : State) : Nat :=
  let sa := adrF s XLT_SPILL.BASE
  let r := extRec s 0 (saExt sa)
  if saChip sa = own s ∧ saTier sa = 0 ∧ btst r EXT.VALID ∧ btst r EXT.SYS then 2 ^ 20 * 2 ^ min 10 (getF s XLT_SPILL.SIZE) else 0

/-- SA extents that a slot holds. -/
def extCount (ops : List (List SAExt)) : Nat := (ops.map List.length).sum

/-- Spill space in use. -/
def spillUsed (s : State) : Nat := (s.que.slots.map fun e => spillBytes (extCount e.2.ops)).sum

/-! ## XLT_PRELOAD (R78) -/

/-- The 4 KiB units that the range touches. -/
def units (lo hi : Nat) : Nat := if hi ≤ lo then 0 else (hi + 4095) / 4096 - lo / 4096

/-- The walk of XLT_PRELOAD, page by page: a page that would fault, or complete the descriptor with ACCESS, is skipped and counted;
any other status stops it. -/
def preload (rem : RemRecs) (t fin : Nat) (aligned : Bool) : Nat → Nat → Nat → State → (Nat × Option Stop) × State
  | 0, _, n, s => ((n, none), s)
  | fuel + 1, cur, n, s =>
    let lim := min fin (2 ^ 57)
    if lim ≤ cur then ((n + units (max cur (2 ^ 57)) fin, none), s)
    else match lookup s t cur accR with
      | (.inr (k, l), s) =>
        if k = kNoRoot then ((n + units cur fin, none), s)
        else
          let reg := pageBytes l
          let nxt := min lim ((cur / reg + 1) * reg)
          preload rem t fin aligned fuel nxt (n + units cur nxt) s
      | (.inl h, s) =>
        let nxt := min (pageEnd h cur) lim
        let a := (trHit { s := s } rem t ocAdvise accR cur nxt aligned h).2
        match a.fault, a.stop with
        | none, none => preload rem t fin aligned fuel nxt n a.s
        | some _, _ => preload rem t fin aligned fuel nxt (n + units cur nxt) a.s
        | none, some (st, sub) =>
          if st = stAccess then preload rem t fin aligned fuel nxt (n + units cur nxt) a.s else ((n, some (st, sub)), a.s)

/-! ## Shootdowns (R80 to R85) -/

/-- The address ranges meet. -/
def meets (a n b m : Nat) : Bool := decide (a < b + m) && decide (b < a + n)

/-- The tenants whose epochs a shootdown drains. -/
def drains (kind ten : Nat) : List Nat := if kind ≤ 1 then [ten] else List.range 512

/-- The entries that a shootdown drops (Table XLT-5). -/
def shootDrop (s : State) (kind ten addr len : Nat) : State :=
  let sa := addr % 2 ^ 60 / 2 ^ 30 * 2 ^ 30
  let home := addr / 2 ^ 50 % 1024
  let rgn := addr / 2 ^ 36 % 2 ^ 14
  let regSa (e : TlbE) : Nat :=
    match e.rgn with
    | some (h, r) => (regionBase (mgetD 0 s.xlt.regc (h * 2 ^ 14 + r)) e.ten e.pte (bget e.pte PTE.PSIZE + 1)).getD 0
    | none => e.sa
  let x := s.xlt
  let x := match kind with
    | 0 => { x with
        tlb := x.tlb.filter fun e => !(e.ten == ten && meets e.va e.size addr len)
        walk := x.walk.filter fun w => !(w.ten == ten && meets (w.pfx * 2 ^ (9 * w.level + 3)) (2 ^ (9 * w.level + 3)) addr len) }
    | 1 => { x with
        tlb := x.tlb.filter fun e => e.ten != ten
        walk := x.walk.filter fun w => w.ten != ten
        extc := x.extc.filter fun e => btst e.2 EXT.SYS || bget e.2 EXT.OWNER != ten
        regc := x.regc.filter fun e => bget e.2 VER.OWNER != ten }
    | 2 => { x with
        tlb := x.tlb.filter fun e => !meets (regSa e) e.size sa (2 ^ 30)
        extc := mdel x.extc (sa / 2 ^ 30) }
    | _ => { x with
        tlb := x.tlb.filter fun e => e.rgn != some (home, rgn)
        regc := mdel x.regc (home * 2 ^ 14 + rgn) }
  { s with xlt := x }

/-- A translation that is not finished is dropped: it starts again from level 5 (R81). -/
def restartWalks (s : State) (kind ten : Nat) : State :=
  { s with que := { s.que with slots := mmap s.que.slots fun _ sl =>
      if sl.ph = .untranslated ∧ (2 ≤ kind ∨ (!qPrv s sl.ctx ∧ qTen s sl.ctx = ten)) then { sl with ops := [], rgns := [] } else sl } }

/-- The epochs of the draining tenants advance by one. -/
def advanceEpochs (s : State) (kind ten : Nat) : State :=
  (drains kind ten).foldl (fun s t => setF s TEN_XLTEPOCH.EPOCH t (getF s TEN_XLTEPOCH.EPOCH t + 1)) s

/-- The descriptors that a shootdown accepted now waits for: unfinished, translated, of a draining tenant (R81, R82). -/
def holdersNow (s : State) (kind ten : Nat) : List Nat :=
  (s.que.slots.filter fun e => e.2.epoch.isSome && (decide (2 ≤ kind) || qTen s e.2.ctx == ten)).map (·.1)

/-- Open shootdowns that this chip originated. -/
def shootsOpen (s : State) : Nat := (s.xlt.shoots.filter fun h => h.src.isNone).length

/-- Chips of the route table that a shootdown of the frame reaches (R83). -/
def frameChips (s : State) : List Nat :=
  (List.range 1024).filter fun c => c != own s && tstF s LNK_RT.VALID c && !fencedChip s c

/-- A one-slot or two-slot CTL message (Table LNK-7) to chip `dst`. -/
def ctlMsg (s : State) (dst : Nat) (h : BitVec 128) (data : List Byte := []) : Msg :=
  { vc := .ctl, dst := dst, dep := 8, src := own s, sep := 8, hdr := h, data := data }

/-- SHOOT (Table LNK-7). -/
def shootMsg (s : State) (dst : Nat) (h : Shoot) : Msg :=
  ctlMsg s dst (bset (bset (bset (bset (bset 0 ⟨120, 8⟩ 4) ⟨104, 16⟩ h.id) ⟨94, 10⟩ (own s)) ⟨92, 2⟩ h.kind) ⟨83, 9⟩ h.ten)
    (leBytes 8 h.addr ++ leBytes 8 h.len)

/-- SHOOT_ACK (Table LNK-7): PHASE 0 dropped, 1 drained. -/
def shootAck (s : State) (dst id phase : Nat) : Msg :=
  ctlMsg s dst (bset (bset (bset (bset (bset 0 ⟨120, 8⟩ 5) ⟨104, 16⟩ id) ⟨94, 10⟩ dst) ⟨93, 1⟩ phase) ⟨83, 10⟩ (own s))

/-- The first step of a shootdown on this chip (R81 step 1). -/
def shootHere (s : State) (kind ten addr len : Nat) : State :=
  advanceEpochs (restartWalks (shootDrop s kind ten addr len) kind ten) kind ten

/-- The shootdown with identifier `id` and source changed by `f`. -/
def modShoot (s : State) (id : Nat) (src : Option (Nat × Nat)) (f : Shoot → Shoot) : State :=
  { s with xlt := { s.xlt with shoots := s.xlt.shoots.map fun h => if h.id = id ∧ h.src = src then f h else h } }

/-- A PUBLISH has its answer: to the descriptor of this chip that issued it, or to the issuing chip (log entry 21). -/
def publishAnswer (s : State) (chip tag st sub ver : Nat) : State :=
  if chip = own s then
    match slotOf s tag with
    | some sl => if sl.work = .await tag then finish s tag st sub (if st = stOk then ver else 0) else s
    | none => s
  else send s (engMsg s 6 chip 0 (tag % 65536) st 8 true 0 (leBytes 8 ver))

/-- The dropped point of a shootdown that this chip originated (R83, R84): DROPPED for a driver's, the issuer's completion
for PUBLISH. -/
def dropPoint (s : State) (h : Shoot) : State :=
  if h.dropped || !h.waitDrop.isEmpty then s
  else
    let s := modShoot s h.id none fun x => { x with dropped := true }
    let s := if h.driver then setF s XLT_INVAL_STAT.DROPPED 0 1 else s
    match h.publish with
    | some (rgn, chip, tag) => publishAnswer s chip tag stOk 0 (bget (verRec s rgn) VER.VERSION)
    | none => s

/-- A shootdown opened by this chip (R81, R83). -/
def shootOpen (s : State) (h : Shoot) : State :=
  let id := s.xlt.nextShoot % 65536
  let s := shootHere s h.kind h.ten h.addr h.len
  let cs := if h.frame then frameChips s else []
  let h := { h with id := id, holders := holdersNow s h.kind h.ten, waitDrop := cs, waitDrain := cs }
  let s := { s with xlt := { s.xlt with shoots := s.xlt.shoots ++ [h], nextShoot := s.xlt.nextShoot + 1 } }
  dropPoint (cs.foldl (fun s c => send s (shootMsg s c h)) s) h

/-- A driver shootdown (XLT_INVAL_CTL.GO) of kind 0 to 3; ignored while 16 are open (R85). -/
def shootDriver (s : State) (kind ten : Nat) (frame irq : Bool) : State :=
  if 16 ≤ shootsOpen s then s
  else shootOpen s { id := 0, kind := kind, addr := (regGet s .XLT_INVAL_ADDR 0).toNat, len := (regGet s .XLT_INVAL_LEN 0).toNat,
                     ten := ten, frame := frame, irq := irq, driver := true }

/-- A PUBLISH starts at its home, or waits there: STATE is RETIRING or 16 shootdowns are open. One that waits until its deadline
has passed ends TIMEOUT and changes nothing (Table STO-9, R85). -/
def publishHome (s : State) (q : PubReq) : State :=
  let r := verRec s q.rgn
  let unwait (s : State) : State := { s with xlt := { s.xlt with pubWait := s.xlt.pubWait.filter (· != q) } }
  if bget r VER.VERSION ≠ q.expected then publishAnswer (unwait s) q.chip q.tag stVersion 0 (bget r VER.VERSION)
  else if q.dl ≠ 0 ∧ q.dl ≤ s.tim.now.toNat then publishAnswer (unwait s) q.chip q.tag stTimeout 0 0
  else if bget r VER.STATE = vrRetiring ∨ 16 ≤ shootsOpen s then
    if s.xlt.pubWait.contains q then s else { s with xlt := { s.xlt with pubWait := s.xlt.pubWait ++ [q] } }
  else
    let r := bset (bset (bset (bset (bset r VER.PREV (bget r VER.CUR)) VER.CUR q.base) VER.VERSION (q.expected + 1)) VER.PUBTIME s.tim.now.toNat)
      VER.STATE vrRetiring
    let s := setVer (unwait s) q.rgn r
    shootOpen s { id := 0, kind := 3, addr := own s * 2 ^ 50 + q.rgn * 2 ^ 36, len := 0, ten := 0, frame := true,
                  publish := some (q.rgn, q.chip, q.tag) }

/-- The end of a drained shootdown (R84): DONE and the message, PREV and STATE of a published region, SHOOT_ACK to its
originator. -/
def shootEnd (s : State) (h : Shoot) : State :=
  let s := { s with xlt := { s.xlt with shoots := s.xlt.shoots.filter fun x => !(x.id = h.id ∧ x.src = h.src) } }
  match h.src with
  | some (c, id) => send s (shootAck s c id 1)
  | none =>
    let s := if h.driver then
        let s := setF s XLT_INVAL_STAT.DONE 0 1
        if h.irq then msix s 0 (getF s XLT_INVAL_STAT.VEC) else s
      else s
    match h.publish with
    | some (rgn, _, _) => setVer s rgn (bset (bset (verRec s rgn) VER.PREV 0) VER.STATE vrPublished)
    | none => s

/-- The drained point, where it is reached (R81 step 3, R83). -/
def shootDrained (s : State) (h : Shoot) : State :=
  if h.holders.isEmpty && h.waitDrain.isEmpty && (h.src.isSome || h.dropped) then shootEnd s h else s

end Sys2Proof.Machine
end

