-- ==== Sys2Proof/Machine/Translate.lean ====
section
/-! DEFINITION. Translate.lean: the translation of a descriptor (R59 to R65, R78), the checks that its opcode's chapter
makes at translation, and the end of translation: epoch, pins, snapshot. -/
namespace Sys2Proof.Machine

/-- The descriptor is the next of its queue to be translated (R59): its queue does not wait for a park slot or spill
space, and every earlier one has been translated or parked. -/
def nextToTranslate (s : State) (sl : Slot) : Bool :=
  sl.ph == .untranslated
  && !(mgetD [] s.que.stopped sl.ctx).contains .park && !(mgetD [] s.que.stopped sl.ctx).contains .spill
  && !((mvals s.que.slots).any fun x => x.ctx == sl.ctx && decide (x.seq < sl.seq) && (x.ph == .fetching || x.ph == .untranslated))

/-- Two extent lists share a byte. -/
def overlap (a b : List SAExt) : Bool := a.any fun x => b.any fun y => meets x.base x.len y.base y.len

/-- Overlaps that COPY and REDUCE refuse at translation (R398, R403). -/
def overlapBad (sl : Slot) : Bool :=
  let es (i : Nat) := extsOf sl i
  if opcode sl.d = ocCopy then overlap (es 0) (es 1)
  else if opcode sl.d = ocReduce then
    let n := opLen sl.d 4
    (List.range 4).any fun i => (List.range (opLen sl.d i / n)).any fun k =>
      let src := piecesOf (es i) (k * n) n
      (es 4).any (fun x => src.any fun y => meets x.base x.len y.1 y.2) && src != piecesOf (es 4) 0 n
  else false

/-- The ATTN_DECODE parameters (Table ATT-5). -/
def attnHq (d : Desc) : Nat := par d 112 2
def attnLayer (d : Desc) : Nat := par d 114 1
def attnRnd (d : Desc) : Nat := if par d 115 1 = 0 then 16 else par d 115 1
def attnNseq (d : Desc) : Nat := opLen d 1 / 8

/-- What R294 checks once the leases are known; 0 where it passes. -/
def attnCheck (s : State) (d : Desc) (ls : List Nat) : Nat :=
  match ls with
  | [] => 0
  | l :: rest =>
    let hq := attnHq d
    let hkv := lease s l LEASE.HKV
    let same := rest.all fun i => lease s i LEASE.HKV == hkv && lease s i LEASE.DCODE == lease s l LEASE.DCODE
      && lease s i LEASE.KFMT == lease s l LEASE.KFMT
    let n := attnNseq d
    let dim := lsD s l
    let scale := val32 (par d 116 4)
    let eps := val32 (par d 120 4)
    let badF (x : Num) : Bool := match x with | .nan => true | .inf _ => true | .fin _ _ _ => false
    if !same || hkv == 0 || hq % hkv != 0 || decide (hq / hkv < 1 ∨ 16 < hq / hkv) then 0x0062
    else if ls.any fun i => decide (lease s i LEASE.LAYERS < attnLayer d) then 0x0063
    else if badF scale || ltN scale (.fin false 0 0) || badF eps || ltN eps (.fin false 0 0) || ltN (.fin false 1 (-4)) eps
        || decide (64 < par d 115 1)
        || opLen d 0 != operandBytes (opF d 0 OPND.FMT) (n * hq * dim) || opLen d 2 != operandBytes (opF d 2 OPND.FMT) (n * hq * dim)
        || (opLen d 3 != 0 && opLen d 3 != 4 * n * hq) then 0x0023
    else 0

/-- What KV_APPEND checks against its lease (Table ATT-3). -/
def appendCheck (s : State) (d : Desc) (l : Nat) : Nat :=
  let f := opF d 0 OPND.FMT
  let row := fmBits f / 8 * lease s l LEASE.HKV * lsD s l
  if lease s l LEASE.LAYERS < par d 116 1 then 0x0063
  else if !([fmBf16, fmFp32].contains f) && f != lease s l LEASE.KFMT then 0x0062
  else if row = 0 || opLen d 0 % row != 0 || decide (opLen d 0 / row < 1 ∨ 4096 < opLen d 0 / row) then 0x0023
  else 0

/-- How the last step of a translation ends. -/
inductive Attach where
  | ok
  | wait
  | stop (st sub : Nat)
  deriving DecidableEq, Repr

/-- Handles resolved in order and their leases pinned; the first that fails refuses the descriptor (R284). -/
def pinAll (s : State) (sq t : Nat) (hs : List Nat) : (List Nat ⊕ Nat) × State :=
  hs.foldl (fun a h => match a.1 with
    | .inr e => (.inr e, a.2)
    | .inl ls => match resolveHandle a.2 t h with
      | (.inl i, s) => (.inl (ls ++ [i]), pinLease s sq i)
      | (.inr e, s) => (.inr e, s)) (.inl [], s)

/-- The handles that a descriptor names, none while the list of ATTN_DECODE is still to come. -/
def handlesOf (sl : Slot) : Option (List Nat) :=
  let d := sl.d
  if opcode d = ocKvAppend then some [par d 112 4]
  else if opcode d = ocAttn then
    if haveBytes sl 1 0 (opLen d 1) then
      some ((List.range (attnNseq d)).map fun i => leNat (((gather sl 1 0 (opLen d 1)).drop (8 * i)).take 4))
    else none
  else if opcode d = ocKvLease ∧ subOp d ≠ 0 then some [par d 64 4]
  else some []

/-- The opcode names leases, a table or a collection. -/
def usesKv (o : Nat) : Bool := o == ocAttn || o == ocKvAppend || o == ocKvLease
def usesEmb (o : Nat) : Bool := 0x300 ≤ o && o ≤ 0x302
def usesScan (o : Nat) : Bool := o == ocVscan || o == ocVrerank

/-- Leases pinned and snapshots taken when a translation finishes (R284, R294, R372). -/
def attach (s : State) (sl : Slot) : Attach × State :=
  let o := opcode sl.d
  if usesKv o then
    if !kvReady s sl then (.stop stAccess 0x0066, s)
    else
      let s := if o = ocAttn then askBytes s sl.seq 1 0 (opLen sl.d 1) else s
      let sl := (slotOf s sl.seq).getD sl
      match sl.err, handlesOf sl with
      | some (st, sub), _ => (.stop st sub, s)
      | none, none => (.wait, s)
      | none, some hs =>
        match pinAll s sl.seq (qTen s sl.ctx) hs with
        | (.inr e, s) => (.stop stAccess e, s)
        | (.inl ls, s) =>
          let bad := if o = ocAttn then attnCheck s sl.d ls else if o = ocKvAppend then appendCheck s sl.d (ls.headD 0) else 0
          if bad = 0 then (.ok, modSlot s sl.seq fun x => { x with rdata := [], seqs := ls }) else (.stop stAccess bad, s)
  else if usesEmb o && qPrv s sl.ctx then (.stop stAccess 0x0080, s)
  else if usesScan o || o == ocVinsert || o == ocVdelete then
    if !collOk s sl then (.stop stAccess 0x0090, s)
    else if usesScan o then
      let c := collOf sl.d
      let s := modSlot s sl.seq fun x => { x with work := .scan { sq := coll s c VCOLL.SEQ, m := coll s c VCOLL.NEXTSLOT } }
      (.ok, setColl s c VCOLL.SCANS (coll s c VCOLL.SCANS + 1))
    else (.ok, s)
  else (.ok, s)

/-- A descriptor stays untranslated and its queue stops fetching until spill space frees (R63). -/
def spillWait (s : State) (sl : Slot) : State :=
  stopFor (setSlot s sl.seq { sl with ph := .untranslated, ops := [], rgns := [] }) sl.ctx .spill

/-- The translation ends: the descriptor carries the tenant's epoch and waits to launch (R64, R81). -/
def translated (s : State) (sl : Slot) (holds : Bool) : State :=
  match attach s sl with
  | (.stop st sub, s) => complete s sl.seq st sub 0
  | (.wait, s) => s
  | (.ok, s) => modSlot s sl.seq fun x => { x with
      ph := .waiting
      epoch := if holds && !qPrv s sl.ctx then some (getF s TEN_XLTEPOCH.EPOCH (qTen s sl.ctx)) else none }

/-- ADVISE XLT_PRELOAD (R78): its pages are installed and the skipped units counted; it keeps no extents and no epoch. -/
def translatePreload (s : State) (sl : Slot) (rem : RemRecs) : State :=
  let va := opF sl.d 0 OPND.VA
  let len := opLen sl.d 0
  if qPrv s sl.ctx then
    let a := if len = 0 then { s := s } else trPriv { s := s } rem ocAdvise accR va len (va % 8 == 0 && len % 8 == 0)
    match a.stop with
    | some (st, sub) => complete a.s sl.seq st sub 0
    | none => translated (modSlot a.s sl.seq fun x => { x with work := .pool [] 0 none }) sl false
  else
    let ((n, stop), s) := if len = 0 then ((0, none), s)
      else preload rem (qTen s sl.ctx) (va + len) (va % 8 == 0 && len % 8 == 0) (len / 4096 + 2) va 0 s
    match stop with
    | some (st, sub) => complete s sl.seq st sub 0
    | none => translated (modSlot s sl.seq fun x => { x with work := .pool [] n none }) sl false

/-- Every operand of a descriptor in order, to the first fault or stop: operand index and access set of that one. -/
def trAll (s : State) (rem : RemRecs) (sl : Slot) : Tr × List (List SAExt) × Nat × Nat :=
  (operandsOf sl.d).foldl (fun acc u =>
    let (a, ops, i, ac) := acc
    if a.fault.isSome || a.stop.isSome then (a, ops, i, ac)
    else
      let a := trOperand { a with exts := [] } rem sl u.1 u.2
      (a, ops ++ List.replicate (u.1 - ops.length) [] ++ [a.exts], u.1, u.2)) ({ s := s }, [], 0, 0)

/-- The walk of a descriptor's operands and what follows it. -/
def translateWalk (s : State) (sl : Slot) (rem : RemRecs) : State :=
  let (a, ops, i, acc) := trAll s rem sl
  let s := a.s
  match a.fault, a.stop with
  | some (k, l, va), _ => parkFault s sl k l va i acc
  | none, some (st, sub) => complete s sl.seq st sub 0
  | none, none =>
    let n := extCount ops
    if 262144 < n then complete s sl.seq stAccess 0x0015 0
    else if spillBytes n ≠ 0 ∧ spillCap s < spillUsed s + spillBytes n then spillWait s sl
    else
      let sl := { sl with ops := ops, rgns := a.rgns }
      let s := setSlot s sl.seq sl
      if overlapBad sl then complete s sl.seq stAccess 0x00A0 0 else translated s sl true

/-- The pre-translator takes descriptor `sq`. One whose list is written and which waits for its handles goes on there. -/
def translate (s : State) (sq : Nat) (rem : RemRecs) : State :=
  match slotOf s sq with
  | none => s
  | some sl =>
    if !nextToTranslate s sl then s
    else if opcode sl.d = ocAdvise ∧ subOp sl.d = 4 then translatePreload s sl rem
    else if sl.ops != [] then translated s sl true
    else translateWalk s sl rem

/-- TRANSLATE_DESCRIPTOR (R59 to R65). `rem` holds the records of other chips' tier 2 that the checks read. -/
def execTranslateDescriptor (sq : Nat) (rem : RemRecs) (s : State) : Host.Outcome State Fault Refusal :=
  answer workParts s (whenLive s fun s => translate s sq rem)

end Sys2Proof.Machine
end

