-- ==== Sys2Proof/Machine/QueueOps.lean ====
section
/-! DEFINITION. QueueOps.lean: fetching, the checks at arrival, the launch conditions and deadlines (R96, R100, R104 to
R106, R163, R174, R175, R182, R432 to R434). -/
namespace Sys2Proof.Machine

/-! ## Fetching -/

/-- Descriptors that the next read of queue `n` may fetch (R96, R100). -/
def fetchCount (s : State) (n : Nat) : Nat :=
  let size := ringSize s n
  let head := cq s n QCTX.SQHEAD
  let ready := (cq s n QCTX.SQTAIL + 65536 - head) % 65536
  let infl := cq s n QCTX.INFL
  let cplRoom := size - ((cq s n QCTX.CQTAIL + 65536 - cq s n QCTX.CQHEAD) % 65536 + infl)
  let slots := 16384 - s.que.slots.length
  let mine := if partitioned s && !qPrv s n then
      min 16384 (getF s TEN_QSLOTQ.LIMIT (qTen s n)) - (s.que.slots.filter fun e => !qPrv s e.2.ctx && qTen s e.2.ctx == qTen s n).length
    else 16384
  min 8 (min ready (min (size - head % size) (min (maxInfl s n - infl) (min cplRoom (min slots mine)))))

/-- The queue fetches: enabled, RUNNING, its tenant not in reset, the chip not going into PARKED or SILL, and for a ring in
host memory its function may issue requests. One read of a queue is outstanding at a time. -/
def mayFetch (s : State) (n : Nat) : Bool :=
  n < 4096 && cq s n QCTX.EN == 1 && cq s n QCTX.STATE == qRunning
  && (qPrv s n || !s.sec.resetting.contains (qTen s n)) && getF s PWR_STATE.CUR ≤ 1 && !s.pwr.parking
  && (cq s n QCTX.SQLOC == 1 || canIssue s (qFn s n))
  && !(s.que.reads.any fun r => r.ctx == n)

/-- The ring address of index `i`. -/
def ringAddr (s : State) (n i : Nat) : Nat := cq s n QCTX.SQADDR * 128 + 128 * (i % ringSize s n)

/-- A ring read is issued: its slots, INFL and completion entries are reserved. A ring in the store is read at its home (R99): in
this chip's near tier at once; elsewhere its lines are asked for as an engine's are, and gathered in the first slot. -/
def fetch (s : State) (n : Nat) : State :=
  let k := fetchCount s n
  if !mayFetch s n || k = 0 then s else
  let head := cq s n QCTX.SQHEAD
  let q := s.que.nextSeq
  let new := (List.range k).map fun i => (q + i, ({ seq := q + i, d := 0, ctx := n, idx := (head + i) % 65536, ftime := s.tim.now } : Slot))
  let s := { s with que := { s.que with
    slots := new.foldl (fun m e => mput m e.1 e.2) s.que.slots, nextSeq := q + k
    reads := s.que.reads ++ [{ ctx := n, first := head, n := k, seqs := new.map (·.1) }] } }
  let s := setF (setQ (setQ s n QCTX.SQHEAD (head + k)) n QCTX.INFL (cq s n QCTX.INFL + k)) PWR_STATE.CUR 0 0
  let a := ringAddr s n head
  if cq s n QCTX.SQLOC = 1 then
    if saChip a = own s ∧ saTier a = 0 then
      let ds := (List.range k).map fun i => ofBytes 1024 (ownRead s (a + 128 * i) 128)
      { s with que := { s.que with reads := s.que.reads.map fun r => if r.ctx = n then { r with data := some ds } else r } }
    else askAt s q a (128 * k)
  else emit s (.hostRead (qFn s n) (ringAddr s n head) (128 * k) (n * 65536 + head))

/-! ## Arrival -/

/-- The chip keeps frame time well enough for raisings to launch (R432, R433): SYNCED or HOLDOVER. -/
def timeGood (s : State) : Bool := getF s TIM_SYNC.STATE == 2 || getF s TIM_SYNC.STATE == 3

/-- Frame time lies more than 1 µs past RTIME. -/
def past1us (s : State) (d : Desc) : Bool := decide (hd d DHDR.RTIME + 256000 < s.tim.now.toNat)

/-- The lateness test (R432, R433): a late raising on a queue with LATEPOL = 0 completes with `sub`. -/
def lateTest (s : State) (sl : Slot) (sub : Nat) : State :=
  if past1us s sl.d && cq s sl.ctx QCTX.LATEPOL == 0 then complete s sl.seq stRaiseMissed sub 0
  else modSlot s sl.seq fun x => { x with raiseOk := true }

/-- A descriptor that waits on a tally may do so (R182). -/
def waitOk (s : State) (sl : Slot) : Bool := tallyMine s (hd sl.d DHDR.TALLY) (qTen s sl.ctx) (qPrv s sl.ctx)

/-- One descriptor's bytes reach its slot (R104, R118, R182, R432). `chk` gives the substatus of the checks that need the
chip's tables. -/
def arriveOne (s : State) (chk : State → Slot → Nat) (sq : Nat) (d : Desc) : State :=
  match slotOf s sq with
  | none => s
  | some sl =>
    let sl := { sl with d := d }
    let s := bump (setSlot s sq { sl with ph := .untranslated }) 0x0102 1 (occOf s sl)
    let sub := headerCheck d (qPrv s sl.ctx)
    if sl.ctag.contains (hd d DHDR.TAG) then complete (modSlot s sq fun x => { x with stop := none }) sq stCancelled 0 0
    else match sl.stop with
    | some (st, c) => complete (modSlot s sq fun x => { x with stop := none }) sq st c 0
    | none =>
      if sub ≠ 0 then complete s sq stAccess sub 0
      else if chk s sl ≠ 0 then complete s sq stAccess (chk s sl) 0
      else if twait d && !waitOk s sl then complete s sq stAccess 0x0030 0
      else
        let s := modSlot s sq fun x => 
          { x with tallyWait := twait d
                   tallyOk := twait d && decide (hd d DHDR.TARGET ≤ bget (tallyRec s (hd d DHDR.TALLY)) TALLY.COUNT) }
        if raising d && timeGood s then lateTest s sl 0 else s

/-- The descriptors that a ring read brings: `ds` from host memory, or the bytes of a ring in the store as they were read (R95);
none while lines are still awaited. -/
def ringData (s : State) (r : RingRead) (ds : List Desc) : Option (List Desc) :=
  if cq s r.ctx QCTX.SQLOC = 0 then some ds
  else match r.data with
    | some ds => some ds
    | none =>
      let a := ringAddr s r.ctx r.first
      match (r.seqs.head?).bind (slotOf s) with
      | none => some []
      | some sl =>
        if haveAt sl a (128 * r.n) then
          some ((List.range r.n).map fun i => ofBytes 1024 (gatherAt sl (a + 128 * i) 128))
        else none

/-- A status that the read of a ring in the store met: every descriptor of the read completes with it (log entry 17). -/
def ringErr (s : State) (r : RingRead) : State :=
  match (r.seqs.head?).bind (slotOf s) with
  | none => s
  | some sl =>
    let s := modSlot s sl.seq fun x => { x with rdata := [], asked := [], err := none }
    match sl.err with
    | none => s
    | some e => r.seqs.foldl (fun s q => modSlot s q fun x => { x with stop := x.stop.or (some e) }) s

/-- A ring read returns. -/
def arrive (s : State) (chk : State → Slot → Nat) (n first : Nat) (ds : List Desc) : State :=
  match s.que.reads.find? fun r => r.ctx == n && r.first == first with
  | none => s
  | some r =>
    match ringData s r ds with
    | none => s
    | some ds =>
      let s := ringErr s r
      let s := { s with que := { s.que with reads := s.que.reads.filter fun x => !(x.ctx == n && x.first == first) } }
      (r.seqs.zip (ds ++ List.replicate (r.n - ds.length) 0)).foldl (fun s e => arriveOne s chk e.1 e.2) s

/-! ## Launch (R105) -/

/-- Every earlier descriptor of the queue has completed, parked ones included (R74). -/
def earlierDone (s : State) (sl : Slot) : Bool :=
  !((mvals s.que.slots).any fun x => x.ctx == sl.ctx && decide (x.seq < sl.seq))
  && !((mvals s.que.park).any fun x => x.slot.ctx == sl.ctx && decide (x.slot.seq < sl.seq))
  && !(s.que.retryWait.any fun x => x.ctx == sl.ctx && decide (x.seq < sl.seq))

def fenced (d : Desc) : Bool := hd d DHDR.POSTED_FENCE == 1

/-- Condition 2, and 3, which implies it (R174). -/
def orderOk (s : State) (sl : Slot) : Bool :=
  (!(hd sl.d DHDR.ORDERED == 1 || fenced sl.d) || earlierDone s sl)
  && (!fenced sl.d || !(s.eng.pend.any fun p => p.ctx == sl.ctx && decide (p.seq < sl.seq)))

/-- Condition 5. A raising that passed its lateness test waits for RTIME on a chip that keeps time; one found late has
passed RTIME already. -/
def raiseDue (s : State) (sl : Slot) : Bool :=
  !raising sl.d || (sl.raiseOk && timeGood s && decide (hd sl.d DHDR.RTIME ≤ s.tim.now.toNat))

/-- Every launch condition holds. -/
def canLaunch (s : State) (sl : Slot) : Bool :=
  sl.ph == .waiting && orderOk s sl && (!twait sl.d || sl.tallyOk) && raiseDue s sl && mediaReady s sl
  && !s.red.freeze

/-- Lost and refused writes that a POSTED_FENCE descriptor covers (R175, R641). -/
def covered (s : State) (sl : Slot) : List (Nat × Nat × Nat × Nat × Nat) :=
  if fenced sl.d then s.que.lost.filter fun l => l.1 == sl.ctx && decide (l.2.1 < sl.seq) else []

/-- The descriptor launches. -/
def launchIt (s : State) (sl : Slot) : State :=
  let late := raising sl.d && past1us s sl.d
  let s := if raising sl.d then bump s 0x0105 1
      { occOf s sl with mst := none
                        lat := some ((s.tim.now.toNat - hd sl.d DHDR.RTIME) * 10 / 1024) } else s
  let s := if late then
      let s := satF s TIM_RSTAT.LATE 0
      if qPrv s sl.ctx then s else satF s TEN_RAISESTAT.LATE (qTen s sl.ctx)
    else s
  let w := if opcode sl.d = ocTallyWait then Work.pool [] (bget (tallyRec s (hd sl.d DHDR.TALLY)) TALLY.COUNT) none else sl.work
  { setSlot s sl.seq { sl with ph := .launched, lseq := s.que.nextLaunch, late := late, work := w } with
    que := { (setSlot s sl.seq { sl with ph := .launched, lseq := s.que.nextLaunch, late := late, work := w }).que with
      nextLaunch := s.que.nextLaunch + 1 } }

/-- A launch attempt: once condition 3 is resolved a descriptor that covers a lost write completes with its report. -/
def launch (s : State) (sq : Nat) : State :=
  match slotOf s sq with
  | none => s
  | some sl =>
    if sl.ph != .waiting then s
    else match covered s sl with
      | l :: ls =>
        if orderOk s sl then
          let (st, sub) := if (l :: ls).any fun x => x.2.2.1 == stRegionLost then (stRegionLost, 0x0040) else (l.2.2.1, l.2.2.2.1)
          complete { s with que := { s.que with lost := s.que.lost.filter fun x => !(l :: ls).contains x } } sq st sub 0
        else s
      | [] => if canLaunch s sl then launchIt s sl else mediaAsk s sl

/-! ## Deadlines (R106, R212, R229) -/

/-- What a descriptor that waits on the far tier completes with when its deadline passes; none when it does not wait
there. -/
def tierWait (s : State) (sq : Nat) : Option Stop :=
  let mine (q : HomeReq) : Bool := q.who == .slot sq
  -- requests behind another's on a line in STAGE wait as it does (Table TIR-8)
  let behind := (s.home.retry.filter fun w => mine w.req).filterMap fun w =>
    (txnOn s w.req.sa).bind fun e => if e.2.tr = .stage then some e.2.req else none
  let filling (q : HomeReq) : Bool := (mvals s.store.pages).any fun g => g.deferred.contains q
  if (mvals s.store.pages).any (fun g => g.deferred.any mine) || behind.any filling then some (stTierLate, 1)
  else match (s.store.pageWait ++ behind).find? fun q => mine q || behind.contains q with
    | some q =>
      if !q.prv && decide (limitQ s TEN_QUOTA_STG.LIMIT q.ten 66584576 ≤ getF s TEN_QUOTA_STG.USED q.ten) then some (stQuota, 3)
      else some (stTierLate, 1)
    | none => none

/-- A deadline that passes while the work is done and local writes are awaited: those that wait on the far tier, or have not
started, are given up, and the completion follows the others (R170, R212). A status it already has stays; a KV_APPEND whose new
TOKENS is on its way to memory ends as that write does (R291). -/
def deadlineFin (s : State) (sq : Nat) : State :=
  let (st, sub) := (tierWait s sq).getD (stTimeout, 0)
  let t := withdraw s sq
  let sure (x : Slot) : Bool := match x.work with | .append _ _ 2 => x.owed != 0 | _ => false
  tryFinish (modSlot t sq fun x => match x.fin with
    | some (a, _, _) => if fine a && x.err.isNone && !sure x then { x with fin := some (st, sub, 0) } else x
    | none => x) sq

/-- A deadline that passes while an operator runs: it stops at its next tile boundary. A LAYER_STREAM has a deadline for each of
its waits instead (R317); a PUBLISH ends unless it is on its way to another home or has been accepted by its own, which keep its
deadline (Table STO-9). -/
def deadlineRun (s : State) (sq : Nat) (sl : Slot) : State :=
  if opcode sl.d = ocLayer then s
  else if opcode sl.d = ocPublish ∧ sl.work = .await sq then
    let mine := s.xlt.pubWait.filter fun w => w.chip == own s && w.tag == sq
    if !mine.isEmpty then complete { s with xlt := { s.xlt with pubWait := s.xlt.pubWait.filter fun w => !mine.contains w } } sq stTimeout 0 0
    else if s.txq.any (pubQueued s sl) then pubTakeBack s sl stTimeout 0
    else s
  else match tierWait s sq with
    | some (st, sub) => modSlot (stopRunning s sq st sub) sq fun x => { x with lateAt := x.lateAt.or (some s.tim.now) }
    | none => stopRunning s sq stTimeout 0

/-- The deadline of descriptor `sq` passes, in its slot or while it waits for one. -/
def deadline (s : State) (sq : Nat) : State :=
  match slotOf s sq with
  | none =>
    match s.que.retryWait.find? fun sl => sl.seq == sq with
    | some sl => if hasDeadline s sl.ctx sl.d then completeWaiting s sl stTimeout 0 else s
    | none => s
  | some sl =>
    if !hasDeadline s sl.ctx sl.d then s else
    match sl.ph with
    | .fetching => modSlot s sq fun x => { x with stop := x.stop.or (some (stTimeout, 0)) }
    | .untranslated => complete s sq stTimeout 0 0
    | .waiting => if mediaReady s sl then complete s sq stTimeout 0 0 else complete s sq stTierLate 2 0
    | .finishing => deadlineFin s sq
    | _ => deadlineRun s sq sl

end Sys2Proof.Machine
end

