-- ==== Sys2Proof/Machine/StageOps.lean ====
section
/-! DEFINITION. StageOps.lean: staging pages after their fill, their write-back and eviction, and failed pseudo-channels
and flash channels (chapters "Tiers, staging and quotas" and "Redundancy, failure and recovery"). -/
namespace Sys2Proof.Machine

/-! ## Requests that waited -/

/-- A request that waited on a page or for one is tried again. One without a transaction is a write, or a fill asked for in
advance (ADVISE HOT). -/
def resumeReq (s : State) (q : HomeReq) : State :=
  match txnOn s q.sa with
  | some (h, t) => if t.tr = .stage ∧ t.req = q then access s h t else s
  | none =>
    let sa := (localSa s q.sa).getD q.sa
    if q.kind = .engWr ∨ q.kind = .wb then
      match lineWrite s q sa with
      | (.done, s) => landed s q
      | (.waits, s) => s
      | (.bad st sub, s) => failed s q st sub
    else if q.who = .memClass then (lineRead s q sa).2
    else s

/-- A request that waited ends with a status. -/
def failReq (s : State) (q : HomeReq) (st sub : Nat) : State :=
  match txnOn s q.sa with
  | some (h, t) => if t.tr = .stage ∧ t.req = q then failTxn s h t st sub else s
  | none => failed s q st sub

/-- The waiters of page `p` are released in order. -/
def releasePage (s : State) (p : Nat) : State :=
  match mget s.store.pages p with
  | none => s
  | some g => g.deferred.foldl resumeReq (setPage s p { g with deferred := [] })

/-- Requests that wait for a page are tried again, in order (R206, R229). -/
def pageWaitRun (s : State) : State :=
  s.store.pageWait.foldl resumeReq { s with store := { s.store with pageWait := [] } }

/-! ## Fills (R195, R196, R215 to R217) -/

/-- The bytes of a block as the medium gives them under the extent's key: zeros where nothing was written under it. -/
def mediumData (s : State) (blk : Nat) : BitVec 32768 :=
  let b := farBlock s blk
  if b.key = keyOf s (blkRec s blk) then b.data else 0

/-- Fill data land: lines whose LVALID is 0 take them (R196). -/
def pgFill (g : Page) (d : BitVec 32768) : Page :=
  let keep := pgValid g
  let data := (List.range 64).foldl (fun (acc : BitVec 32768) n =>
    if keep.getLsbD n then acc else bset acc ⟨512 * n, 512⟩ (bget d ⟨512 * n, 512⟩)) g.data
  { g with data := data, poison := g.poison &&& keep, slost := g.slost &&& keep,
           entry := bset g.entry PAGE.LVALID (2 ^ 64 - 1), redundant := false }

/-- A waiter of a fill whose deadline passed in this fclk: the outcome of the fill wins, and the deadline finds the descriptor no
longer waiting on the far tier (R213). `stop` is what it then stops with. -/
def fillWins (s : State) (g : Page) (stop : Option Stop) : State :=
  g.deferred.foldl (fun s q => match q.who with
    | .slot sq => modSlot s sq fun x =>
        if x.lateAt = some s.tim.now ∧ x.stop = some (stTierLate, 1) then { x with stop := stop, lateAt := none } else x
    | _ => s) s

/-- A page whose fill has ended: CLEAN or DIRTY, its waiters released. -/
def fillEnd (s : State) (p : Nat) (g : Page) : State :=
  let s := fillWins s g (some (stTimeout, 0))
  let g := pgSet g PAGE.STATE (if pg g PAGE.DMASK = 0 then pgClean else pgDirty)
  let s := bump s 0x0403 1 { ten := some (pg g PAGE.TENANT), sa := some (mkSa (own s) 1 (pg g PAGE.BLOCK * 4096)) }
  releasePage (setPage s p g) p

/-- A block marked quarantined (R217). -/
def quarantineBlk (s : State) (blk sa : Nat) : State :=
  if (farBlock s blk).quar then s else
  let s := putFar s blk { farBlock s blk with quar := true }
  let s := setEvt (satF s TIER_QUARCNT.BLOCKS 0) TIER_EVT.QUAR
  ledger s 0x0504 2 none [sa]

/-- Every waiter of a page's fill ends together; the page becomes FREE, or PARTIAL with dirty sectors (R216). -/
def fillFail (s : State) (p : Nat) (g : Page) (sub : Nat) : State :=
  let s := fillWins s g none
  let s :=
    if pg g PAGE.DMASK = 0 then freePage s p
    else setPage s p { pgSet g PAGE.STATE pgPartial with deferred := [], redundant := false }
  let s := g.pins.foldl (fun s q => modSlot s q fun x => match x.work with
    | .layer d r l w none => { x with work := .layer d r l w (some (pageKey g, sub)) }
    | _ => x) s
  pageWaitRun (g.deferred.foldl (fun s q => failReq s q stTierUncorr sub) s)

/-! ## Write-back (R198 to R201, R218, R44) -/

/-- The extent of a block retires, its tenant is in reset or its sled quiesces: a page of it is written back (R199). -/
def wbForced (s : State) (g : Page) : Bool :=
  let e := pg g PAGE.BLOCK / 2 ^ 18
  bget (extRec s 1 e) EXT.STATE == exRetiring
  || (!btst g.entry PAGE.SYSX && s.sec.resetting.contains (pg g PAGE.TENANT))
  || getF s PWR_SLED.STATE (e / 65536 % 4) == 5 && g.foreign == 0
  || (btst g.entry PAGE.MIRROR && s.pwr.flush.any fun x => x.2.contains e)

/-- A page that is freed once it is clean: its extent retires. -/
def wbFrees (s : State) (g : Page) : Bool := bget (extRec s 1 (pg g PAGE.BLOCK / 2 ^ 18)) EXT.STATE == exRetiring

/-- Another chip's request to write back mirror pages is answered once no such page is dirty (R556). -/
def flushCheck (s : State) : State :=
  let busy (es : List Nat) : Bool := s.store.pages.any fun e =>
    btst e.2.entry PAGE.MIRROR && es.contains (pg e.2 PAGE.BLOCK / 2 ^ 18)
      && (pg e.2 PAGE.DMASK != 0 || e.2.wbCopy.isSome || pg e.2 PAGE.STATE == pgPartial)
  let done := s.pwr.flush.filter fun x => !busy x.2
  done.foldl (fun s x => emit s (.mirrorFlushed x.1 x.2)) { s with pwr := { s.pwr with flush := s.pwr.flush.filter fun x => busy x.2 } }

/-- Parity deltas to the P and Q homes of a PARITY8+2 data block (R44); a fenced home gets none (R486, R490). -/
def parityOut (s : State) (blk : Nat) (delta : BitVec 32992) (g : Page) : State × Page :=
  let r := blkRec s blk
  if bget r EXT.RCLASS ≠ 2 ∨ 8 ≤ bget r EXT.POS then (s, g)
  else
    let rec_ := pgrRec s (bget r EXT.GROUP)
    let one (s : State) (i : Nat) : State × Bool :=
      let (c, e) := Config.pgrMember rec_ i
      if fencedChip s (c % 1024) then (s, false)
      else (emit s (.parity (c % 1024) (mkSa (c % 1024) 1 (e % 2 ^ 18 * 2 ^ 30 + blk % 2 ^ 18 * 4096)) (bget r EXT.POS) delta), true)
    let (s, p) := one s 8
    let (s, q) := one s 9
    (s, { g with parP := p, parQ := q, parFail := false })

/-- A write-back starts (R200): the page is copied, DMASK cleared, the block programmed and parity updated. -/
def wbStart (s : State) (p : Nat) (g : Page) : State :=
  let blk := pageKey g
  let iv := Config.initVec s.fresh
  let s := { s with fresh := s.fresh + 1 }
  let new : FarBlock := { data := g.data, key := keyOf s (blkRec s blk), iv := iv }
  let (s, g) := parityOut s blk (storedBlock blk (farBlock s blk) ^^^ storedBlock blk new) g
  setPage s p { pgSet (pgSet g PAGE.STATE pgWriting) PAGE.DMASK 0 with
    wbCopy := some (g.data, BitVec.ofNat 8 (pg g PAGE.DMASK)), wbIv := iv, wbWant := false, wbDone := false, wbPull := false }

/-- The write-back is acknowledged once the block is programmed and no parity acknowledgement is awaited. A parity home
that failed to acknowledge has the block written again (R44). -/
def wbEnd (s : State) (p : Nat) (g : Page) : State :=
  if !g.wbDone || g.parP || g.parQ then setPage s p g else
  let mask := ((g.wbCopy.map fun (x : BitVec 32768 × BitVec 8) => x.2).getD 0).toNat
  let g0 := { g with wbCopy := none, wbDone := false }
  if g.parFail then
    setPage s p { pgSet (pgSet g0 PAGE.STATE pgDirty) PAGE.DMASK (pg g0 PAGE.DMASK ||| mask) with wbWant := true, parFail := false }
  else
    let dirty := pg g0 PAGE.DMASK
    let sd := (List.range 64).foldl (fun (m : BitVec 64) n => if dirty.testBit (n / 8) then m else maskClr m n) g0.sdirty
    let g0 := { pgSet g0 PAGE.STATE (if dirty = 0 then pgClean else pgDirty) with sdirty := sd }
    let s := bump s 0x0404 1 { ten := some (pg g PAGE.TENANT), sa := some (pageBlockSa s g) }
    flushCheck (confine workParts s (if dirty = 0 && wbFrees s g0 && (heldLines s g0).isEmpty && g0.deferred.isEmpty then
        pageWaitRun (freePage (setPage s p g0) p)
      else setPage s p g0))

/-- The medium holds the copied block and its mapping is durable; a quarantine of it ends (R200, R218). -/
def wbProgrammed (s : State) (p : Nat) (g : Page) : State :=
  let blk := pageKey g
  match g.wbCopy with
  | none => s
  | some (d, _) =>
    let was := (farBlock s blk).quar
    let s := if g.foreign ≠ 0 then s else putFar s blk { data := d, key := keyOf s (blkRec s blk), iv := g.wbIv, quar := false }
    let s := if was then setF s TIER_QUARCNT.BLOCKS 0 (getF s TIER_QUARCNT.BLOCKS 0 - 1) else s
    wbEnd s p { g with wbDone := true }

/-! ## Eviction (R203 to R208) -/

/-- Rank of a HINT (Table TIR-6). A STREAM page ranks first once the descriptor that last used it has completed. -/
def hintRank (s : State) (g : Page) : Nat :=
  match pg g PAGE.HINT with
  | 3 => if (g.user.bind (slotOf s)).isSome then 4 else 0
  | 2 => 1
  | 0 => 2
  | _ => 3

/-- The page may be chosen for a request of tenant `t`, or of a SYS extent (R205, R207, R315): in shared mode any page, SYS
pages for SYS requests alone; in partitioned mode, and for a tenant at its quota, pages of the one that needs the page. -/
def evictable (s : State) (t : Nat) (sys : Bool) (g : Page) : Bool :=
  let sysx := btst g.entry PAGE.SYSX
  let alone := partitioned s || (!sys && decide (limitQ s TEN_QUOTA_STG.LIMIT t 66584576 ≤ getF s TEN_QUOTA_STG.USED t))
  pg g PAGE.STATE == pgClean && pageWaiters s g == 0 && g.pins.isEmpty && hintRank s g != 4
  && (if alone then sysx == sys && (sys || pg g PAGE.TENANT == t) else !sysx || sys)

/-- The order of R205: HINT rank, HELD = 0 first, oldest AGE. -/
def evictKey (s : State) (g : Page) : Nat :=
  hintRank s g * 2 ^ 40 + (if (heldLines s g).isEmpty then 0 else 2 ^ 36) + pg g PAGE.AGE

/-- The first of `l` in that order. -/
def evictFirst (s : State) (l : List (Nat × Page)) : Option (Nat × Page) :=
  l.foldl (fun b e => match b with
    | none => some e
    | some x => if evictKey s e.2 < evictKey s x.2 then some e else some x) none

/-- The candidate. -/
def evictPick (s : State) (t : Nat) (sys : Bool) : Option (Nat × Page) :=
  evictFirst s (s.store.pages.filter fun e => evictable s t sys e.2)

/-- A request of tenant `t`, or of a SYS extent, waits for a page (R206, R207). -/
def pageNeeded (s : State) (t : Nat) (sys : Bool) : Bool :=
  s.store.pageWait.any fun q =>
    let r := blkRec s (blkKey s ((localSa s q.sa).getD q.sa))
    btst r EXT.SYS == sys && (sys || bget r EXT.OWNER == t)

/-- A recall of a line of the page is in progress. -/
def recallOpen (s : State) (g : Page) : Bool :=
  let mine (q : HomeReq) : Bool := q.kind == .recall && saLine q.sa / 64 == saLine (pageBlockSa s g) / 64
  (s.home.htx.any fun e => mine e.2.req) || s.home.retry.any fun w => mine w.req

/-- The end of an eviction, once every snoop sent for it is answered (Table TIR-7): a page that no request wants and whose
lines nobody holds is freed, and waiting requests take it; any other stays. -/
def evictEnd (s : State) (p : Nat) (g : Page) : State :=
  if pg g PAGE.STATE ≠ pgEvicting ∨ recallOpen s g then s
  else if g.evAbandon || !(heldLines s g).isEmpty then setPage s p { unEvict g with evAbandon := false }
  else pageWaitRun (freePage (bump s 0x0405 1 { ten := some (pg g PAGE.TENANT), sa := some (pageBlockSa s g) }) p)

/-- A page chosen for eviction: its holders are invalidated first (R208). -/
def evict (s : State) (p : Nat) (g : Page) : State :=
  let s := setPage s p { pgSet g PAGE.STATE pgEvicting with evAbandon := false }
  let s := (heldLines s g).foldl (fun s n =>
    homeStart s { kind := .recall, who := .memClass, ten := pg g PAGE.TENANT, prv := true, sa := pageBlockSa s g + 64 * n }) s
  match mget s.store.pages p with
  | some g => evictEnd s p g
  | none => s

/-- Pages being evicted whose holders have all answered. -/
def evictSweep (s : State) : State := (mkeys s.store.pages).foldl (fun s p => match mget s.store.pages p with
  | some g => evictEnd s p g
  | none => s) s

/-- CLEAN pages of a retiring extent are given up (R202). -/
def retirePages (s : State) (e : Nat) : State :=
  (mkeys s.store.pages).foldl (fun s p => match mget s.store.pages p with
    | some g =>
      if g.foreign = 0 ∧ pg g PAGE.BLOCK / 2 ^ 18 = e ∧ pg g PAGE.STATE = pgClean ∧ pageWaiters s g = 0 ∧ g.pins = [] then evict s p g
      else s
    | none => s) s

/-! ## The choice of a write-back (R199, R200) -/

/-- The write-back engine may take the page: a DIRTY one, or a PARTIAL one whose block a merge fill may complete (R217). Blocks
of a failed channel are held (Table FLT-5). -/
def wbReady (s : State) (g : Page) : Bool :=
  let st := pg g PAGE.STATE
  !(g.foreign == 0 && s.store.failedCh.contains (chOf (pageKey g % 2 ^ 36)))
  && ((st == pgDirty && !g.wbPull) || (st == pgPartial && !(farBlock s (pageKey g)).quar))

/-- The page comes first in the eviction order of R205 among those that could be written back. -/
def wbFirst (s : State) (g : Page) : Bool :=
  match evictFirst s (s.store.pages.filter fun e => wbReady s e.2) with
  | some x => decide (evictKey s g ≤ evictKey s x.2)
  | none => false

/-- The write-back engine may choose the page (R199): for a cause of its own, or, while the pool runs low, in the eviction
order. -/
def wbChosen (s : State) (g : Page) : Bool := g.wbWant || wbForced s g || (poolIsLow s && wbFirst s g)

/-- A write-back is chosen: the owners of the page's lines are snooped first, and the copy made when they have answered
(R146, R200). -/
def wbBegin (s : State) (p : Nat) (g : Page) : State :=
  if (ownedIn s (pageBlockSa s g) 64).isEmpty then wbStart s p g
  else memPull (setPage s p { g with wbPull := true }) (pageBlockSa s g) 64

/-- Copies whose owners have answered. -/
def wbRun (s : State) : State := (mkeys s.store.pages).foldl (fun s p => match mget s.store.pages p with
  | some g =>
    if !g.wbPull || memBusy s (pageBlockSa s g) 64 then s
    else if pg g PAGE.STATE = pgDirty then wbStart s p g else setPage s p { g with wbPull := false }
  | none => s) s

/-! ## Failed units (Table FLT-5) -/

/-- A pseudo-channel is declared failed: MIRROR2 primaries become DEGRADED, lines of other extents read POISON. -/
def pcFail (s : State) (pc : Nat) : State :=
  if s.store.failedPc.contains pc then s else
  let s := { s with store := { s.store with failedPc := insRising s.store.failedPc pc } }
  let es := s.store.ext.filter fun e => e.1 < 2 ^ 18 && btst e.2 EXT.VALID && bget e.2 EXT.RCLASS == 1 && bget e.2 EXT.ROLE == 0
  let s := es.foldl (fun s e => degrade s 0 e.1 2) s
  report s 0x0A pc s.store.failedPc.length 0

/-- Pages of the blocks of a flash channel. -/
def channelPages (s : State) (ch : Nat) : List (Nat × Page) :=
  s.store.pages.filter fun e => e.2.foreign == 0 && chOf (pg e.2 PAGE.BLOCK) == ch

/-- A plane engine or its channel leaves service: the scans that still read it lose it (R381). -/
def scanLose (s : State) (ch : Nat) : State :=
  let s := setEvt (regSet s .VSC_PESTAT 0 (maskSet (regGet s .VSC_PESTAT 0) ch)) VSC_EVT.PEFAIL
  { s with que := { s.que with slots := mmap s.que.slots fun _ sl => match sl.work with
      | .scan r => if mgetD 0 r.pos ch < mgetD 0 r.tot ch then { sl with work := .scan { r with gone := insRising r.gone ch } } else sl
      | _ => sl } }

/-- A flash channel is declared failed: fills in progress go to redundancy, or fail in a NONE extent with 0x0004. -/
def channelFail (s : State) (ch : Nat) : State :=
  if s.store.failedCh.contains ch then s else
  let s := { s with store := { s.store with failedCh := insRising s.store.failedCh ch } }
  let held := channelPages s ch
  let s := held.foldl (fun s e =>
    if pg e.2 PAGE.STATE = pgFilling then
      if bget (blkRec s (pageKey e.2)) EXT.RCLASS = 0 then fillFail s e.1 e.2 4 else setPage s e.1 { e.2 with redundant := true }
    else s) s
  report (scanLose s ch) 0x09 ch held.length 0

/-- A near line that ECC cannot correct (R219): the secondary's line rewrites it, or it becomes poisoned. -/
def nearUncorr (s : State) (sa : Nat) (sec : Option Line) : State :=
  match sec, bget (recOf s sa) EXT.RCLASS with
  | some d, 1 => ledger (nearWrite s (keyOf s (recOf s sa)) (saOff sa) d false (bget (nearRaw s (saOff sa)).lmeta LMETA.DIRSUM))
      0x0505 2 none [sa, 1]
  | _, _ => ledger (poisonLine s sa true) 0x0505 2 none [sa, 0]

/-- The scrubber counts a line it found uncorrectable; the second on a pseudo-channel fails it (R220, Table FLT-5). -/
def scrubCount (s : State) (pc line : Nat) : State :=
  match mget s.store.scrubBad pc with
  | some l => if l = line then s else pcFail s pc
  | none => { s with store := { s.store with scrubBad := mput s.store.scrubBad pc line } }

/-- What the scrubber finds in a line (R220). -/
def scrubLine (s : State) (line ecc : Nat) (sec : Option Line) : State :=
  match ecc with
  | 0 => s
  | 1 => satF s TIER_SCRUB.CORR 0
  | _ => scrubCount (nearUncorr s (mkSa (own s) 0 (line * 64)) sec) (pcOf s (line * 64)) line

/-- A scrub step whose owner has answered. -/
def scrubRun (s : State) : State :=
  match s.store.scrubHeld with
  | none => s
  | some (line, ecc, sec) =>
    if memBusy s (mkSa (own s) 0 (line * 64)) 1 then s
    else scrubLine { s with store := { s.store with scrubHeld := none } } line ecc sec

/-- Engine writes of other chips whose partly covered lines are at hand are performed (R641). -/
def remRun (s : State) : State :=
  s.home.rem.foldl (fun s r =>
    if r.owed = 0 ∧ r.bad.isNone ∧ r.hold ≠ [] then
      let s := { s with home := { s.home with rem := s.home.rem.map fun (x : RemOp) =>
        if x.chip = r.chip ∧ x.tag = r.tag then { x with owed := r.hold.length, hold := [], got := [] } else x } }
      r.hold.foldl homeStart s
    else s) s

/-- Operations of the home that waited for an answer, a line or the end of a transaction go on. -/
def homeOps (s : State) : State := scrubRun (wbRun (evictSweep (remRun s)))

end Sys2Proof.Machine
end

