-- ==== Sys2Proof/Machine/Layer.lean ====
section
/-! DEFINITION. Layer.lean: LAYER_STREAM (R313 to R319). -/
namespace Sys2Proof.Machine

/-- Parameters (Table ATT-9). -/
def lyRdyBase (d : Desc) : Nat := par d 64 8
def lyDoneBase (d : Desc) : Nat := par d 72 8
def lyRdy (d : Desc) : Nat := par d 80 2
def lyDone (d : Desc) : Nat := par d 82 2
def lyW (d : Desc) : Nat := par d 84 1
def lyNL (d : Desc) : Nat := opLen d 1 / 8 - 1

/-- Offset `j` of the list, as gathered. -/
def lyOff (sl : Slot) (j : Nat) : Nat := leNat (gather sl 1 (8 * j) 8)

/-- The offsets break R313. -/
def lyOffBad (sl : Slot) : Bool :=
  let n := lyNL sl.d
  lyOff sl 0 != 0 || lyOff sl n != opLen sl.d 0 || (List.range n).any fun j => decide (lyOff sl (j + 1) ≤ lyOff sl j)

/-- Far-tier blocks of this chip that the layers from `j` on, `k` of them, touch. -/
def lyBlocks (sl : Slot) (j k : Nat) : List Nat :=
  let j2 := min (lyNL sl.d) (j + k)
  if j2 ≤ j then [] else
  (((piecesOf (extsOf sl 0) (lyOff sl j) (lyOff sl j2 - lyOff sl j)).filter fun p => saTier p.1 == 1).map fun p =>
    (List.range ((saOff p.1 + p.2 - 1) / 4096 + 1 - saBlk p.1)).map (saBlk p.1 + ·)).flatten.eraseDups

/-- No page of the block is FREE or FILLING. -/
def blkStaged (s : State) (b : Nat) : Bool := match pageOf s b with | some (_, g) => pg g PAGE.STATE != pgFilling | none => false

/-- Layer `j` is staged (R315). -/
def lyStaged (s : State) (sl : Slot) (j : Nat) : Bool := (lyBlocks sl j 1).all (blkStaged s)

/-- The done count now: never negative, never falling (R315). -/
def lyCount (s : State) (sl : Slot) (d : Nat) : Nat := max d (bget (tallyRec s (lyDone sl.d)) TALLY.COUNT - lyDoneBase sl.d)

/-- The window of layers that begins at the done count `d`. -/
def lyWindow (sl : Slot) (d : Nat) : List Nat := lyBlocks sl d (lyW sl.d)

/-- What refuses a LAYER_STREAM at its start (R314); 0 where it passes. -/
def lyCheck (s : State) (sl : Slot) : Nat :=
  let d := sl.d
  let t := qTen s sl.ctx
  let prv := qPrv s sl.ctx
  if lyOffBad sl then 0x0023
  else if !tallyMine s (lyRdy d) t prv || !tallyMine s (lyDone d) t prv || lyRdy d == lyDone d then 0x0030
  else if (extsOf sl 0).any fun e => saChip e.base != own s then 0x0071
  else if !prv && (List.range (lyNL d)).any fun j => decide (limitQ s TEN_QUOTA_STG.LIMIT t 66584576 < (lyWindow sl j).length) then 0x0070
  else 0

/-- A block of the window: its page pinned, or a fill issued with HINT STREAM. -/
def lyFill (s : State) (sl : Slot) (b : Nat) : State :=
  let bad (sub : Nat) : State := modSlot s sl.seq fun x => match x.work with
    | .layer d r l w none => { x with work := .layer d r l w (some (b, sub)) }
    | _ => x
  let dead := chDead s (chOf b)
  match pageOf s b with
  | some (p, g) => if g.pins.contains sl.seq then s else setPage s p { g with pins := g.pins ++ [sl.seq], user := some sl.seq }
  | none =>
    if dead && bget (blkRec s b) EXT.RCLASS == 0 then bad 4
    else if (farBlock s b).quar then bad 3
    else match allocPage s b (blkRec s b) pgFilling 3 with
      | some (p, g, s) => setPage s p { g with pins := [sl.seq], user := some sl.seq, redundant := dead }
      | none => s

/-- The pages of layers that the window has left are unpinned. -/
def lyUnpin (s : State) (sl : Slot) (d : Nat) : State :=
  let keep := lyWindow sl d
  let out (g : Page) : Page :=
    if keep.contains (pageKey g) then g else { g with pins := g.pins.filter (· != sl.seq) }
  { s with store := { s.store with pages := mmap s.store.pages fun _ g => out g } }

/-- Layers signalled: those below the done count, and the staged ones that follow without a gap (R316). -/
def lyReady (s : State) (sl : Slot) (from_ : Nat) : Nat → Nat
  | 0 => from_
  | n + 1 => if from_ < lyNL sl.d && lyStaged s sl from_ then lyReady s sl (from_ + 1) n else from_

/-- Layers to signal when `r` are signalled and the done count is `d`: layers that the done count has passed count as staged once
the next one is. -/
def lySignalled (s : State) (sl : Slot) (r d : Nat) : Nat :=
  let n := lyReady s sl r (lyNL sl.d)
  if n < d && lyReady s sl d (lyNL sl.d) != d then lyReady s sl d (lyNL sl.d) else n

/-- RDY set as TALLY_SET does. -/
def lySignal (s : State) (sl : Slot) (n : Nat) : State :=
  let i := lyRdy sl.d
  if tallyMine s i (qTen s sl.ctx) (qPrv s sl.ctx) then
    tallyTouch (setTally s i (bset (tallyRec s i) TALLY.COUNT (lyRdyBase sl.d + n))) i
  else s

/-- A late-weight event (R317). -/
def lyLate (s : State) (sl : Slot) : State :=
  let s := if qPrv s sl.ctx then s else satF s TEN_LSTAT.LATEW (qTen s sl.ctx)
  bump s 0x0603 1 { occOf s sl with mst := none, cls := none }

/-- The layer of the window at done count `d` that holds block `b`. -/
def lyOfBlock (sl : Slot) (d b : Nat) : Nat := (((List.range (lyW sl.d)).map (d + ·)).find? fun j => (lyBlocks sl j 1).contains b).getD d

/-- An uncorrectable fill of the window ends the stream and the waiters on RDY (R318). -/
def lyUncorr (s : State) (sl : Slot) (d b sub : Nat) : State :=
  tallyEnd (finish s sl.seq stTierUncorr sub (lyOfBlock sl d b)) (lyRdy sl.d) stTierUncorr 0x0011

/-- Every LAYER_STREAM whose window holds a failed fill ends. -/
def lyFails (s : State) : State :=
  (mvals s.que.slots).foldl (fun s sl => match sl.work with
    | .layer d _ _ _ (some (b, sub)) => lyUncorr s sl d b sub
    | _ => s) s

/-- The stream acts on its tallies and pages as they are now. -/
def lyStep (s : State) (sl : Slot) (first : Bool) : State :=
  match sl.work with
  | .layer d0 r late w _ =>
    let d := lyCount s sl d0
    if lyNL sl.d ≤ d then finish s sl.seq stOk 0 late
    else
      let s := lyUnpin s sl d
      let s := (lyWindow sl d).foldl (fun s b => lyFill s sl b) s
      let missed := !first && d != d0 && !lyStaged s sl d
      let s := if missed then lyLate s sl else s
      let n := lySignalled s sl r d
      let sig := n != r
      let s := if sig then lySignal s sl n else s
      let s := modSlot s sl.seq fun x => match x.work with
        | .layer _ _ _ _ b => { x with work := .layer d (if sig then n else r) (if missed then late + 1 else late) ((w || missed) && !lyStaged s sl d) b }
        | _ => x
      lyFails s
  | _ => s

/-- LAYER_STREAM begins, or, given again, looks at its tallies and pages. -/
def layerGo (s : State) (sq : Nat) : State :=
  atBoundary s sq fun sl =>
    if opcode sl.d ≠ ocLayer then s
    else match sl.work with
      | .layer .. => lyStep s sl false
      | _ =>
        let s := askBytes s sq 1 0 (opLen sl.d 1)
        match slotOf s sq with
        | none => s
        | some sl =>
          match sl.err with
          | some e => finish s sq e.1 e.2 0
          | none =>
            if !haveBytes sl 1 0 (opLen sl.d 1) then s
            else if lyCheck s sl ≠ 0 then finish s sq stAccess (lyCheck s sl) 0
            else
              let sl := { sl with ph := .running, work := .layer (lyCount s sl 0) 0 0 false none }
              lyStep (setSlot s sq sl) sl true

/-- Every running LAYER_STREAM looks at its tallies and pages. -/
def layerTick (s : State) : State :=
  (mvals s.que.slots).foldl (fun s sl => match sl.work with
    | .layer .. => layerGo s sl.seq
    | _ => s) s

/-- What follows once a step has answered snoops, landed lines or ended transactions: operations of the home that waited for it
go on within the step, and so do the LAYER_STREAMs whose tallies or pages it changed (R315 to R319). -/
def homeWork (s : State) : State := layerTick (homeOps s)

/-- LAYER_STREAM (R313 to R319). -/
def execLayerStream (sq : Nat) (s : State) : Host.Outcome State Fault Refusal := answer workParts s (whenLive s fun s => layerGo s sq)

/-- The wait of a LAYER_STREAM for a layer that is not staged ends in TIER_LATE, and so do the waiters on RDY. -/
def layerLate (s : State) (sq : Nat) : State :=
  match slotOf s sq with
  | none => s
  | some sl =>
    match sl.work with
    | .layer d _ _ true _ =>
      if lyStaged s sl d || !hasDeadline s sl.ctx sl.d || sl.ph != .running then s
      else
        let s := if qPrv s sl.ctx then s else satF s TEN_LSTAT.LATEEND (qTen s sl.ctx)
        tallyEnd (finish s sq stTierLate 0x0010 d) (lyRdy sl.d) stTierLate 0x0011
    | _ => s

/-- LAYER_WAIT_DEADLINE (R317): a staging in the same fclk prevails. -/
def execLayerWaitDeadline (sq : Nat) (s : State) : Host.Outcome State Fault Refusal :=
  answer workParts s (whenLive s fun s => layerLate (layerTick s) sq)

end Sys2Proof.Machine
end

