-- ==== Sys2Proof/Machine/Control.lean ====
section
/-! DEFINITION. Control.lean: NOP, TALLY_WAIT, TALLY_SET, PREFETCH and ADVISE (Table QUE-7, R108, R110, R182, R183, R209 to
R211). -/
namespace Sys2Proof.Machine

/-- A launched descriptor with opcode `oc` begins. -/
def begins (s : State) (oc sq : Nat) (go : Slot → State) : State :=
  atBoundary s sq fun sl => if sl.ph == .launched && opcode sl.d == oc then go sl else s

/-- NOP (R108). -/
def execNop (sq : Nat) (s : State) : Host.Outcome State Fault Refusal :=
  answer coreParts s (whenLive s fun s => begins s ocNop sq fun _ => finish s sq stOk 0 0)

/-- The result that a descriptor carries since its launch or translation. -/
def keptRes (sl : Slot) : Nat := match sl.work with | .pool _ r _ => r | _ => 0

/-- TALLY_WAIT (R108, R182): the tally's value at launch. -/
def execTallyWait (sq : Nat) (s : State) : Host.Outcome State Fault Refusal :=
  answer coreParts s (whenLive s fun s => begins s ocTallyWait sq fun sl => finish s sq stOk 0 (keptRes sl))

/-- TALLY_SET (R183): one indivisible step. It is not stopped by cancellation once launched (R119). -/
def execTallySet (sq : Nat) (s : State) : Host.Outcome State Fault Refusal :=
  answer workParts s (whenLive s fun s => layerTick (begins s ocTallySet sq fun sl =>
    let i := par sl.d 56 2
    if tallyMine s i (qTen s sl.ctx) (qPrv s sl.ctx) then
      finish (tallyTouch (setTally s i (bset (tallyRec s i) TALLY.COUNT (par sl.d 48 8))) i) sq stOk 0 0
    else finish s sq stAccess 0x0030 0))

/-! ## PREFETCH -/

/-- A host range cut at 4 KiB boundaries (R562): offset and length of each read. -/
def hostCuts (addr len : Nat) : List (Nat × Nat) :=
  if len = 0 then [] else
  (List.range ((addr + len - 1) / 4096 + 1 - addr / 4096)).map fun k =>
    let lo := max addr ((addr / 4096 + k) * 4096)
    let hi := min (addr + len) ((addr / 4096 + k + 1) * 4096)
    (lo - addr, hi - lo)

/-- DIR = 0: the host reads are issued. -/
def prefetchIn (s : State) (sl : Slot) : State :=
  let fn := qFn s sl.ctx
  let va := opF sl.d 0 OPND.VA
  let s := setSlot s sl.seq { sl with ph := .running, work := .await sl.seq }
  (hostCuts va (opLen sl.d 0)).foldl (fun s (off, n) =>
    let t := s.que.nextHtag
    emit { s with que := { s.que with hreads := s.que.hreads ++ [(t, sl.seq, off, n)], nextHtag := t + 1 } } (.hostRead fn (va + off) n t)) s

/-- DIR = 1: the store operand is read, then written to the host in payloads of at most 512 bytes. -/
def prefetchOut (s : State) (sl : Slot) : State :=
  let n := opLen sl.d 1
  let s := askBytes s sl.seq 1 0 n
  match slotOf s sl.seq with
  | none => s
  | some sl =>
    if !haveBytes sl 1 0 n then s
    else
      let bs := gather sl 1 0 n
      let fn := qFn s sl.ctx
      let s := (List.range (ceilDiv n 512)).foldl (fun s k =>
        hostWrite s fn (opF sl.d 0 OPND.VA + 512 * k) ((bs.drop (512 * k)).take 512)) s
      finish s sl.seq stOk 0 n

/-- PREFETCH (R110, R211). The command is given again while the lines it reads are still to come, or while its function
may issue no request. -/
def execPrefetch (sq : Nat) (s : State) : Host.Outcome State Fault Refusal :=
  answer workParts s (whenLive s fun s => begins s ocPrefetch sq fun sl =>
    if opLen sl.d 0 = 0 then finish s sq stOk 0 0
    else if !canIssue s (qFn s sl.ctx) then s
    else if ops0 sl.d 1 1 = 0 then prefetchIn s sl else prefetchOut s sl)

/-- Host data for a PREFETCH: written into the store; after the last the descriptor completes. -/
def hostData (s : State) (tag : Nat) (data : List Byte) : State :=
  match s.que.hreads.find? fun h => h.1 == tag with
  | none => s
  | some (_, sq, off, n) =>
    let s := { s with que := { s.que with hreads := s.que.hreads.filter fun h => h.1 != tag } }
    atBoundary s sq fun sl =>
      let s := storeBytes s sq 1 off ((data ++ List.replicate (n - data.length) 0).take n)
      if s.que.hreads.any fun h => h.2.1 == sq then s else finish s sq stOk 0 (opLen sl.d 1)

/-- HOST_READ_DATA (R562, R110). -/
def execHostReadData (tag : Nat) (data : List Byte) (s : State) : Host.Outcome State Fault Refusal :=
  answer workParts s (whenLive s fun s => layerTick (hostData s tag data))

/-! ## ADVISE (R209, R210) -/

/-- Blocks of this chip's far tier that the range touches. -/
def adviseBlocks (s : State) (sl : Slot) : List Nat :=
  (((extsOf sl 0).filter fun e => saTier e.base == 1 && saChip e.base == own s).map fun e =>
    (List.range ((saOff e.base + e.len - 1) / 4096 + 1 - saBlk e.base)).map (saBlk e.base + ·)).flatten.eraseDups

/-- The parts of the range that other chips hold, told to their homes (log entry 126). -/
def adviseFar (s : State) (sl : Slot) (hint : Nat) : State :=
  ((extsOf sl 0).filter fun e => saTier e.base == 1 && saChip e.base != own s && !fencedChip s (saChip e.base)).foldl
    (fun s e => emit s (.advise (saChip e.base) e.base e.len hint)) s

/-- HINT recorded on the staged pages of the range; COLD chooses the dirty ones for write-back. -/
def adviseHint (s : State) (sl : Slot) (hint : Nat) : State :=
  (adviseBlocks s sl).foldl (fun s b => match pageOf s b with
    | some (p, g) => setPage s p { pgSet g PAGE.HINT hint with wbWant := g.wbWant || (hint == 2 && pg g PAGE.DMASK != 0) }
    | none => s) (adviseFar s sl hint)

/-- Fills of the unstaged blocks of a HOT range, while the tenant's staging USED is below its LIMIT: whether all were
issued. A fill for which no page is free waits for one, as every request does (R206). -/
def adviseFill (s : State) (sl : Slot) : Bool × State :=
  let t := qTen s sl.ctx
  (adviseBlocks s sl).foldl (fun (a : Bool × State) b =>
    let s := a.2
    if !a.1 || (pageOf s b).isSome || (farBlock s b).quar || (chDead s (chOf b) && bget (blkRec s b) EXT.RCLASS == 0) then a
    else if !qPrv s sl.ctx && !btst (blkRec s b) EXT.SYS
        && decide (limitQ s TEN_QUOTA_STG.LIMIT t 66584576 ≤ getF s TEN_QUOTA_STG.USED t) then (false, s)
    else match allocPage s b (blkRec s b) pgFilling 1 with
      | some (p, g, s) => (true, setPage s p { g with redundant := chDead s (chOf b) })
      | none => (true, { s with store := { s.store with pageWait := s.store.pageWait ++
          [{ kind := .engRd, who := .memClass, ten := t, prv := qPrv s sl.ctx, sa := mkSa (own s) 1 (b * 4096), hint := 1 }] } })) (true, s)

/-- An ADVISE of kind `k` begins. -/
def advise (s : State) (sq k : Nat) (go : State → Slot → State) : State :=
  begins s ocAdvise sq fun sl => if subOp sl.d = k then go s sl else s

/-- ADVISE_NONE (R209). -/
def execAdviseNone (sq : Nat) (s : State) : Host.Outcome State Fault Refusal :=
  answer coreParts s (whenLive s fun s => advise s sq 0 fun s sl => finish (adviseHint s sl 0) sq stOk 0 0)

/-- ADVISE_HOT (R209, R210). -/
def execAdviseHot (sq : Nat) (s : State) : Host.Outcome State Fault Refusal :=
  answer coreParts s (whenLive s fun s => advise s sq 1 fun s sl =>
    match adviseFill (adviseHint s sl 1) sl with
    | (true, s) => finish s sq stOk 0 0
    | (false, s) => finish s sq stQuota 3 0)

/-- ADVISE_COLD (R209). -/
def execAdviseCold (sq : Nat) (s : State) : Host.Outcome State Fault Refusal :=
  answer coreParts s (whenLive s fun s => advise s sq 2 fun s sl => finish (adviseHint s sl 2) sq stOk 0 0)

/-- ADVISE_STREAM (R209). -/
def execAdviseStream (sq : Nat) (s : State) : Host.Outcome State Fault Refusal :=
  answer coreParts s (whenLive s fun s => advise s sq 3 fun s sl => finish (adviseHint s sl 3) sq stOk 0 0)

/-- ADVISE_XLT_PRELOAD (R78): the walk was made at translation; the result counts the skipped units. -/
def execAdviseXltPreload (sq : Nat) (s : State) : Host.Outcome State Fault Refusal :=
  answer coreParts s (whenLive s fun s => advise s sq 4 fun s sl => finish s sq stOk 0 (keptRes sl))

end Sys2Proof.Machine
end

