-- ==== Sys2Proof/Machine/Plan.lean ====
section
/-! DEFINITION. Plan.lean: weights as they are stored and as the cells hold them, the plan of a SPARSE_GEMM, and what one array
holds (R235, R236, R249 to R251, R260, R263 to R265). -/
namespace Sys2Proof.Machine

/-! ## Stored tiles (R249 to R251) -/

/-- Stored elements of one column of a logical tile, and the logical tiles of one physical tile, by SPAR. -/
def colElems (spar : Nat) : Nat := if spar = 1 then 32 else if spar = 2 then 16 else 64
def physTiles (spar : Nat) : Nat := if spar = 1 then 2 else if spar = 2 then 4 else 1

/-- Metadata bytes of a stored tile. -/
def metaBytes (spar : Nat) : Nat := if spar = 1 then 512 else if spar = 2 then 256 else 0

/-- A K × N weight matrix as it is stored: format, K, N, SPAR, its bytes, metadata and tile bitmap (none: every tile is
stored). -/
structure WMat where
  fmt : Nat
  k : Nat
  n : Nat
  spar : Nat := 0
  bytes : List Byte
  mdat : List Byte := []
  bmap : Option (List Byte) := none

/-- Logical tile `t` is stored. -/
def tileStored (bmap : Option (List Byte)) (t : Nat) : Bool :=
  match bmap with
  | none => true
  | some bs => ((bs.getD (t / 8) 0).toNat / 2 ^ (t % 8)) % 2 == 1

/-- Stored tiles among the first `n`. -/
def storedTiles (bmap : Option (List Byte)) (n : Nat) : Nat := ((List.range n).filter (tileStored bmap)).length

/-- The weights of column `c` of the stored tile of rank `r`: (row in the tile, element number) (R250). -/
def colWeights (spar : Nat) (mdat : List Byte) (r c : Nat) : List (Nat × Nat) :=
  let e0 := (r * 64 + c) * colElems spar
  if spar = 1 then ((List.range 16).map fun g =>
    let x := bitsAt mdat (((r * 64 + c) * 16 + g) * 4) 4
    [(4 * g + x % 4, e0 + 2 * g), (4 * g + x / 4, e0 + 2 * g + 1)]).flatten
  else if spar = 2 then (List.range 16).map fun g => (4 * g + bitsAt mdat (((r * 64 + c) * 16 + g) * 2) 2, e0 + g)
  else (List.range 64).map fun i => (i, e0 + i)

/-- The scale byte of a block of column `c` of the stored tile of rank `r` (R241, R249). -/
def wScale (w : WMat) (total : Nat) (r c half : Nat) : Nat :=
  if isMx w.fmt then ((w.bytes.getD (ceilDiv (elemBytes w.fmt total) 64 * 64 + (r * 64 + c) * 2 + half) 0)).toNat else 127

/-- The cells of column `c` of a physical tile: reduction row, element, block scale. -/
def colCells (w : WMat) (total : Nat) (ts : List (Nat × Nat)) (c : Nat) : List (Nat × Nat × Nat) :=
  (ts.map fun t => (colWeights w.spar w.mdat t.2 c).map fun x =>
    (64 * t.1 + x.1, rawElem w.fmt w.bytes x.2, wScale w total t.2 c (x.1 / 32))).flatten

/-- Physical tiles of column tile `nt` with a stored logical tile: the stored tiles (tile row, rank) of each. -/
def physOf (w : WMat) (nt : Nat) : List (List (Nat × Nat)) :=
  let kt := w.k / 64
  let p := physTiles w.spar
  ((List.range (ceilDiv kt p)).map fun g =>
    (List.range p).filterMap fun j =>
      let r := g * p + j
      if r < kt && tileStored w.bmap (nt * kt + r) then some (r, storedTiles w.bmap (nt * kt + r)) else none).filter (· != [])

/-! ## The plan (R260) -/

/-- The tile bitmap of a SPARSE_GEMM, and its weights without their bytes: what a plan needs. -/
def gemmBmap (sl : Slot) : Option (List Byte) :=
  if opLen sl.d 3 = 0 then none else some (gather sl 3 0 (opLen sl.d 3))
def gemmShape (sl : Slot) : WMat :=
  { fmt := opF sl.d 1 OPND.FMT, k := gemmK sl.d, n := gemmN sl.d, spar := gemmSpar sl.d, bytes := [], bmap := gemmBmap sl }

/-- Output tiles: row chunk and column tile. -/
def gemmTilesOut (d : Desc) : List (Nat × Nat) :=
  ((List.range (ceilDiv (gemmM d) 1024)).map fun mt => (List.range (gemmN d / 64)).map fun nt => (mt, nt)).flatten

/-- One of the arrays `l`, whichever firmware picks. -/
def someArray (seed i : Nat) (l : List Nat) : Nat := l.getD (Config.pick2 seed i % l.length) 0

/-- The plan over the arrays `l`: every output tile whole on one array where there are as many as arrays, else the physical
tiles of each divided among them (R260). Which array gets what, and the order of a tile's passes, are firmware's. -/
def planParts (sl : Slot) (l : List Nat) (seed : Nat) : List GPart :=
  let out := gemmTilesOut sl.d
  let w := gemmShape sl
  (out.mapIdx fun i x =>
    let ts := someOrder (seed * 2 ^ 64 + i) (physOf w x.2)
    if l.length ≤ out.length then [{ arr := someArray seed i l, mt := x.1, nt := x.2, ts := ts : GPart }]
    else
      let at_ (j : Nat) : Nat := someArray seed (2 ^ 32 * (i + 1) + j) l
      let own (a : Nat) : List (List (Nat × Nat)) := (ts.mapIdx fun j t => (at_ j, t)).filterMap fun y => if y.1 = a then some y.2 else none
      let ps := l.filterMap fun a => if own a = [] then none else some { arr := a, mt := x.1, nt := x.2, ts := own a : GPart }
      match ps with
      | [] => [{ arr := someArray seed i l, mt := x.1, nt := x.2, ts := [] : GPart }]
      | p :: ps => p :: ps.map fun q => { q with lead := false }).flatten

/-- A part has run all its passes. One whose tile has no stored weight tile takes one end of pass for its plane work. -/
def GPart.over (p : GPart) : Bool := decide (max 1 p.ts.length ≤ p.ran)

/-- Parts not over whose array the kernel no longer holds start again from their first pass on the arrays `l` (R272). -/
def rehome (l : List Nat) (seed : Nat) (r : GemmRun) : GemmRun :=
  if l = [] then r
  else { r with parts := r.parts.mapIdx fun i p => if p.over || l.contains p.arr then p else { p with arr := someArray seed i l, ran := 0 } }

/-! ## One array -/

def unitOf (s : State) (a : Nat) : ArrUnit := mgetD {} s.arr.unit a
def setUnit (s : State) (a : Nat) (u : ArrUnit) : State := { s with arr := { s.arr with unit := mputD {} s.arr.unit a u } }

/-- Lines of a bench, and the bank that serves one (R263). -/
def benchLines : Nat := 6 * 2 ^ 20 / 64
def benchBank (l : Nat) : Nat := l % 64 % 48

/-- A line of the bench. -/
def benchRead (u : ArrUnit) (l : Nat) : Line :=
  mgetD (match u.benchUse with | none => 0 | some n => Config.benchLine n l) u.bench l

/-- A vector register of the plane. -/
def vectorReg (u : ArrUnit) (r : Nat) : BitVec 16384 := match u.vregUse with | none => 0 | some n => Config.vectorReg n r

/-- The sequencer zeroes the bench and the plane's vector registers (R264). -/
def benchZero (u : ArrUnit) : ArrUnit := { u with bench := [], benchUse := none, vregUse := none }

/-- The first bench line of the accumulators: 256 KiB for 1,024 rows of 64 (R263). -/
def accFirst : Nat := Config.accBase % (benchLines - 4096)

/-- The accumulators of `n` rows, row by row. -/
def readAcc (u : ArrUnit) (n : Nat) : List Nat :=
  ((List.range (4 * n)).map fun i => (List.range 16).map fun k => bget (benchRead u (accFirst + i)) ⟨32 * k, 32⟩).flatten

/-- The accumulators written. -/
def writeAcc (u : ArrUnit) (l : List Nat) : ArrUnit :=
  { u with bench := (List.range (ceilDiv l.length 16)).foldl (fun m i =>
      mput m (accFirst + i) (ofBytes 512 (((l.drop (16 * i)).take 16).map (leBytes 4)).flatten)) u.bench }

/-- Array `a` at the end of a pass: microcode has used the bench, the plane and the sequencer. -/
def unitUse (s : State) (a : Nat) : State :=
  let n := s.fresh
  setUnit { s with fresh := n + 1 } a { unitOf s a with
    bench := [], benchUse := some n, vregUse := some n
    pc := BitVec.ofNat 32 (Config.freeWord n).toNat, iw := BitVec.ofNat 32 (Config.pick n) }

end Sys2Proof.Machine
end

