-- ==== Sys2Proof/Machine/ArrOps.lean ====
section
/-! DEFINITION. ArrOps.lean: the arrays: how a kernel is granted arrays, runs, gives them up and ends, replay, and plumb
checks (R260, R264, R269 to R272, R494 to R496). -/
namespace Sys2Proof.Machine

/-! ## Arrays free and held (R270) -/

/-- Array `a` may be granted: it holds no kernel, is not fenced, wakes from no gating and runs no self-test. -/
def arrayFree (s : State) (a : Nat) : Bool :=
  decide (a < 32) && (mget s.arr.held a).isNone && !(regGet s .ARR_FENCED 0).getLsbD a
    && !s.arr.waking.contains a && !s.arr.testing.contains a

def freeArrays (s : State) : List Nat := (List.range 32).filter (arrayFree s)

/-- Arrays held by a kernel, rising. -/
def arraysOf (s : State) (sq : Nat) : List Nat := (s.arr.held.filter fun e => e.2 == sq).map (·.1)

/-- Arrays one kernel may hold: MAXARR in shared mode (Table ARR-13). -/
def maxArrays (s : State) : Nat :=
  if partitioned s then 32 else let m := getF s ARR_CFG.MAXARR; if m = 0 then 1 else min m 32

/-- The owner of a kernel: its tenant, 512 for a privileged queue (R264). -/
def ownerOf (s : State) (sl : Slot) : Nat := if qPrv s sl.ctx then 512 else qTen s sl.ctx

/-- Counts of frame time in a window of 100 µs. -/
def shareWindow : Nat := 25600000

/-- The tenant has array-time left in this window (R270). -/
def shareLeft (s : State) (sl : Slot) : Bool :=
  !partitioned s || qPrv s sl.ctx
    || decide (mgetD 0 s.arr.used (qTen s sl.ctx) * 256 < min 256 (getF s TEN_ARRQ.SHARE (qTen s sl.ctx)) * 32 * shareWindow)

/-- Array-time of `dt` counts charged to the tenants whose kernels hold arrays; a new window starts with none used. -/
def arrayTime (s : State) (dt : Nat) : State :=
  let w := s.tim.now.toNat / shareWindow
  let u := if w = s.arr.win then s.arr.used else []
  { s with arr := { s.arr with
    win := w
    used := s.arr.held.foldl (fun m e => match slotOf s e.2 with
      | some sl => if qPrv s sl.ctx then m else mput m (qTen s sl.ctx) (mgetD 0 m (qTen s sl.ctx) + dt)
      | none => m) u } }

/-- The kernel enters array `a`: its bench and vector registers are zeroed where they served a kernel of another owner (R264),
and a power-gated array wakes first (R545). -/
def enterArray (s : State) (sl : Slot) (a : Nat) : State :=
  let s := if (mget s.arr.last a).any (· != ownerOf s sl) then setUnit s a (benchZero (unitOf s a)) else s
  { s with arr := { s.arr with
    held := mput s.arr.held a sl.seq
    last := mput s.arr.last a (ownerOf s sl)
    bound := s.arr.bound.filter (· != a)
    waking := if s.arr.gated.contains a then insRising s.arr.waking a else s.arr.waking
    gated := s.arr.gated.filter (· != a) } }

/-- The plan of a kernel over the arrays that it holds (R260, R269, R272). -/
def planWork (s : State) (sq : Nat) : State :=
  let l := arraysOf s sq
  let n := s.fresh
  modSlot { s with fresh := n + 1 } sq fun x => match x.work with
    | .gemm r => { x with work := .gemm (if r.plan then rehome l n r else { r with plan := true, parts := planParts x l n }) }
    | _ => x

/-- A kernel takes the array `a` and, up to its limit, other free ones; firmware plans its work over them. -/
def takeArrays (s : State) (sl : Slot) (a : Nat) : State :=
  let want := (a :: (freeArrays s).filter (· != a)).take (maxArrays s)
  let s := want.foldl (fun s a => enterArray s sl a) s
  planWork (modSlot { s with arr := { s.arr with waiting := s.arr.waiting.filter (· != sl.seq) } } sl.seq fun x => { x with ph := .running }) sl.seq

/-- The waiting kernels that may be granted arrays, the earliest launched first. -/
def nextKernel (s : State) : Option Slot :=
  (s.arr.waiting.filterMap (slotOf s)).foldl (fun b sl =>
    if !shareLeft s sl then b
    else match b with
      | none => some sl
      | some x => if sl.lseq < x.lseq then some sl else b) none

/-- A kernel takes arrays now, or waits for one. -/
def kernelWait (s : State) (sl : Slot) : State :=
  match freeArrays s with
  | a :: _ =>
    if (nextKernel s).isNone && shareLeft s sl then takeArrays s sl a
    else { s with arr := { s.arr with waiting := s.arr.waiting ++ [sl.seq] } }
  | [] => { s with arr := { s.arr with waiting := s.arr.waiting ++ [sl.seq] } }

/-- Array `a` is granted to the next waiting kernel; one told to stop while it waited ends instead. -/
def grantArray (s : State) (a : Nat) : State :=
  if !arrayFree s a then s
  else match nextKernel s with
    | some sl => atBoundary s sl.seq fun sl => takeArrays s sl a
    | none => s

/-! ## Operands of a kernel -/

/-- Bytes of operand `i` of a kernel. Those that an operand of `os` overlaps are undefined (R258). -/
def kernelBytes (s : State) (sl : Slot) (os : List Nat) (i : Nat) : List Byte :=
  let bs := gather sl i 0 (opLen sl.d i)
  let es := (os.map (extsOf sl)).flatten
  if overlap (extsOf sl i) es then
    bs.mapIdx fun k b => match saAt (extsOf sl i) k with
      | some sa => if es.any fun e => decide (e.base ≤ sa ∧ sa < e.base + e.len) then Config.freeByte (s.fresh + k) else b
      | none => b
  else bs

/-- Operand `i` left undefined by a stop: each granule is old, or data of the descriptor that no rule states (Table QUE-9). -/
def storeUndef (s : State) (sq i off n : Nat) : State :=
  let k := s.fresh
  storeMaybe { s with fresh := k + n } sq i off ((List.range n).map fun j => Config.freeByte (k + j))

/-- The lines of the whole of the operands listed, asked. -/
def askAll (s : State) (sq : Nat) (is : List Nat) : State :=
  is.foldl (fun s i => match slotOf s sq with
    | some sl => askBytes s sq i 0 (opLen sl.d i)
    | none => s) s

def haveAll (sl : Slot) (is : List Nat) : Bool := is.all fun i => haveBytes sl i 0 (opLen sl.d i)

/-- The failure, other than poison, that ends a kernel at its next boundary. -/
def hardErr (sl : Slot) : Option Stop := match sl.err with | some e => if e.1 = stPoison then none else some e | none => none

/-! ## Replay and plumb checks -/

/-- The kernel is replayable (R272, R291, R302, R312). -/
def replayable (sl : Slot) : Bool :=
  let o := opcode sl.d
  let clear (i : Nat) (js : List Nat) : Bool := js.all fun j => !overlap (extsOf sl i) (extsOf sl j)
  if o = ocGemm then ops0 sl.d 3 1 == 0 && clear 4 [0, 1, 2, 3]
  else if o = ocAttn then clear 2 [0, 1] && clear 3 [0, 1]
  else if o = ocExpert then ops0 sl.d 6 1 == 0 && clear 4 [0, 1, 2, 3]
  else if o = ocVscan then clear 1 [0, 2] && clear 2 [0, 1]
  else o == ocKvAppend

/-- A launch of a replayable kernel counted; one in every PERIOD is selected (R494). -/
def plumbCount (s : State) (sl : Slot) : State :=
  let p := getF s RED_PLUMB.PERIOD
  if !replayable sl then s
  else
    let n := s.arr.plumbCnt
    let pick := p != 0 && n % p == Config.pick2 (n / p) p % p
    { s with arr := { s.arr with plumbCnt := n + 1, chosen := if pick then insRising s.arr.chosen sl.seq else s.arr.chosen } }

/-- A kernel begins with the work `w`: it takes arrays or waits (R269). -/
def kernelStart (s : State) (sl : Slot) (w : Work) : State :=
  if s.arr.waiting.contains sl.seq then s
  else
    let s := match sl.work with
      | .idle | .scan _ => plumbCount s sl
      | _ => s
    kernelWait (modSlot s sl.seq fun x => { x with work := w }) { sl with work := w }

/-- A plumb check of the kernel is in progress. -/
def plumbBusy (s : State) (sq : Nat) : Bool := (mget s.arr.plumb sq).any fun p => !p.ok

/-- A kernel's first execution has ended: a selected one waits for the comparison, the others complete. A kernel replayed
after a failed self-test completes with substatus 0x00C0 (R496). -/
def kernelEnd (s : State) (sq st sub res : Nat) (out : List (Nat × List Byte)) : State :=
  match mget s.arr.plumb sq with
  | some p => if p.ok then finish s sq st (if fine st && p.sub != 0 then p.sub else sub) res else s
  | none =>
    if s.arr.chosen.contains sq then { s with arr := { s.arr with
      chosen := s.arr.chosen.filter (· != sq)
      plumb := mput s.arr.plumb sq { st := st, sub := sub, res := res, out := out } } }
    else finish s sq st sub res

/-- What array `a` had done of a kernel and had not finished is done again (Table ARR-11, step 3): SPARSE_GEMM's parts start
from their first pass, an expert's passes are counted from a free number on, and a group of ATTN_DECODE of which the array read a
block is read again. -/
def replayWork (n a : Nat) : Work → Work
  | .gemm r => .gemm { r with parts := r.parts.map fun p => if p.arr = a ∧ !p.over then { p with ran := 0 } else p }
  | .ffn r => .ffn { r with left := r.left + Config.pick n }
  | .attn seqs gs => .attn seqs (gs.map fun g => if !g.done ∧ g.on.contains a then { g with read := [], on := [] } else g)
  | w => w

/-- The kernel's array `a` is given up, and its work planned anew; a kernel left without any waits for one (Table ARR-11,
step 6). -/
def loseArray (s : State) (sl : Slot) (a : Nat) : State :=
  let s := { s with arr := { s.arr with held := mdel s.arr.held a, bound := s.arr.bound.filter (· != a) } }
  let n := s.fresh
  let s := modSlot { s with fresh := n + 1 } sl.seq fun x => { x with work := replayWork n a x.work }
  if (arraysOf s sl.seq).isEmpty then
    modSlot { s with arr := { s.arr with waiting := s.arr.waiting ++ [sl.seq] } } sl.seq fun x => { x with ph := .launched }
  else planWork s sl.seq

/-- A kernel whose tenant has used its share gives the array up at the boundary (R270). -/
def shareCheck (s : State) (sq a : Nat) : State :=
  match slotOf s sq with
  | some sl => if mget s.arr.held a = some sq ∧ !shareLeft s sl then loseArray s sl a else s
  | none => s

/-- Every array of a kernel is at its tile boundary, or has nothing to do (R271). -/
def allBound (s : State) (sl : Slot) : Bool :=
  (arraysOf s sl.seq).all fun a => s.arr.bound.contains a || s.arr.waking.contains a || match sl.work with
    | .gemm r => r.parts.all fun p => p.arr != a || p.over
    | .attn _ gs => gs.all fun g => g.done
    | _ => false

/-- A kernel that is told to stop is at a tile boundary on the arrays `l`: `fin` once it is so on every array it holds, with its
outputs as `stop` leaves them; `go` for one that runs on. -/
def boundaryOn (s : State) (sl : Slot) (l : List Nat) (stop : State → Slot → State) (go : Slot → State) : State :=
  if sl.stop.isNone then atBoundary s sl.seq go
  else
    let s := { s with arr := { s.arr with bound := l.foldl insRising s.arr.bound } }
    if allBound s sl then
      atBoundary (stop { s with arr := { s.arr with bound := s.arr.bound.filter fun a => !(arraysOf s sl.seq).contains a } } sl) sl.seq go
    else s

/-- The outputs of a kernel, written in part or not: undefined where a stop ends it (Table QUE-9). Output tiles that SPARSE_GEMM
has finished stand. -/
def undefOut (s : State) (sl : Slot) : State :=
  let d := sl.d
  let o := opcode d
  let whole (s : State) (i : Nat) : State := if opLen d i = 0 then s else storeUndef s sl.seq i 0 (opLen d i)
  match sl.work with
  | .gemm r =>
    let eb := fmBits (opF d 4 OPND.FMT) / 8
    ((gemmTilesOut d).filter fun x => (mget r.outs (x.1 * 2 ^ 16 + x.2)).isNone).foldl (fun s x =>
      (List.range (min 1024 (gemmM d - 1024 * x.1))).foldl (fun s k =>
        storeUndef s sl.seq 4 (((1024 * x.1 + k) * gemmN d + 64 * x.2) * eb) (64 * eb)) s) s
  | .ffn _ => whole s 4
  | .attn .. => whole (whole s 2) 3
  | .scan _ => whole s (if o = ocVscan then 1 else 2)
  | _ => s

/-- The statuses that leave outputs undefined (Table QUE-9). -/
def undefStatus (st : Nat) : Bool := [stTierLate, stTierUncorr, stQuota, stUnitLost, stRegionLost, stTimeout].contains st

/-- Array `a` is fenced until cold reset (R493, Table ARR-11). -/
def fenceArray (s : State) (a : Nat) : State :=
  if a ≥ 32 || (regGet s .ARR_FENCED 0).getLsbD a then s else
  let s := regSet s .ARR_FENCED 0 (maskSet (regGet s .ARR_FENCED 0) a)
  let s := match mget s.arr.held a with
    | none => s
    | some sq =>
      match slotOf s sq with
      | none => { s with arr := { s.arr with held := mdel s.arr.held a } }
      | some sl =>
        if replayable sl then setEvt (loseArray s sl a) ARR_EVT.REPLAY
        else
          let s := { s with arr := { s.arr with held := mdel s.arr.held a, bound := s.arr.bound.filter (· != a) } }
          let s := stopRunning s sq stUnitLost 0
          match slotOf s sq with
          | some sl => if allBound s sl then atBoundary (undefOut s sl) sq fun _ => s else s
          | none => s
  let s := ledger (setEvt s ARR_EVT.FENCE) 0x0C05 3 none [a]
  report s 0x08 a (maskCount (regGet s .ARR_FENCED 0) 32) 0

/-! ## Comparison (R495) -/

/-- Position of a floating-point encoding on the line of values; none for a NaN. -/
def ulpPos (f : FF) (x : Nat) : Option Int :=
  if isNan (decodeF f x) then none
  else
    let m : Int := (x % 2 ^ (f.eb + f.mb) : Nat)
    some (if x / 2 ^ (f.eb + f.mb) % 2 = 1 then -m else m)

/-- Two elements of format `fmt` agree within `tol`. -/
def elemAgree (fmt tol a b : Nat) : Bool :=
  if isInt fmt || fmBits fmt = 0 then a == b
  else match ulpPos (ffOf fmt) a, ulpPos (ffOf fmt) b with
    | none, none => true
    | some x, some y => decide ((x - y).natAbs ≤ tol)
    | _, _ => false

/-- Two outputs agree element by element. -/
def outAgree (tol : Nat) (a b : Nat × List Byte) : Bool :=
  let n := if fmBits a.1 = 0 then 0 else a.2.length * 8 / fmBits a.1
  if n = 0 then a.2 == b.2 else (List.range n).all fun i => elemAgree a.1 tol (rawElem a.1 a.2 i) (rawElem a.1 b.2 i)

/-- A check is over with substatus `sub`: the kernel completes with the result it has, or, where it still has its last
write to make (KV_APPEND), goes on to it. -/
def plumbDone (s : State) (sq : Nat) (p : Plumb) (sub : Nat) : State :=
  atBoundary s sq fun sl =>
    if opcode sl.d = ocKvAppend then { s with arr := { s.arr with plumb := mput s.arr.plumb sq { p with ok := true, sub := sub, pair := none } } }
    else finish s sq p.st (if fine p.st && sub != 0 then sub else p.sub) p.res

/-- The second execution of a selected kernel compared with the first; on a mismatch arrays `a` and `b` run self-test. -/
def plumbCompare (s : State) (sq a b : Nat) (second : List (List Byte)) : State :=
  match mget s.arr.plumb sq with
  | none => s
  | some p =>
    if p.pair.isSome || p.ok then s
    else atBoundary s sq fun _ =>
      let s := satF s RED_PLUMBSTAT.CHECKS 0
      let two := p.out.mapIdx fun i o => (o.1, second.getD i [])
      if (p.out.zip two).all fun x => outAgree (getF s RED_PLUMB.TOL) x.1 x.2 then plumbDone s sq p 0
      else
        let s := setEvt s RED_EVT.PLUMB
        { s with arr := { s.arr with
        testing := insRising (insRising s.arr.testing a) b
        plumb := mput s.arr.plumb sq { p with pair := some (a, b) } } }

/-- The self-tests after a mismatch end: `fa` and `fb` say which array failed (R496, Table FLT-7). -/
def plumbTested (s : State) (sq : Nat) (fa fb : Bool) : State :=
  match mget s.arr.plumb sq with
  | none => s
  | some p =>
    match p.pair with
    | none => s
    | some (a, b) =>
      let s := { s with arr := { s.arr with testing := s.arr.testing.filter fun x => x != a && x != b } }
      let bad := (if fa then [a] else []) ++ (if fb then [b] else [])
      if bad.isEmpty then
        let (n, s) := takeFresh s
        let s := satF s RED_PLUMBSTAT.UNRES 0
        let tag := ((slotOf s sq).map fun sl => hd sl.d DHDR.TAG).getD 0
        let s := ledger s 0x0C04 2 none [tag, 256 * a + b, Config.pick2 n 2 % 2 ^ 64, Config.pick2 n 3 % 2 ^ 64]
        report (plumbDone s sq p 0x00C1) 0x0C 0 tag (256 * a + b)
      else
        let s := { s with arr := { s.arr with plumb := mput s.arr.plumb sq { p with pair := none, ok := true, sub := 0x00C0 } } }
        let lost := bad.any fun x => mget s.arr.held x == some sq
        let s := bad.foldl (fun s x => satF (fenceArray s x) RED_PLUMBSTAT.FENCED 0) s
        if lost then s else plumbDone s sq p 0x00C0

end Sys2Proof.Machine
end

