-- ==== Sys2Proof/Machine/EmbOps.lean ====
section
/-! DEFINITION. EmbOps.lean: table records, rows and owners, the exchanges between chips, the sketch and the hot area
(R323 to R330, R339 to R341, R471). -/
namespace Sys2Proof.Machine

/-! ## Records (R323, R324) -/

def etabSa (s : State) (t : Nat) : Nat := adrF s EMB_TTAB.BASE + 128 * t
def etabRec (s : State) (t : Nat) : Desc := tabRec s (etabSa s t)
def etab (s : State) (t : Nat) (f : BF) : Nat := bget (etabRec s t) f
def setEtab (s : State) (t : Nat) (f : BF) (x : Nat) : State := setTabRec s (etabSa s t) (bset (etabRec s t) f x)

/-- What the chip keeps beside the record. -/
def embTab (s : State) (t : Nat) : EmbTab := mgetD {} s.emb.tabs t
def setEmbTab (s : State) (t : Nat) (x : EmbTab) : State := { s with emb := { s.emb with tabs := mputD {} s.emb.tabs t x } }
def modEmbTab (s : State) (t : Nat) (f : EmbTab → EmbTab) : State := setEmbTab s t (f (embTab s t))

/-- The table a descriptor names. -/
def tabOf (d : Desc) : Nat := par d 112 2 % 4096

/-- The record is in service for tenant `ten` (R326). -/
def embHeld (s : State) (t ten : Nat) : Bool := tstF s EMB_TTAB.EN && etab s t ETAB.ACTIVE == 1 && etab s t ETAB.OWNER == ten
def embOk (s : State) (sl : Slot) : Bool := !qPrv s sl.ctx && embHeld s (tabOf sl.d) (qTen s sl.ctx)

/-- A version slot's fields; `b`: slot B. -/
def embVer (s : State) (t : Nat) (b : Bool) : Nat := etab s t (if b then ETAB.VERB else ETAB.VERA)
def embBase (s : State) (t : Nat) (b : Bool) : Nat := etab s t (if b then ETAB.BASEB else ETAB.BASEA)
def embPins (b : Bool) : BF := if b then ETAB.PINSB else ETAB.PINSA
def embCur (s : State) (t : Nat) : Bool := etab s t ETAB.CURSEL == 1

/-- The slot that holds version `v`, current or not (R355). -/
def embSlot (s : State) (t v : Nat) : Option Bool :=
  if v = 0 then none else if embVer s t false = v then some false else if embVer s t true = v then some true else none

/-! ## Rows and owners (R328, R329) -/

/-- Bytes of a row, and the row stride, for format `f` and `dim` elements. -/
def rowBytesOf (f dim : Nat) : Nat := dim * (fmBits f / 8) + (if f = fmInt8 then 4 else 0)
def strideOf (f dim : Nat) : Nat := ceilDiv (rowBytesOf f dim) 64 * 64

def embDim (s : State) (t : Nat) : Nat := etab s t ETAB.DIM
def embFmt (s : State) (t : Nat) : Nat := etab s t ETAB.RFMT
def embTS (s : State) (t : Nat) : Nat := strideOf (embFmt s t) (embDim s t)
def embN' (s : State) (t : Nat) : Nat := etab s t ETAB.NCHIPM1 + 1
def embRows (s : State) (t : Nat) : Nat := etab s t ETAB.ROWS

/-- Q, the rows of a shard. -/
def embQ (s : State) (t : Nat) : Nat := ceilDiv (embRows s t) (embN' s t)

/-- Entry `p` of the chip list. -/
def embChip (s : State) (t p : Nat) : Nat := leNat (ownRead s (etab s t ETAB.LISTSA + 2 * p) 2)
def embList (s : State) (t : Nat) : List Nat := (List.range (embN' s t)).map (embChip s t)

/-- Owner position and place in the shard of row `r` (R329). -/
def ownerOfRow (map rows n seed r : Nat) : Nat × Nat :=
  if map = 0 then (r / ceilDiv rows n, r % ceilDiv rows n)
  else
    let blk := r / n
    let mix := ((blk ^^^ seed) * 0x9E3779B9) % 2 ^ 32
    ((r % n + mix % n) % n, blk)

def embOwner (s : State) (t r : Nat) : Nat × Nat := ownerOfRow (etab s t ETAB.MAP) (embRows s t) (embN' s t) (etab s t ETAB.SEED) r

/-- The row of owner position `p` at place `l` of its shard, the inverse of the mapping. -/
def rowAt (s : State) (t p l : Nat) : Nat :=
  if etab s t ETAB.MAP = 0 then p * embQ s t + l
  else
    let n := embN' s t
    let mix := ((l ^^^ etab s t ETAB.SEED) * 0x9E3779B9) % 2 ^ 32
    l * n + (p + n - mix % n) % n

/-- This chip's owner position. -/
def myPos (s : State) (t : Nat) : Nat := ((embList s t).findIdx? (· == own s)).getD 0

/-- Value of element `i` of a row as stored, in FP32 (Table EMB-2). -/
def rowElem (f dim : Nat) (bs : List Byte) (i : Nat) : F32 :=
  if f = fmInt8 then mul32 (leNat ((bs.drop dim).take 4)) (f32 (ofInt (elemI f bs i) 0))
  else f32 (decodeF (ffOf f) (rawElem f bs i))

def rowVals (f dim : Nat) (bs : List Byte) : List F32 := (List.range dim).map (rowElem f dim bs)

/-! ## Exchanges (R339, R471) -/

def xLookup : Nat := 0x0101
def xPartial : Nat := 0x0102
def xUpdate : Nat := 0x0103
def xUpdEnd : Nat := 0x0104
def xUpdAck : Nat := 0x0105
def xPush : Nat := 0x0106
def xPushEnd : Nat := 0x0107
def xErr : Nat := 0x0108

/-- Records carried by one message: 256 bytes less the exchange header. -/
def xMax : Nat := 240

/-- The exchange header (Table LNK-16). -/
def xHdr (kind obj ver xslot param no : Nat) (last empty : Bool) : BitVec 128 :=
  bset (bset (bset (bset (bset (bset (bset (bset 0 XCH.KIND kind) XCH.OBJ obj) XCH.VER ver) XCH.XSLOT xslot) XCH.PARAM param)
    XCH.MSGNO no) XCH.LAST (if last then 1 else 0)) XCH.EMPTY (if empty then 1 else 0)

/-- A whole exchange enters the chip's list. -/
def putExch (s : State) (x : Exch) : State :=
  { s with emb := { s.emb with xin := mput s.emb.xin s.emb.nextX x, nextX := s.emb.nextX + 1 } }

/-- An exchange sent to chip `dst`; one to this chip itself is there at once. `poison` travels as poison of read data does. -/
def sendExch (s : State) (dst ten xslot tag kind obj ver param : Nat) (data : List Byte) (poison : Bool := false) : State :=
  if dst = own s then
    putExch s { chip := dst, ten := ten, xslot := xslot, tag := tag, kind := kind, obj := obj, ver := ver, param := param
                data := data, whole := true, poison := poison }
  else
    let n := max 1 (ceilDiv data.length xMax)
    (List.range n).foldl (fun s i =>
      let part := (data.drop (xMax * i)).take xMax
      let bs := bytesOf (xHdr kind obj ver xslot param i (i + 1 == n) data.isEmpty) ++ part
      send s { engMsg s 5 dst ten tag 0 bs.length false 0 bs with poison := poison }) s

/-- XSLOT of a descriptor. -/
def xslotOf (sl : Slot) : Nat := sl.seq % 16384

/-- The error exchange of the operator (R355, R471). -/
def sendErr (s : State) (x : Exch) (st sub : Nat) : State :=
  sendExch s x.chip x.ten x.xslot x.tag xErr x.obj x.ver 0 (leBytes 2 st ++ leBytes 2 sub ++ List.replicate 12 0)

/-- Messages of an exchange applied in MSGNO order as far as they have come. -/
def xDrain : Nat → Exch → Exch
  | 0, x => x
  | n + 1, x =>
    match mget x.ahead x.next with
    | some (bs, last) => xDrain n { x with data := x.data ++ bs, next := x.next + 1, ahead := mdel x.ahead x.next, whole := last }
    | none => x

/-- A message with a reserved KIND or for an object that this chip does not hold for its tenant. -/
def xBad (s : State) (kind obj ten : Nat) : Bool := decide (kind < xLookup ∨ xErr < kind) || !embHeld s obj ten

/-- ENG_OPX as it comes (R471). -/
def opxIn (s : State) (hdr : BitVec 128) (chip : Nat) (data : List Byte) (poison : Bool) : State :=
  if data.length < 16 then s else
  let h : BitVec 128 := ofBytes 128 (data.take 16)
  let ten := bget hdr ENGH.TENANT
  let tag := bget hdr ENGH.TAG
  let kind := bget h XCH.KIND
  let xs := bget h XCH.XSLOT
  let fresh : Exch := { chip := chip, ten := ten, xslot := xs, tag := tag, kind := kind, obj := bget h XCH.OBJ
                        ver := bget h XCH.VER, param := bget h XCH.PARAM }
  if xBad s kind (bget h XCH.OBJ) ten then (if kind = xErr then s else sendErr s fresh stAccess 0x0080)
  else
    let recs := if btst h XCH.EMPTY then [] else data.drop 16
    let step (x : Exch) : Exch := xDrain 65536 { x with
      ahead := mput x.ahead (bget h XCH.MSGNO) (recs, btst h XCH.LAST), poison := x.poison || poison }
    match s.emb.xin.find? fun e => e.2.chip == chip && e.2.xslot == xs && e.2.tag == tag && e.2.kind == kind && !e.2.whole with
    | some (n, x) => { s with emb := { s.emb with xin := mput s.emb.xin n (step x) } }
    | none => putExch s (step fresh)

/-- The oldest whole exchange of a kind. -/
def nextExch (s : State) (kind : Nat) (ok : Exch → Bool := fun _ => true) : Option (Nat × Exch) :=
  s.emb.xin.find? fun e => e.2.kind == kind && e.2.whole && ok e.2

def dropExch (s : State) (n : Nat) : State := { s with emb := { s.emb with xin := mdel s.emb.xin n } }

/-- The look-up or update descriptor that an answer names, with the exchange that it answers. -/
def answers (s : State) (x : Exch) (kind : Nat) : Option (Slot × EmbRun × EmbSent) :=
  (mvals s.que.slots).findSome? fun sl =>
    match sl.work with
    | .emb r =>
      if xslotOf sl = x.xslot ∧ r.tab = x.obj then
        (r.await_.find? fun a => a.chip == x.chip && a.tag == x.tag && a.kind == kind).map fun a => (sl, r, a)
      else none
    | _ => none

/-! ## Store accesses of an exchange in service -/

/-- One line asked for exchange `n`, at this chip's home. -/
def xAskLine (s : State) (n ten l : Nat) : State :=
  match mget s.emb.xin n with
  | none => s
  | some x =>
    if (mget x.rdata l).isSome || x.asked.contains l then s
    else
      homeStart (modExch s n fun x => { x with asked := x.asked ++ [l] })
        { kind := .engRd, who := .exch n, ten := ten, prv := false, sa := l * 64 }

def xAsk (s : State) (n ten sa k : Nat) : State := (cutLines sa k).foldl (fun s (l, _, _, _) => xAskLine s n ten (l / 64)) s

def xHave (x : Exch) (sa k : Nat) : Bool := (cutLines sa k).all fun (l, _, _, _) => (mget x.rdata (l / 64)).isSome

def xGet (x : Exch) (sa k : Nat) : List Byte :=
  ((cutLines sa k).map fun (l, o, n, _) => sliceBytes (((mget x.rdata (l / 64)).map (·.1)).getD 0) o n).flatten

/-- Bytes written for exchange `n`. -/
def xPut (s : State) (n ten sa : Nat) (bs : List Byte) : State :=
  (cutLines sa bs.length).foldl (fun s (l, o, k, i) =>
    homeStart (modExch s n fun x => { x with owed := x.owed + 1 })
      { kind := .engWr, who := .exch n, ten := ten, prv := false, sa := l, data := placeBytes o ((bs.drop i).take k), mask := byteMask o k }) s

/-! ## Sketch and hot area (R340, R341) -/

/-- H, the owner's hot quota. -/
def embH (s : State) (t : Nat) : Nat := etab s t ETAB.HOTMAX / embN' s t

/-- The estimate of a row: the mean of the two middle lines of the count-sketch. -/
def sketchEst (x : EmbTab) (r : Nat) : Int :=
  let v := ((List.range 4).map fun k =>
    let c := mgetD 0 x.cnt (16384 * k + Config.sketchCol k r % 16384)
    if Config.sketchNeg k r then -c else c).mergeSort fun a b => decide (a ≤ b)
  (v.getD 1 0 + v.getD 2 0) / 2

/-- A look-up of an own row counted, and the candidate list kept at 4 × H rows of largest estimate. -/
def sketchHit (h : Nat) (x : EmbTab) (r : Nat) : EmbTab :=
  let x := { x with cnt := (List.range 4).foldl (fun m k =>
    let i := 16384 * k + Config.sketchCol k r % 16384
    mputD 0 m i (mgetD 0 m i + (if Config.sketchNeg k r then -1 else 1))) x.cnt }
  if x.cand.contains r then x
  else if x.cand.length < 4 * h then { x with cand := insRising x.cand r }
  else
    match x.cand.foldl (fun (b : Option Nat) c => match b with
      | none => some c
      | some y => if sketchEst x c < sketchEst x y then some c else some y) none with
    | some y => if sketchEst x y < sketchEst x r then { x with cand := insRising (x.cand.filter (· != y)) r } else x
    | none => x

/-- Look-ups of this chip's own rows counted. -/
def sketchAll (s : State) (t : Nat) (rows : List Nat) : State :=
  if (embTab s t).sketch then modEmbTab s t fun x => rows.foldl (sketchHit (embH s t)) x else s

/-- Replica row `i` of owner position `p` in buffer `b`, and its directory entry. -/
def hotRowSa (s : State) (t b p i : Nat) : Nat :=
  let n := embN' s t
  let h := embH s t
  etab s t ETAB.HOTSA + b * n * h * (embTS s t + 32) + (p * h + i) * embTS s t
def hotDirSa (s : State) (t b p i : Nat) : Nat :=
  let n := embN' s t
  let h := embH s t
  etab s t ETAB.HOTSA + b * n * h * (embTS s t + 32) + n * h * embTS s t + 32 * (p * h + i)

/-- The row of an empty directory entry. -/
def emptyRow : Nat := 2 ^ 64 - 1

/-- A directory entry. -/
def dirBytes (row ver gen : Nat) : List Byte := leBytes 8 row ++ leBytes 4 ver ++ leBytes 4 gen ++ List.replicate 16 0

/-- The buffer of generation `g`. -/
def genBuf (x : EmbTab) (g : Nat) : Option Nat := (x.gens.find? fun e => e.2 == g).map (·.1)

end Sys2Proof.Machine
end

