-- ==== Sys2Proof/Machine/EmbOwner.lean ====
section
/-! DEFINITION. EmbOwner.lean: what an owner does with look-ups and updates, and update windows (R334 to R336, R346 to
R351, R355). -/
namespace Sys2Proof.Machine

/-! ## Look-ups -/

/-- Records of a LOOKUP: place in the shard, reply slot, weight. -/
def lookupRecs (x : Exch) : List (Nat × Nat × F32) :=
  let w := if x.param = 4 then 16 else 8
  (List.range (x.data.length / w)).map fun i =>
    let b := (x.data.drop (w * i)).take w
    let v := leNat (b.take 8)
    (v % 2 ^ 40, v / 2 ^ 40, leNat ((b.drop 8).take 4))

/-- The request is refused: its table is not in service, or neither slot holds its version (R327, R355). -/
def ownerRefuses (s : State) (x : Exch) : Option (Nat × Nat) :=
  if !embHeld s x.obj x.ten then some (stAccess, 0x0080)
  else if (embSlot s x.obj x.ver).isNone then some (stVersion, 0x0001)
  else none

/-- A refusal answered; a version conflict is counted for the tenant. -/
def refuseExch (s : State) (n : Nat) (x : Exch) (e : Nat × Nat) : State :=
  let s := if e.1 = stVersion then satF s TEN_EMBSTAT.VCONF x.ten else s
  sendErr (dropExch s n) x e.1 e.2

/-- Sum, product or maximum of rows, element by element, in some order (R335, R248). -/
def poolRows (seed pool dim : Nat) (rows : List (F32 × List F32)) : List F32 :=
  (List.range dim).map fun i =>
    if pool = 3 then
      match rows with
      | [] => 0
      | r :: rs => rs.foldl (fun m x => f32 (maxN (val32 m) (val32 (x.2.getD i 0)))) (r.2.getD i 0)
    else sum32 (seed + i) (rows.map fun r => if pool = 4 then mul32 (r.2.getD i 0) r.1 else r.2.getD i 0)

/-- Bytes padded with zeros to a multiple of 16. -/
def pad16 (bs : List Byte) : List Byte := bs ++ List.replicate (ceilDiv bs.length 16 * 16 - bs.length) 0

/-- The records of the PARTIAL that answers a LOOKUP whose rows have been read. -/
def partialRecs (s : State) (x : Exch) (b : Bool) : List Byte :=
  let t := x.obj
  let dim := embDim s t
  let recs := lookupRecs x
  let rowOf_ (p : Nat) : List Byte := xGet x (embBase s t b + p * embTS s t) (embTS s t)
  if x.param = 0 then
    (recs.map fun r => leBytes 4 r.2.1 ++ List.replicate 12 0 ++ rowOf_ r.1).flatten
  else
    ((recs.map (·.2.1)).eraseDups.map fun slot =>
      let rows := (recs.filter fun r => r.2.1 == slot).map fun r => (r.2.2, rowVals (embFmt s t) dim (rowOf_ r.1))
      leBytes 4 slot ++ List.replicate 12 0
        ++ pad16 ((poolRows (s.fresh + slot * 4096) x.param dim rows).map (leBytes 4)).flatten).flatten

/-- LOOKUP: the oldest batch; its rows are read, then its partials returned (R334, R335). -/
def lookup1 (s : State) : State :=
  match nextExch s xLookup with
  | none => s
  | some (n, x) =>
    match ownerRefuses s x, embSlot s x.obj x.ver with
    | some e, _ => refuseExch s n x e
    | none, none => s
    | none, some b =>
      let t := x.obj
      let ps := (lookupRecs x).map (·.1)
      let s := ps.foldl (fun s p => xAsk s n x.ten (embBase s t b + p * embTS s t) (embTS s t)) s
      match mget s.emb.xin n with
      | none => s
      | some x =>
        if !(ps.all fun p => xHave x (embBase s t b + p * embTS s t) (embTS s t)) then s
        else match x.err with
          | some e => sendErr (dropExch s n) x e.1 e.2
          | none =>
            let s := ps.eraseDups.foldl (fun s p => bump s 0x0701 1 { ten := some x.ten, sa := some (embBase s t b + p * embTS s t) }) s
            let recs := partialRecs s x b
            let s := sketchAll { s with fresh := s.fresh + 2 ^ 40 } t (ps.map (rowAt s t (myPos s t)))
            sendExch (dropExch s n) x.chip x.ten x.xslot x.tag xPartial t x.ver x.param recs x.poison

/-- LOOKUP (R334). -/
def execLookup (s : State) : Host.Outcome State Fault Refusal := answer workParts s (whenLive s lookup1)

/-! ## Update windows (R349 to R351) -/

/-- The window of an exchange: its RTIME, or its own chip and XSLOT. -/
def winKey (x : Exch) : Nat × Nat × Nat :=
  let r := leNat (x.data.take 8)
  if r = 0 then (0, x.chip, x.xslot) else (r, 0, 0)

/-- Every chip that must end a window: those of the list that are not fenced; for an update of its own, its sender. -/
def winMembers (s : State) (t : Nat) (k : Nat × Nat × Nat) : List Nat :=
  if k.1 = 0 then [k.2.1] else (embList s t).filter fun c => !fencedChip s c

/-- The window of `x`, opened by its first message. -/
def openWin (s : State) (t : Nat) (k : Nat × Nat × Nat) : State :=
  let x := embTab s t
  if x.wins.any fun w => w.key == k then s
  else setEmbTab s t { x with wins := x.wins ++ [{ key := k, seqn := x.nextWin, t0 := s.tim.now }], nextWin := x.nextWin + 1 }

/-- The windows of table `t` changed where the key is `k`. -/
def modWin (s : State) (t : Nat) (k : Nat × Nat × Nat) (f : EmbWin → EmbWin) : State :=
  modEmbTab s t fun x => { x with wins := x.wins.map fun w => if w.key = k then f w else w }

/-- A participant of a window changed by `f`, added where it is new. -/
def modPart (w : EmbWin) (x : Exch) (f : EmbPart → EmbPart) : EmbWin :=
  if w.parts.any fun p => p.chip == x.chip && p.xslot == x.xslot then
    { w with parts := w.parts.map fun p => if p.chip = x.chip ∧ p.xslot = x.xslot then f p else p }
  else { w with parts := w.parts ++ [f { chip := x.chip, xslot := x.xslot, tag := x.tag, ver := x.ver }] }

def winClosed (s : State) (t : Nat) (k : Nat × Nat × Nat) : Bool := (embTab s t).closed.contains k

/-- Every member has ended and its contributions have all arrived, or were refused. -/
def winDone (s : State) (t : Nat) (w : EmbWin) : Bool :=
  (winMembers s t w.key).all fun c => w.parts.any fun p => p.chip == c && p.sent.any fun n => decide (n ≤ p.got) || p.refused

/-- A window closes: every participant that has had no OPX_ERR is told what was applied (R339, R349). -/
def closeWin (s : State) (t : Nat) (w : EmbWin) (winto : Bool) : State :=
  let ten := etab s t ETAB.OWNER
  let s := modEmbTab s t fun x => { x with wins := x.wins.filter (·.key != w.key), closed := x.closed ++ (if w.key.1 = 0 then [] else [w.key]) }
  (w.parts.filter fun p => !p.refused).foldl (fun s p => sendExch s p.chip ten p.xslot p.tag xUpdAck t p.ver 0
    (leBytes 4 p.applied ++ leBytes 4 (if winto then 1 else 0) ++ List.replicate 8 0)) s

/-- Windows that are done close. -/
def winCheck (s : State) (t : Nat) (k : Nat × Nat × Nat) : State :=
  match (embTab s t).wins.find? fun w => w.key == k with
  | some w => if winDone s t w then closeWin s t w false else s
  | none => s

/-- Records of an UPDATE's data after its first 16 bytes: place, batch position, contributions. -/
def updRecs (dim : Nat) (data : List Byte) : List (Nat × Nat × List F32) :=
  let w := 8 + ceilDiv (4 * dim) 16 * 16
  let d := data.drop 16
  (List.range (d.length / w)).map fun i =>
    let b := (d.drop (w * i)).take w
    let v := leNat (b.take 8)
    (v % 2 ^ 40, v / 2 ^ 40 % 2 ^ 21, (List.range dim).map fun j => leNat ((b.drop (8 + 4 * j)).take 4))

/-- A row after one contribution in ADD mode (R347). -/
def addRow (f dim : Nat) (row : List Byte) (c : List F32) : List Byte :=
  ((List.range dim).map fun i => outElem f .rne false (val32 (add32 (rowElem f dim row i) (c.getD i 0)))).flatten

def overRow (f : Nat) (c : List F32) : List Byte := (c.map fun v => outElem f .rne false (val32 v)).flatten

/-- The key of an overwrite (R348): source chip, then batch position. -/
def overKey (chip pos : Nat) : Nat := chip * 2 ^ 22 + pos

/-- One contribution applied to the rows held so far (place to bytes) and to the tags. -/
def applyOne (s : State) (t : Nat) (x : Exch) (win : Nat) (b : Bool) (acc : AMap (List Byte) × Nat) (r : Nat × Nat × List F32) :
    State × AMap (List Byte) × Nat :=
  let f := embFmt s t
  let dim := embDim s t
  let old := (mget acc.1 r.1).getD (xGet x (embBase s t b + r.1 * embTS s t) (rowBytesOf f dim))
  if x.param = 0 then (s, mput acc.1 r.1 (addRow f dim old r.2.2), acc.2 + 1)
  else
    let ta := etab s t ETAB.TAGSA + 8 * r.1
    let tag := leNat (ownRead s ta 8)
    if tag / 2 ^ 32 = win ∧ overKey x.chip r.2.1 < tag % 2 ^ 32 then (s, acc.1, acc.2)
    else (ownWrite s ta (leBytes 8 (win * 2 ^ 32 + overKey x.chip r.2.1)), mput acc.1 r.1 (overRow f r.2.2), acc.2 + 1)

/-- The rows of an UPDATE are written once they have been read; contributions are taken in order (R347, R348). -/
def updApply (s : State) (n : Nat) (x : Exch) (b : Bool) : State :=
  let t := x.obj
  let win := (((embTab s t).wins.find? fun w => w.key == winKey x).map (·.seqn)).getD 0
  let recs := updRecs (embDim s t) x.data
  let (s, rows, cnt) := recs.foldl (fun (a : State × AMap (List Byte) × Nat) r => applyOne a.1 t x win b (a.2.1, a.2.2) r) (s, [], 0)
  let s := rows.foldl (fun s e => xPut s n x.ten (embBase s t b + e.1 * embTS s t) e.2) s
  let s := modWin s t (winKey x) fun w => modPart w x fun p => { p with got := p.got + recs.length, applied := p.applied + cnt }
  modExch s n fun x => { x with wrote := true }

/-- The UPDATE of `x` is answered with OPX_ERR: its participant has nothing more to come, and gets no UPD_ACK (R339). -/
def updRefuse (s : State) (x : Exch) : State :=
  let t := x.obj
  winCheck (modWin (openWin s t (winKey x)) t (winKey x) fun w => modPart w x fun p => { p with refused := true }) t (winKey x)

/-- The batch whose rows are being read or written, else the oldest whole one: batches are applied one at a time, so that each
changes its rows by one read-modify-write (R336). -/
def nextUpd (s : State) : Option (Nat × Exch) :=
  (nextExch s xUpdate fun x => x.wrote || !x.asked.isEmpty).or (nextExch s xUpdate)

/-- UPDATE: the next batch of contributions (R347 to R351), in the order in which they arrive. -/
def update1 (s : State) : State :=
  match nextUpd s with
  | none => s
  | some (n, x) =>
    let t := x.obj
    if x.wrote then
      if x.owed = 0 then
        match x.err with
        | some e => updRefuse (sendErr (dropExch s n) x e.1 e.2) x
        | none => winCheck (dropExch s n) t (winKey x)
      else s
    else match ownerRefuses s x, embSlot s t x.ver with
      | some e, _ =>
        let s := refuseExch s n x e
        if embHeld s t x.ten && !winClosed s t (winKey x) then updRefuse s x else s
      | none, none => s
      | none, some b =>
        if winClosed s t (winKey x) then
          let s := ledgerFF (setEvt s EMB_EVT.LATEWIN) 8 (t + 4096 * x.chip) (some x.ten)
          sendErr (dropExch s n) x stTimeout 0x0080
        else
          let s := openWin s t (winKey x)
          let s := modWin s t (winKey x) fun w => modPart w x id
          let ps := ((updRecs (embDim s t) x.data).map (·.1)).eraseDups
          let s := if x.param = 1 then s else ps.foldl (fun s p => xAsk s n x.ten (embBase s t b + p * embTS s t) (rowBytesOf (embFmt s t) (embDim s t))) s
          match mget s.emb.xin n with
          | none => s
          | some x =>
            if x.param = 1 || ps.all fun p => xHave x (embBase s t b + p * embTS s t) (rowBytesOf (embFmt s t) (embDim s t)) then
              updApply s n x b
            else s

/-- UPDATE (R347). -/
def execUpdate (s : State) : Host.Outcome State Fault Refusal := answer workParts s (whenLive s update1)

/-- UPD_END: the oldest end message (R349). A participant that ends a window closed without it, and that lost nothing, is
told so. -/
def updEnd1 (s : State) : State :=
  match nextExch s xUpdEnd with
  | none => s
  | some (n, x) =>
    let t := x.obj
    let k := winKey x
    let sent := leNat ((x.data.drop 8).take 4)
    let s := dropExch s n
    if !embHeld s t x.ten then sendErr s x stAccess 0x0080
    else if winClosed s t k then
      if sent = 0 then sendExch s x.chip x.ten x.xslot x.tag xUpdAck t x.ver 0 (leBytes 4 0 ++ leBytes 4 1 ++ List.replicate 8 0) else s
    else
      let s := openWin s t k
      let s := modWin s t k fun w => modPart w x fun p => { p with sent := some sent, tag := x.tag }
      winCheck s t k

/-- UPD_END (R349). -/
def execUpdEnd (s : State) : Host.Outcome State Fault Refusal := answer [.regs, .obs, .txq, .store, .emb, .fresh] s (whenLive s updEnd1)

/-- UPDATE_WINDOW_TIMEOUT: window `i` of table `t` closes by WINTO (R349, R351). -/
def winTimeout (s : State) (t i : Nat) : State :=
  match (embTab s t).wins[i]? with
  | none => s
  | some w =>
    let s := setEvt s EMB_EVT.WINTO
    closeWin (satF s TEN_EMBSTAT.WINTO (etab s t ETAB.OWNER)) t w true

/-- UPDATE_WINDOW_TIMEOUT (R349). -/
def execUpdateWindowTimeout (t i : Nat) (s : State) : Host.Outcome State Fault Refusal := answer [.regs, .obs, .txq, .emb] s (whenLive s fun s => winTimeout s t i)

/-- A chip is fenced: it has ended in every window (R349). -/
def winFence (s : State) : State :=
  (mkeys s.emb.tabs).foldl (fun s t => (embTab s t).wins.foldl (fun s w => winCheck s t w.key) s) s

end Sys2Proof.Machine
end

