-- ==== Sys2Proof/Machine/EmbExec.lean ====
section
/-! DEFINITION. EmbExec.lean: EMB_GATHER and EMB_UPDATE on the executing chip, and the answers of owners (R331 to R338,
R345, R346, R349, R351, R355). -/
namespace Sys2Proof.Machine

/-! ## Starting -/

/-- A descriptor of this chapter ends with VERSION_CONFLICT: EMB_EVT.VCONF (R355). -/
def embFinish (s : State) (sq st sub res : Nat) : State :=
  finish (if st = stVersion then setEvt s EMB_EVT.VCONF else s) sq st sub res

/-- The version is taken and its slot pinned (R333). -/
def takeVersion (s : State) (sl : Slot) : State :=
  let t := tabOf sl.d
  let b := embCur s t
  let r : EmbRun := { tab := t, slotB := b, ver := embVer s t b, gen := etab s t ETAB.HOTGEN }
  let s := setEtab s t (embPins b) (etab s t (embPins b) + 1)
  modSlot s sl.seq fun x => { x with ph := .running, work := .emb r }

/-- A launched look-up or update begins: the checks of R326, R346 and R333, then the pin. -/
def embBegin (s : State) (sl : Slot) (refuse : Bool) : State :=
  let t := tabOf sl.d
  if !embOk s sl then finish s sl.seq stAccess 0x0080 0
  else if refuse then finish s sl.seq stAccess 0x0086 0
  else if embVer s t (embCur s t) = 0 then finish s sl.seq stAccess 0x0081 0
  else takeVersion s sl

/-- Row index `i` of slot 0, none where it is negative or at or above ROWS (R332). -/
def embIdx (s : State) (sl : Slot) (i : Nat) : Option Nat :=
  let f := opF sl.d 0 OPND.FMT
  let v := elemI f (gather sl 0 (i * (fmBits f / 8)) (fmBits f / 8)) 0
  if v < 0 ∨ (embRows s (tabOf sl.d) : Int) ≤ v then none else some v.toNat

def embIdxs (s : State) (sl : Slot) : Option (List Nat) := (List.range (embN sl.d)).mapM (embIdx s sl)

/-- Offset `k` of the bags. -/
def bagOff (sl : Slot) (k : Nat) : Int := elemI fmInt32 (gather sl 1 (4 * k) 4) 0

/-- The offsets break R331. -/
def bagsBad (sl : Slot) : Bool :=
  embPool sl.d != 0 &&
    (bagOff sl 0 != 0 || bagOff sl (embNbag sl.d) != (embN sl.d : Int)
      || (List.range (embNbag sl.d)).any fun k => decide (bagOff sl (k + 1) < bagOff sl k))

/-- The bag of index `i`, or the index itself where nothing is pooled. -/
def bagOf (sl : Slot) (i : Nat) : Nat :=
  if embPool sl.d = 0 then i
  else ((List.range (embNbag sl.d)).find? fun k => decide (bagOff sl k ≤ (i : Int) ∧ (i : Int) < bagOff sl (k + 1))).getD 0

/-! ## Replicas (R341, R345) -/

/-- One step of the search of a section's directory. -/
inductive Hot where
  | at_ (i : Nat)
  | none_
  /-- Its owner is fenced: the row is read from the redundant copy of the shard (R337). -/
  | copy
  /-- This directory entry must be read first. -/
  | need (sa : Nat)
  deriving DecidableEq, Repr

/-- Binary search of row `r` in section `p` of buffer `b`, between places `lo` and `hi`: a replica of another version than `ver`
is none (R333). -/
def hotSearch (s : State) (sl : Slot) (t b p r ver : Nat) : Nat → Nat → Nat → Hot
  | 0, _, _ => .none_
  | n + 1, lo, hi =>
    if hi ≤ lo then .none_
    else
      let m := (lo + hi) / 2
      let sa := hotDirSa s t b p m
      if !haveAt sl sa 16 then .need sa
      else
        let v := leNat (gatherAt sl sa 8)
        if v = r then (if leNat (gatherAt sl (sa + 8) 4) = ver then .at_ m else .none_)
        else if r < v then hotSearch s sl t b p r ver n lo m else hotSearch s sl t b p r ver n (m + 1) hi

/-- Where a look-up reads row `r`: the place of its replica, or its owner. -/
def findHot (s : State) (sl : Slot) (run : EmbRun) (r : Nat) : Hot :=
  let t := run.tab
  let p := (embOwner s t r).1
  if ops0 sl.d 4 1 = 1 ∨ embH s t = 0 ∨ p = myPos s t then .none_
  else match genBuf (embTab s t) run.gen with
    | none => .none_
    | some b => hotSearch s sl t b p r run.ver (Nat.log2 (embH s t) + 2) 0 (embH s t)

/-- The SA of the replica. -/
def hotSa (s : State) (run : EmbRun) (r i : Nat) : Nat :=
  hotRowSa s run.tab ((genBuf (embTab s run.tab) run.gen).getD 0) (embOwner s run.tab r).1 i

/-- The SA of place `l` of the shard of owner position `p`, whose chip is fenced. -/
def copySa (s : State) (run : EmbRun) (p l : Nat) : Nat :=
  let a := Config.shardAt run.tab (embChip s run.tab p) run.ver
  mkSa (embChip s run.tab p) (a / 2 ^ 48 % 2) ((a % 2 ^ 48 / 4096 * 4096 + l * embTS s run.tab) % 2 ^ 48)

/-- Where this chip itself reads row `r`. -/
def placeSa (s : State) (run : EmbRun) (r : Nat) : Hot → Option Nat
  | .at_ i => some (hotSa s run r i)
  | .copy => some (copySa s run (embOwner s run.tab r).1 (embOwner s run.tab r).2)
  | _ => none

/-! ## EMB_GATHER -/

/-- The rows that a look-up names, once each, with the place of each replica. -/
def gatherHots (s : State) (sl : Slot) (run : EmbRun) (idx : List Nat) : List (Nat × Hot) :=
  idx.eraseDups.map fun r => (r, match findHot s sl run r with
    | .none_ => if run.lost.contains (embOwner s run.tab r).1 then .copy else .none_
    | h => h)

/-- The rows that this chip itself reads have come. -/
def placesCome (s : State) (sl : Slot) (run : EmbRun) (hots : List (Nat × Hot)) : Bool :=
  hots.all fun h => match placeSa s run h.1 h.2 with | some a => haveAt sl a (embTS s run.tab) | none => true

/-- They are asked. -/
def placesAsk (s : State) (sq : Nat) (run : EmbRun) (hots : List (Nat × Hot)) : State :=
  hots.foldl (fun s h => match placeSa s run h.1 h.2 with | some a => askAt s sq a (embTS s run.tab) | none => s) s

/-- The batch for the owner at position `p` (R334): the indices it owns that no replica serves. -/
def batchFor (s : State) (sl : Slot) (run : EmbRun) (idx : List Nat) (hots : List (Nat × Hot)) (p : Nat) : List Byte :=
  let ws := idx.zipIdx.filter fun x => (embOwner s run.tab x.1).1 == p && !(hots.any fun h => h.1 == x.1 && h.2 != .none_)
  (ws.map fun x =>
    leBytes 8 ((embOwner s run.tab x.1).2 + bagOf sl x.2 * 2 ^ 40)
      ++ (if embPool sl.d = 4 then gather sl 2 (4 * x.2) 4 ++ List.replicate 4 0 else [])).flatten

/-- The output of a look-up whose partials and replicas have all come (R335). -/
def gatherOut (s : State) (sl : Slot) (run : EmbRun) (idx : List Nat) (hots : List (Nat × Hot)) : List Byte :=
  let d := sl.d
  let t := run.tab
  let dim := embDim s t
  let f := embFmt s t
  let fo := opF d 3 OPND.FMT
  let hot (r : Nat) : Option (List F32) := ((hots.find? fun h => h.1 == r).bind fun h => placeSa s run r h.2).map fun a =>
    rowVals f dim (gatherAt sl a (embTS s t))
  let out (v : List F32) : List Byte := (v.map fun x => outElem fo .rne true (val32 x)).flatten
  if embPool d = 0 then
    ((idx.zipIdx.map fun x => out (match hot x.1 with
      | some v => v
      | none => rowVals f dim (((run.parts.find? fun p => p.1 == x.2).map (·.2)).getD [])))).flatten
  else
    ((List.range (embNbag d)).map fun k =>
      let mine := idx.zipIdx.filter fun x => bagOf sl x.2 == k
      let local_ : List (F32 × List F32) := mine.filterMap fun x => (hot x.1).map fun v => (leNat (gather sl 2 (4 * x.2) 4), v)
      let local_ := if embPool d = 4 then local_.map fun x => (0x3F800000, x.2.map fun y => mul32 y x.1) else local_
      let got := (run.parts.filter fun p => p.1 == k).map fun p => ((0x3F800000 : F32), (List.range dim).map fun i => leNat ((p.2.drop (4 * i)).take 4))
      let v := poolRows (s.fresh + 4096 * k) (if embPool d = 3 then 3 else 1) dim (local_ ++ got)
      let v := if mine.isEmpty then List.replicate dim 0 else if embPool d = 2 then v.mapIdx fun i x => divP (s.fresh + 4096 * k + 4095) i x (f32 (ofInt mine.length 0)) else v
      out v).flatten

/-- A look-up none of whose owners is awaited any more writes its output and completes (R338). -/
def gatherEnd (s : State) (sq : Nat) : State :=
  match slotOf s sq with
  | none => s
  | some sl =>
    match sl.work with
    | .emb run =>
      if !run.out || !run.await_.isEmpty then s
      else match embIdxs s sl with
        | none => s
        | some idx =>
          let hots := gatherHots s sl run idx
          if !placesCome s sl run hots then s
          else
            let bs := gatherOut s sl run idx hots
            let s := storeBytes { s with fresh := s.fresh + 2 ^ 40 } sq 3 0 bs
            embFinish s sq stOk 0 (run.repl * 2 ^ 32 + run.shard)
    | _ => s

/-- An exchange sent, and remembered as awaited. -/
def embSend (s : State) (sl : Slot) (run : EmbRun) (chip kind param : Nat) (data : List Byte) : State × List EmbSent :=
  let (tag, s) := newTag s
  (sendExch s chip (qTen s sl.ctx) (xslotOf sl) tag kind run.tab run.ver param data, [{ chip := chip, tag := tag, kind := kind, data := data }])

/-- An owner that is fenced, and whose extents no chip serves. -/
def goneOwner (s : State) (chip : Nat) : Bool := fencedChip s chip && (standIn s chip).all (fencedChip s)

/-- Owner positions of the run's table whose chips are fenced. -/
def fencedPos (s : State) (t : Nat) : List Nat := (List.range (embN' s t)).filter fun p => fencedChip s (embChip s t p)

/-- Status of an access that failed: no copy of a fenced owner's shard survives (Table EMB-7). -/
def embErr (run : EmbRun) (e : Stop) : Stop := if run.out ∧ e.1 = stRegionLost then (stRegionLost, 0x0080) else e

/-- The indices of a look-up are sorted by owner and its batches sent (R334); rows of fenced owners are read from the redundant
copies of their shards (R337). -/
def gatherSend (s : State) (sl : Slot) (run : EmbRun) (idx : List Nat) : State :=
  let t := run.tab
  let ps := (idx.map fun r => (embOwner s t r).1).eraseDups
  let run := { run with lost := fencedPos s t }
  let hots := gatherHots s sl run idx
  if hots.any fun h => h.2 == .copy && goneOwner s (embChip s t (embOwner s t h.1).1) then embFinish s sl.seq stRegionLost 0x0080 0
  else
    let shard := (hots.filter fun h => h.2 == .none_ || h.2 == .copy).length
    let repl := hots.length - shard
    let ps := ps.filter fun p => !run.lost.contains p
    let s := if repl = 0 then s else bump s 0x0702 repl { ten := qOwner s sl.ctx }
    let (s, aw) := ps.foldl (fun (a : State × List EmbSent) p =>
      let (s, e) := embSend a.1 sl run (embChip a.1 t p) xLookup (embPool sl.d) (batchFor a.1 sl run idx hots p)
      (s, a.2 ++ e)) (s, [])
    let s := placesAsk s sl.seq run hots
    gatherEnd (modSlot s sl.seq fun x => { x with work := .emb { run with out := true, await_ := aw, shard := shard, repl := repl } }) sl.seq

/-- LEN of the output is not that of its rows or bags (R331). -/
def gatherLenBad (s : State) (sl : Slot) : Bool :=
  let n := if embPool sl.d = 0 then embN sl.d else embNbag sl.d
  opLen sl.d 3 != operandBytes (opF sl.d 3 OPND.FMT) (n * embDim s (tabOf sl.d))

/-- EMB_GATHER: given again while its operands and directory entries are still to come. -/
def gatherGo (s : State) (sq : Nat) : State :=
  atBoundary s sq fun sl =>
    if opcode sl.d ≠ ocEmbGather then s
    else match sl.work with
      | .emb run =>
        match hardErr' sl with
        | some e => embFinish s sq (embErr run e).1 (embErr run e).2 0
        | none =>
          if run.out then gatherEnd s sq
          else if !(haveAll' sl [0, 1, 2]) then [0, 1, 2].foldl (fun s i => askBytes s sq i 0 (opLen sl.d i)) s
          else match embIdxs s sl with
            | none => finish s sq stAccess 0x0082 0
            | some idx =>
              if bagsBad sl then finish s sq stAccess 0x0083 0
              else
                let hots := gatherHots s sl run idx
                let needs := hots.filterMap fun h => match h.2 with | .need sa => some sa | _ => none
                if needs.isEmpty then gatherSend s sl run idx
                else needs.foldl (fun s sa => askAt s sq sa 16) s
      | _ => if embOk s sl && gatherLenBad s sl then finish s sq stAccess 0x0023 0 else embBegin s sl false
where
  hardErr' (sl : Slot) : Option Stop := match sl.err with | some e => if e.1 = stPoison then none else some e | none => none
  haveAll' (sl : Slot) (is : List Nat) : Bool := is.all fun i => haveBytes sl i 0 (opLen sl.d i)

/-- EMB_GATHER (R331 to R338). -/
def execEmbGather (sq : Nat) (s : State) : Host.Outcome State Fault Refusal := answer workParts s (whenLive s fun s => gatherGo s sq)

/-! ## EMB_UPDATE -/

def updMode (d : Desc) : Nat := ops0 d 1 1

/-- SCALE: 0 acts as 1. -/
def updScale (d : Desc) : F32 := let x := par d 116 4; if x % 2 ^ 31 = 0 then 0x3F800000 else x

/-- The table or the mode refuses the update (R346). -/
def updRefused (s : State) (sl : Slot) : Bool :=
  let t := tabOf sl.d
  !([fmFp32, fmBf16, fmFp16].contains (embFmt s t)) || (updMode sl.d == 1 && etab s t ETAB.TAGSA == 0)

/-- RTIME of the window, 0 when RAISE is 0. -/
def updRtime (d : Desc) : Nat := if hd d DHDR.RAISE = 1 then hd d DHDR.RTIME else 0

/-- LEN of slot 1 is not that of N contributions. -/
def updLenBad (s : State) (sl : Slot) : Bool :=
  opLen sl.d 1 != operandBytes (opF sl.d 1 OPND.FMT) (embN sl.d * embDim s (tabOf sl.d))

/-- The contributions for owner position `p`: in OVERWRITE mode the last of each row alone (R348). -/
def updFor (s : State) (sl : Slot) (t p : Nat) (idx : List Nat) : List Byte × Nat :=
  let dim := embDim s t
  let f := opF sl.d 1 OPND.FMT
  let mine := idx.zipIdx.filter fun x => (embOwner s t x.1).1 == p
  let mine := if updMode sl.d = 1 then mine.filter fun x => !(mine.any fun y => y.1 == x.1 && decide (x.2 < y.2)) else mine
  let one (x : Nat × Nat) : List Byte :=
    let bs := gather sl 1 (x.2 * dim * (fmBits f / 8)) (dim * (fmBits f / 8))
    leBytes 8 ((embOwner s t x.1).2 + x.2 * 2 ^ 40)
      ++ pad16 ((List.range dim).map fun i => leBytes 4 (mul32 (f32 (decodeF (ffOf f) (rawElem f bs i))) (updScale sl.d))).flatten
  ((mine.map one).flatten, mine.length)

/-- Contributions to rows of owner position `p`, whose chip is fenced. -/
def redoFor (s : State) (t p : Nat) (data : List Byte) : List (Nat × Nat × List Nat) :=
  (updRecs (embDim s t) data).map fun r => (p, r.1, r.2.2)

/-- An update that awaits no owner and no row of a fenced one completes (R349, R351). -/
def updEnd (s : State) (sq : Nat) : State :=
  atBoundary s sq fun sl => match sl.work with
    | .emb run =>
      if run.out && run.await_.isEmpty && run.redo.isEmpty then
        embFinish s sq stOk 0 ((if run.winto then 2 ^ 63 else 0) + run.applied % 2 ^ 32)
      else s
    | _ => s

/-- One contribution to the surviving copy of a fenced owner's row; rows held so far by SA. -/
def redoOne (s : State) (sl : Slot) (run : EmbRun) (acc : AMap (List Byte)) (r : Nat × Nat × List Nat) : AMap (List Byte) :=
  let f := embFmt s run.tab
  let dim := embDim s run.tab
  let a := copySa s run r.1 r.2.1
  if updMode sl.d = 1 then mput acc a (overRow f r.2.2)
  else mput acc a (addRow f dim ((mget acc a).getD (gatherAt sl a (rowBytesOf f dim))) r.2.2)

/-- Contributions to rows of fenced owners follow the recovery path: the rows are read from the surviving copy, and written to it
(R337, R482). -/
def updRedo (s : State) (sq : Nat) : State :=
  match slotOf s sq with
  | none => s
  | some sl => match sl.work with
    | .emb run =>
      let n := rowBytesOf (embFmt s run.tab) (embDim s run.tab)
      if run.redo.any fun r => goneOwner s (embChip s run.tab r.1) then
        atBoundary s sq fun _ => embFinish s sq stRegionLost 0x0080 0
      else if run.redo.all fun r => haveAt sl (copySa s run r.1 r.2.1) n then
        let rows := run.redo.foldl (redoOne s sl run) []
        let s := modSlot s sq fun y => { y with work := .emb { run with redo := [], applied := run.applied + run.redo.length } }
        updEnd (rows.foldl (fun s e => storeAt s sq e.1 e.2) s) sq
      else run.redo.foldl (fun s r => askAt s sq (copySa s run r.1 r.2.1) n) s
    | _ => s

/-- Contributions, then an end message, to every owner that is not fenced (R349). -/
def updSend (s : State) (sl : Slot) (run : EmbRun) (idx : List Nat) : State :=
  let t := run.tab
  let rt := leBytes 8 (updRtime sl.d)
  let lost := fencedPos s t
  let redo := (lost.map fun p => redoFor s t p (List.replicate 16 0 ++ (updFor s sl t p idx).1)).flatten
  let (s, aw) := ((List.range (embN' s t)).filter fun p => !lost.contains p).foldl (fun (a : State × List EmbSent) p =>
    let (bs, n) := updFor a.1 sl t p idx
    let c := embChip a.1 t p
    let (s, e1) := if n = 0 then (a.1, []) else embSend a.1 sl run c xUpdate (updMode sl.d) (rt ++ List.replicate 8 0 ++ bs)
    let (s, e2) := embSend s sl run c xUpdEnd (updMode sl.d) (rt ++ leBytes 4 n ++ List.replicate 4 0)
    (s, a.2 ++ e1 ++ e2)) (s, [])
  updRedo (modSlot s sl.seq fun x => { x with work := .emb { run with out := true, await_ := aw, lost := lost, redo := redo } }) sl.seq

/-- EMB_UPDATE: given again while its operands are still to come. -/
def updGo (s : State) (sq : Nat) : State :=
  atBoundary s sq fun sl =>
    if opcode sl.d ≠ ocEmbUpdate then s
    else match sl.work with
      | .emb run =>
        match sl.err with
        | some e => embFinish s sq (embErr run e).1 (embErr run e).2 0
        | none =>
          if run.out then updRedo s sq
          else if !(haveBytes sl 0 0 (opLen sl.d 0) && haveBytes sl 1 0 (opLen sl.d 1)) then
            askBytes (askBytes s sq 0 0 (opLen sl.d 0)) sq 1 0 (opLen sl.d 1)
          else match embIdxs s sl with
            | none => finish s sq stAccess 0x0082 0
            | some idx => updSend s sl run idx
      | _ => if embOk s sl && updLenBad s sl then finish s sq stAccess 0x0023 0 else embBegin s sl (embOk s sl && updRefused s sl)

/-- EMB_UPDATE (R346 to R351). -/
def execEmbUpdate (sq : Nat) (s : State) : Host.Outcome State Fault Refusal := answer workParts s (whenLive s fun s => updGo s sq)

/-! ## Answers -/

/-- Records of a PARTIAL: reply slot and bytes. -/
def partialSplit (s : State) (x : Exch) : List (Nat × List Byte) :=
  let w := if x.param = 0 then 16 + embTS s x.obj else 16 + ceilDiv (4 * embDim s x.obj) 16 * 16
  (List.range (x.data.length / w)).map fun i =>
    let b := (x.data.drop (w * i)).take w
    (leNat (b.take 4), b.drop 16)

/-- PARTIAL: the oldest answer of an owner joins the output of its look-up (R335). -/
def partial1 (s : State) : State :=
  match nextExch s xPartial with
  | none => s
  | some (n, x) =>
    let s := dropExch s n
    match answers s x xLookup with
    | none => s
    | some (sl, run, a) =>
      let run := { run with await_ := run.await_.filter (· != a), parts := run.parts ++ partialSplit s x }
      let s := modSlot s sl.seq fun y => { y with
        work := .emb run
        err := if x.poison && y.err.isNone then some (stPoison, 0) else y.err }
      atBoundary s sl.seq fun _ => gatherEnd s sl.seq

/-- PARTIAL (R335). -/
def execPartialRsp (s : State) : Host.Outcome State Fault Refusal := answer workParts s (whenLive s partial1)

/-- The look-up or update of `sl` awaits the exchange that `x` answers. -/
def awaits (x : Exch) (sl : Slot) : Bool :=
  match sl.work with
  | .emb r => xslotOf sl == x.xslot && r.tab == x.obj && r.await_.any fun a => a.chip == x.chip && a.tag == x.tag
  | _ => false

/-- UPD_ACK: the oldest acknowledgement; the update completes once every owner has closed its window (R349, R351). -/
def updAck1 (s : State) : State :=
  match nextExch s xUpdAck with
  | none => s
  | some (n, x) =>
    let s := dropExch s n
    match (mvals s.que.slots).find? fun sl => opcode sl.d == ocEmbUpdate && awaits x sl with
    | none => s
    | some sl =>
      match sl.work with
      | .emb run =>
        let run := { run with
          await_ := run.await_.filter (·.chip != x.chip)
          applied := run.applied + leNat (x.data.take 4)
          winto := run.winto || leNat ((x.data.drop 4).take 4) != 0 }
        updEnd (modSlot s sl.seq fun y => { y with work := .emb run }) sl.seq
      | _ => s

/-- UPD_ACK (R349). -/
def execUpdAck (s : State) : Host.Outcome State Fault Refusal := answer (coreParts ++ [.emb]) s (whenLive s updAck1)

/-- OPX_ERR: the oldest error exchange ends the descriptor that it names (R355). -/
def opxErr1 (s : State) : State :=
  match nextExch s xErr with
  | none => s
  | some (n, x) =>
    let s := dropExch s n
    match (mvals s.que.slots).find? (awaits x) with
    | some sl => atBoundary s sl.seq fun _ => embFinish s sl.seq (leNat (x.data.take 2)) (leNat ((x.data.drop 2).take 2)) 0
    | none => s

/-- OPX_ERR (R355). -/
def execOpxErr (s : State) : Host.Outcome State Fault Refusal := answer (coreParts ++ [.emb]) s (whenLive s opxErr1)

/-- ENG_OPX (R471). -/
def execEngOpx (hdr : BitVec 128) (chip ep : Nat) (data : OpxBody) (s : State) : Host.Outcome State Fault Refusal :=
  answer [.txq, .emb] s (whenLive s fun s => if ep ≤ 8 then opxIn s hdr chip data.bytes data.poison else s)

/-- Owner `c` is fenced before it has answered descriptor `sl`: its rows are read from the surviving copy, and contributions to
them applied there (R337). -/
def embLose (s : State) (c : Nat) (sl : Slot) (run : EmbRun) : State :=
  let p := ((embList s run.tab).findIdx? (· == c)).getD 0
  let hit := run.await_.filter (·.chip == c)
  let run := { run with await_ := run.await_.filter (·.chip != c), lost := run.lost ++ [p] }
  if opcode sl.d = ocEmbGather then
    if goneOwner s c then atBoundary s sl.seq fun _ => embFinish s sl.seq stRegionLost 0x0080 0
    else
      let s := modSlot s sl.seq fun y => { y with work := .emb run }
      match embIdxs s sl with
      | none => s
      | some idx => gatherEnd (placesAsk s sl.seq run (gatherHots s sl run idx)) sl.seq
  else
    let redo := ((hit.filter (·.kind == xUpdate)).map fun a => redoFor s run.tab p a.data).flatten
    let s := modSlot s sl.seq fun y => { y with work := .emb { run with redo := run.redo ++ redo } }
    updEnd (updRedo s sl.seq) sl.seq

/-- A chip is fenced: every look-up and update that awaits its answer goes on without it. -/
def embFence (s : State) (c : Nat) : State :=
  (mvals s.que.slots).foldl (fun s sl => match sl.work with
    | .emb run => if run.await_.any (·.chip == c) then embLose s c sl run else s
    | _ => s) s

end Sys2Proof.Machine
end

