-- ==== Sys2Proof/Machine/EmbSwitch.lean ====
section
/-! DEFINITION. EmbSwitch.lean: activation of tables, LOAD, SWITCH, REFRESH, PIN and UNPIN, and pushes of hot rows (R325 to
R327, R341 to R345, R352 to R354). -/
namespace Sys2Proof.Machine

/-! ## Activation (R325 to R327) -/

/-- A range lies contiguously in local extents of the tiers `ok` allows, valid, of system kind `sys`, DIRECT, owned by `t`. -/
def localRange (s : State) (sa n : Nat) (near : Bool) (sys : Bool) (t : Nat) : Bool :=
  saChip sa == own s && decide (saTier sa ≤ (if near then 0 else 1)) && decide (saOff sa + n ≤ 2 ^ 48) &&
  (List.range (if n = 0 then 0 else (saOff sa + n - 1) / 2 ^ 30 + 1 - saExt sa)).all fun k =>
    let r := extRec s (saTier sa) (saExt sa + k)
    populated s (saTier sa) (saExt sa + k) && btst r EXT.VALID && (btst r EXT.SYS == sys) && (sys || bget r EXT.OWNER == t)
      && (sys || bget r EXT.ATTR == 1) && !(bget r EXT.RCLASS == 1 && bget r EXT.ROLE == 1)

/-- Reserved bits of a table record. -/
def etabReserved : List (Nat × Nat) :=
  [(896, 128), (764, 4), (640, 4), (552, 3), (512, 40), (444, 4), (316, 4), (252, 4), (160, 32), (104, 24), (58, 6), (45, 3), (25, 7), (3, 5)]

/-- The cause that refuses an activation (R325); 0 where none does. -/
def embRefuse (s : State) (t : Nat) : Nat :=
  let r := etabRec s t
  let n := embN' s t
  let list := embList s t
  let ts := embTS s t
  if etabReserved.any (fun z => bget r ⟨z.1, z.2⟩ != 0) || !([fmFp32, fmBf16, fmFp16, fmE4m3, fmE5m2, fmInt8].contains (embFmt s t))
      || decide (embDim s t < 1 ∨ 4096 < embDim s t) || embRows s t == 0 || decide (1048576 < etab s t ETAB.HOTMAX) then 1
  else if !(localRange s (etab s t ETAB.LISTSA) (2 * n) false true 0)
      || saExt (etab s t ETAB.LISTSA) != saExt (etab s t ETAB.LISTSA + 2 * n - 1)
      || (list.filter (· == own s)).length != 1 || list.eraseDups.length != list.length then 2
  else if (etab s t ETAB.HOTMAX != 0 && (etab s t ETAB.HOTSA == 0
        || !(localRange s (etab s t ETAB.HOTSA) (2 * n * embH s t * (ts + 32)) true false (etab s t ETAB.OWNER))))
      || (etab s t ETAB.TAGSA != 0 && !(localRange s (etab s t ETAB.TAGSA) (8 * embQ s t) true false (etab s t ETAB.OWNER))) then 3
  else if etab s t ETAB.HOTMAX != 0 && decide (32 ≤ getF s EMB_TSTAT.SKETCHES) then 4
  else 0

/-- An EMB_TACT write is refused. -/
def embRefused (s : State) (c : Nat) : State := setF (setF s EMB_TSTAT.CAUSE 0 c) EMB_TSTAT.REFUSED 0 1

/-- ACTIVE and SKETCHES of EMB_TSTAT follow a change. -/
def embCount (s : State) (f : Fld) (up : Bool) : State := setF s f 0 (if up then getF s f + 1 else getF s f - 1)

/-- ACTIVATE. -/
def embActivate (s : State) (t : Nat) : State :=
  let c := embRefuse s t
  if c ≠ 0 then embRefused s c
  else
    let was := etab s t ETAB.ACTIVE == 1
    let s := if was then s else embCount s EMB_TSTAT.ACTIVE true
    let sk := etab s t ETAB.HOTMAX != 0
    let s := if sk == (embTab s t).sketch then s else embCount s EMB_TSTAT.SKETCHES sk
    let s := setEmbTab s t { sketch := sk }
    [(ETAB.ACTIVE, 1), (ETAB.CURSEL, 0), (ETAB.VERA, 0), (ETAB.BASEA, 0), (ETAB.PINSA, 0), (ETAB.VERB, 0), (ETAB.BASEB, 0),
     (ETAB.PINSB, 0), (ETAB.HOTGEN, 0)].foldl (fun s e => setEtab s t e.1 e.2) s

/-- EMB_ACTIVATE (R325). -/
def execEmbActivate (t : Nat) (s : State) : Host.Outcome State Fault Refusal := answer [.regs, .obs, .store, .emb, .red, .fresh] s (whenFast s fun s => embActivate s (t % 4096))

/-- A REFRESH of the table runs. -/
def refreshing (s : State) (t : Nat) : Bool := (embTab s t).refresh.any fun q => (slotOf s q).isSome

/-- DEACTIVATE (R327). -/
def embDeactivate (s : State) (t : Nat) : State :=
  if etab s t ETAB.PINSA != 0 || etab s t ETAB.PINSB != 0 || !(embTab s t).wins.isEmpty || refreshing s t then embRefused s 5
  else
    let s := if etab s t ETAB.ACTIVE == 1 then embCount s EMB_TSTAT.ACTIVE false else s
    let s := if (embTab s t).sketch then embCount s EMB_TSTAT.SKETCHES false else s
    setEtab (setEmbTab s t {}) t ETAB.ACTIVE 0

/-- EMB_DEACTIVATE (R327). -/
def execEmbDeactivate (t : Nat) (s : State) : Host.Outcome State Fault Refusal := answer [.regs, .obs, .store, .emb, .red] s (whenFast s fun s => embDeactivate s (t % 4096))

/-! ## EMB_SWITCH (Table EMB-5) -/

/-- A launched EMB_SWITCH with operation `op` on a table in service. -/
def switchGo (s : State) (op sq : Nat) (go : Slot → State) : State :=
  begins s ocEmbSwitch sq fun sl =>
    if subOp sl.d ≠ op then s
    else if !embOk s sl then finish s sq stAccess 0x0080 0
    else go sl

def swVersion (d : Desc) : Nat := par d 116 4

/-- The checks of R353 on the shard and the version. -/
def loadBad (s : State) (sl : Slot) (t : Nat) : Bool :=
  let n := ceilDiv (embQ s t * embTS s t) 4096 * 4096
  let cur := embVer s t (embCur s t)
  swVersion sl.d == 0 || decide (swVersion sl.d ≤ cur)
    || (match extsOf sl 0 with
        | [e] => e.len != n || !(localRange s e.base n false false (etab s t ETAB.OWNER))
        | _ => true)

/-- EMB_SWITCH LOAD (R353). -/
def execEmbLoad (sq : Nat) (s : State) : Host.Outcome State Fault Refusal :=
  answer coreParts s (whenLive s fun s => switchGo s 0 sq fun sl =>
    let t := tabOf sl.d
    let b := !embCur s t
    if loadBad s sl t then finish s sq stAccess 0x0084 0
    else if etab s t (embPins b) ≠ 0 then finish s sq stAccess 0x0085 0
    else
      let s := setEtab s t (if b then ETAB.BASEB else ETAB.BASEA) ((saAt (extsOf sl 0) 0).getD 0)
      finish (setEtab s t (if b then ETAB.VERB else ETAB.VERA) (swVersion sl.d)) sq stOk 0 0)

/-- EMB_SWITCH SWITCH (R354). -/
def execEmbSwitch (sq : Nat) (s : State) : Host.Outcome State Fault Refusal :=
  answer coreParts s (whenLive s fun s => switchGo s 1 sq fun sl =>
    let t := tabOf sl.d
    let b := !embCur s t
    if embVer s t b ≠ swVersion sl.d then embFinish s sq stVersion 0x0002 0
    else
      let s := setEtab s t ETAB.CURSEL (if b then 1 else 0)
      let s := setEtab s t ETAB.SWTIME s.tim.now.toNat
      let s := setEtab s t ETAB.HOTGEN (etab s t ETAB.HOTGEN + 1)
      finish s sq stOk 0 (embVer s t b))

/-- Row indices of a PIN list, none where one is negative or at or above ROWS. -/
def pinList (s : State) (sl : Slot) : Option (List Nat) :=
  (List.range (opLen sl.d 0 / 8)).mapM fun i =>
    let v := elemI fmInt64 (gather sl 0 (8 * i) 8) 0
    if v < 0 ∨ (embRows s (tabOf sl.d) : Int) ≤ v then none else some v.toNat

/-- EMB_SWITCH PIN (R342): given again while the list is still to come. -/
def execEmbPin (sq : Nat) (s : State) : Host.Outcome State Fault Refusal :=
  answer workParts s (whenLive s fun s => switchGo s 3 sq fun sl =>
    let t := tabOf sl.d
    match sl.err with
    | some e => finish s sq e.1 e.2 0
    | none =>
      if !haveBytes sl 0 0 (opLen sl.d 0) then askBytes s sq 0 0 (opLen sl.d 0)
      else match pinList s sl with
        | none => finish s sq stAccess 0x0087 0
        | some l =>
          let kept := (l.filter fun r => (embOwner s t r).1 == myPos s t).eraseDups
          if embH s t < kept.length then finish s sq stAccess 0x0087 0
          else finish (modEmbTab s t fun x => { x with pinned := kept }) sq stOk 0 kept.length)

/-- EMB_SWITCH UNPIN (R342). -/
def execEmbUnpin (sq : Nat) (s : State) : Host.Outcome State Fault Refusal :=
  answer (coreParts ++ [.emb]) s (whenLive s fun s => switchGo s 4 sq fun sl =>
    finish (modEmbTab s (tabOf sl.d) fun x => { x with pinned := [] }) sq stOk 0 0)

/-! ## REFRESH (R343, R344) -/

/-- The hot set: pinned rows, then candidates by falling estimate, lower index first. -/
def hotSet (h : Nat) (x : EmbTab) : List Nat :=
  let c := (x.cand.filter fun r => !x.pinned.contains r).mergeSort fun a b =>
    decide (sketchEst x b < sketchEst x a) || (decide (sketchEst x a = sketchEst x b) && decide (a ≤ b))
  (x.pinned ++ c).take h

/-- Other chips of the list that are not fenced. -/
def others (s : State) (t : Nat) : List Nat := (embList s t).filter fun c => c != own s && !fencedChip s c

/-- The section of owner position `p` in buffer `b` written: its pushed rows by rising row, then empty places. -/
def writeSection (s : State) (t b p gen : Nat) (rows : List (Nat × Nat × List Byte)) : State :=
  let rs := rows.mergeSort fun a c => decide (a.1 ≤ c.1)
  (List.range (embH s t)).foldl (fun s i => match rs[i]? with
    | some (r, v, bs) => ownWrite (ownWrite s (hotRowSa s t b p i) bs) (hotDirSa s t b p i) (dirBytes r v gen)
    | none => ownWrite s (hotDirSa s t b p i) (dirBytes emptyRow 0 0)) s

/-- A look-up that holds the generation last in the idle buffer is unfinished (R344). -/
def bufferHeld (s : State) (t : Nat) : Bool :=
  match mget (embTab s t).gens (1 - (embTab s t).cur) with
  | none => false
  | some g => (mvals s.que.slots).any fun sl => match sl.work with
    | .emb r => r.tab == t && r.gen == g && opcode sl.d == ocEmbGather
    | _ => false

/-- The idle buffer becomes current and the REFRESH completes, once every other owner's pushes have ended and no look-up holds the
buffer. Rows of a version that is no longer current are discarded (R333, R343). -/
def refreshCheck (s : State) (t : Nat) : State :=
  let x := embTab s t
  match x.refresh with
  | none => s
  | some q =>
    match slotOf s q with
    | none => s
    | some sl =>
      if sl.work != .await t || !((others s t).all x.ended.contains) || bufferHeld s t then s
      else
        let rows := x.push.filter fun r => r.2.2.1 == embVer s t (embCur s t)
        let b := 1 - x.cur
        let gen := (etab s t ETAB.HOTGEN + 1) % 2 ^ 32
        let s := ((List.range (embN' s t)).filter (· != myPos s t)).foldl (fun s p =>
          writeSection s t b p gen ((rows.filter (·.1 == p)).map (·.2))) s
        let s := setEtab (setEtab s t ETAB.HOTGEN gen) t ETAB.RFTIME s.tim.now.toNat
        let s := modEmbTab s t fun y => { y with
          cur := b, gens := mput y.gens b gen, push := [], ended := [], recv := [], due := [], disc := 0, hot := [], refresh := none }
        finish s q stOk 0 (x.disc + (x.push.length - rows.length))

/-- The rows of the hot set are pushed to every other chip of the list. -/
def pushAll (s : State) (sl : Slot) (t : Nat) : State :=
  let b := embCur s t
  let ver := embVer s t b
  let x := embTab s t
  let recs := (x.hot.map fun r => leBytes 8 r ++ List.replicate 8 0 ++ gatherAt sl (embBase s t b + (embOwner s t r).2 * embTS s t) (embTS s t)).flatten
  let s := (others s t).foldl (fun s c =>
    let (t1, s) := newTag s
    let (t2, s) := newTag s
    let ten := qTen s sl.ctx
    let s := sendExch s c ten (xslotOf sl) t1 xPush t ver 0 recs
    sendExch s c ten (xslotOf sl) t2 xPushEnd t ver 0 (leBytes 4 x.hot.length ++ List.replicate 12 0)) s
  refreshCheck (modSlot s sl.seq fun y => { y with ph := .running, work := .await t }) t

/-- EMB_SWITCH REFRESH: given again while rows of the hot set are still to come. -/
def refreshGo (s : State) (sq : Nat) : State :=
  switchGo s 2 sq fun sl =>
    let t := tabOf sl.d
    if embVer s t (embCur s t) = 0 then finish s sq stAccess 0x0081 0
    else if refreshing s t && (embTab s t).refresh != some sq then s
    else
      let s := if (embTab s t).refresh = some sq then s else modEmbTab s t fun x =>
        { x with hot := hotSet (embH s t) x, cnt := [], cand := [], refresh := some sq }
      let places := (embTab s t).hot.map fun r => embBase s t (embCur s t) + (embOwner s t r).2 * embTS s t
      let s := places.foldl (fun s a => askAt s sq a (embTS s t)) s
      match slotOf s sq with
      | none => s
      | some sl => if places.all fun a => haveAt sl a (embTS s t) then pushAll s sl t else s

/-- EMB_SWITCH REFRESH (R343). -/
def execEmbRefresh (sq : Nat) (s : State) : Host.Outcome State Fault Refusal :=
  answer workParts s (whenLive s fun s => atBoundary s sq fun sl =>
    if opcode sl.d = ocEmbSwitch ∧ sl.work = .await (tabOf sl.d) then refreshCheck s (tabOf sl.d) else refreshGo s sq)

/-- Owner position of a chip in a table's list. -/
def posOf (s : State) (t c : Nat) : Nat := ((embList s t).findIdx? (· == c)).getD 0

/-- An owner's pushes have ended once every row that its end message names has come. -/
def pushEnded (s : State) (t p c : Nat) : State :=
  let x := embTab s t
  match mget x.due p with
  | some n => if n ≤ mgetD 0 x.recv p ∧ !x.ended.contains c then refreshCheck (setEmbTab s t { x with ended := x.ended ++ [c] }) t else s
  | none => s

/-- Pushed rows land in the idle buffer, or are discarded on another version (R343). -/
def pushTake (s : State) (n : Nat) (x : Exch) : State :=
  let t := x.obj
  let w := 16 + embTS s t
  let rows := (List.range (x.data.length / w)).map fun i =>
    let b := (x.data.drop (w * i)).take w
    (leNat (b.take 8), b.drop 16)
  let p := posOf s t x.chip
  let s := dropExch s n
  let good := x.ver == embVer s t (embCur s t)
  let s := modEmbTab s t fun y => { y with
    recv := mput y.recv p (mgetD 0 y.recv p + rows.length)
    disc := if good then y.disc else y.disc + rows.length
    push := if good then y.push ++ rows.map fun r => (p, r.1, x.ver, r.2) else y.push }
  pushEnded s t p x.chip

/-- PUSH: the oldest whose buffer no look-up holds. -/
def push1 (s : State) : State :=
  match nextExch s xPush (fun x => !bufferHeld s x.obj) with
  | some (n, x) => pushTake s n x
  | none => s

/-- PUSH (R343). -/
def execPush (s : State) : Host.Outcome State Fault Refusal := answer (coreParts ++ [.emb]) s (whenLive s push1)

/-- HOT_BUFFER_PUSH_RELEASE: the pushes of table `t` that waited for its buffer proceed (R344). -/
def execHotBufferPushRelease (t : Nat) (s : State) : Host.Outcome State Fault Refusal :=
  answer (coreParts ++ [.emb]) s (whenLive s fun s =>
    if bufferHeld s t then s
    else refreshCheck ((s.emb.xin.filter fun e => e.2.kind == xPush && e.2.whole && e.2.obj == t).foldl (fun s e => pushTake s e.1 e.2) s) t)

/-- PUSH_END: the oldest end of an owner's pushes (R343). -/
def execPushEnd (s : State) : Host.Outcome State Fault Refusal :=
  answer (coreParts ++ [.emb]) s (whenLive s fun s => match nextExch s xPushEnd with
    | none => s
    | some (n, x) =>
      let p := posOf s x.obj x.chip
      pushEnded (modEmbTab (dropExch s n) x.obj fun y => { y with due := mput y.due p (leNat (x.data.take 4)) }) x.obj p x.chip)

/-- A chip is fenced: it counts as having pushed nothing more (R343). -/
def refreshFence (s : State) : State := (mkeys s.emb.tabs).foldl refreshCheck s

end Sys2Proof.Machine
end

