-- ==== Sys2Proof/Machine/Tiers.lean ====
section
/-! DEFINITION. Tiers.lean: fills, write-backs, evictions, the patrol scrubber and erase blocks (chapter "Tiers, staging
and quotas"). -/
namespace Sys2Proof.Machine

/-- The page of block `blk` in state `st`. -/
def pageIn (s : State) (blk st : Nat) : Option (Nat × Page) :=
  s.store.pages.find? fun e => pageKey e.2 == blk && pg e.2 PAGE.STATE == st

/-- FILL_DATA_VERIFIED (R196). -/
def execFillDataVerified (blk : Nat) (s : State) : Host.Outcome State Fault Refusal :=
  answer workParts s (whenLive s fun s => homeWork (match pageIn s blk pgFilling with
    | some (p, g) => if g.redundant then s else fillEnd s p (pgFill g (mediumData s blk))
    | none => s))

/-- FILL_UNCORRECTABLE (R215): a block of a redundant class is read once from redundancy, a NONE block fails. A block that was
never written reads as zeros and is not uncorrectable (R190). -/
def execFillUncorrectable (blk : Nat) (s : State) : Host.Outcome State Fault Refusal :=
  answer workParts s (whenLive s fun s => homeWork (match pageIn s blk pgFilling with
    | some (p, g) =>
      if g.redundant || (farBlock s blk).key == 0 then s
      else if bget (blkRec s blk) EXT.RCLASS = 0 then lyFails (quarantineBlk (fillFail s p g 1) blk (pageBlockSa s g))
      else setPage s p { g with redundant := true }
    | none => s))

/-- REDUNDANT_READ_RETURN (R215, R216, R486): the block as the recovery engine reconstructed it, or the failure. -/
def execRedundantReadReturn (blk : Nat) (ok : Bool) (data : BitVec 32768) (s : State) : Host.Outcome State Fault Refusal :=
  answer workParts s (whenLive s fun s => homeWork (match pageIn s blk pgFilling with
    | some (p, g) =>
      if !g.redundant then s
      else if !ok then
        let s := lyFails (fillFail s p g 2)
        if g.foreign = 0 then quarantineBlk s blk (pageBlockSa s g) else s
      else if g.foreign ≠ 0 then fillEnd s p (pgFill g data)
      else
        let g' := { pgSet (pgFill g data) PAGE.DMASK 0xFF with sdirty := BitVec.allOnes 64 }
        ledger (setEvt (fillEnd s p g') TIER_EVT.REPAIRED) 0x0503 1 none [pageBlockSa s g]
    | none => s))

/-- WRITEBACK_START (R199, R200): a DIRTY page is copied and programmed; a PARTIAL one is merge-filled first. Blocks of a
failed channel are held (Table FLT-5). -/
def execWritebackStart (blk : Nat) (s : State) : Host.Outcome State Fault Refusal :=
  answer workParts s (whenLive s fun s => match s.store.pages.find? fun e => pageKey e.2 == blk with
    | some (p, g) =>
      if !wbChosen s g || !wbReady s g then s
      else if pg g PAGE.STATE = pgDirty then homeWork (wbBegin s p g)
      else setPage s p { startFill g with wbWant := true }
    | none => s)

/-- WRITEBACK_ACK (R200): programmed, and the mapping durable. -/
def execWritebackAck (blk : Nat) (s : State) : Host.Outcome State Fault Refusal :=
  answer (workParts ++ [.pwr]) s (whenLive s fun s => homeWork (match pageIn s blk pgWriting with
    | some (p, g) => if g.wbDone then s else wbProgrammed s p g
    | none => s))

/-- DIRTY_AGE_EXPIRE (R199): a sector has been dirty for MAXAGE ms. -/
def execDirtyAgeExpire (blk : Nat) (s : State) : Host.Outcome State Fault Refusal :=
  answer [.store] s (whenLive s fun s => match s.store.pages.find? fun e => pageKey e.2 == blk with
    | some (p, g) =>
      if tstF s TIER_STGWM.MAXAGE && pg g PAGE.DMASK != 0 then setPage s p { g with wbWant := true } else s
    | none => s)

/-- EVICTION_START (R205 to R208): a waiting request of tenant `ten`, or of a SYS extent, needs a page; or, ahead of need, the
pool runs low. -/
def execEvictionStart (ten : Nat) (sys : Bool) (s : State) : Host.Outcome State Fault Refusal :=
  answer workParts s (whenLive s fun s =>
    let s := homeWork s
    if pageNeeded s ten sys || (!sys && poolIsLow s) then
      match evictPick s ten sys with
      | some (p, g) => evict s p g
      | none => s
    else s)

/-- PATROL_SCRUB_STEP (R220): `ecc` 0 clean, 1 corrected, 2 uncorrectable; `sec` the secondary's line. A line that an agent
owns is pulled from it first, and the scrubber takes no other meanwhile (R146). -/
def execPatrolScrubStep (ecc : Nat) (sec : Option Line) (s : State) : Host.Outcome State Fault Refusal :=
  answer workParts s (whenLive s fun s =>
    if s.store.scrubHeld.isSome then s else
    let n := getF s TIER_NEARCAP.EXTENTS * 2 ^ 24
    let line := s.store.scrub % (if n = 0 then 1 else n)
    let s := { s with store := { s.store with scrub := (line + 1) % (if n = 0 then 1 else n) } }
    let sa := mkSa (own s) 0 (line * 64)
    if s.store.failedPc.contains (pcOf s (line * 64)) then s
    else if (ownedIn s sa 1).isEmpty then scrubLine s line ecc sec
    else memPull { s with store := { s.store with scrubHeld := some (line, ecc, sec) } } sa 1)

/-- PSEUDO_CHANNEL_FAIL (R493, Table FLT-5). -/
def execPseudoChannelFail (pc : Nat) (s : State) : Host.Outcome State Fault Refusal :=
  answer workParts s (whenLive s fun s => if pc < 512 then pcFail s pc else s)

end Sys2Proof.Machine
end

