-- ==== Sys2Proof/Machine/VscScan.lean ====
section
/-! DEFINITION. VscScan.lean: activation of collections, VINSERT, VDELETE, VSCAN and VRERANK, and the plane engines (chapter
"Vector scan"). -/
namespace Sys2Proof.Machine

/-! ## Activation (R362, R363) -/

/-- Reserved bits of a collection record. -/
def vcollReserved : List (Nat × Nat) := [(352, 672), (304, 16), (256, 32), (124, 4), (17, 15), (3, 5)]

/-- Extent `e` may hold items of collection `c`. -/
def collExtOk (s : State) (c e : Nat) : Bool :=
  let t := coll s c VCOLL.TIER
  let r := extRec s t e
  decide (e < 2 ^ 18) && populated s t e && btst r EXT.VALID && !btst r EXT.SYS && bget r EXT.ATTR == 1
    && bget r EXT.OWNER == coll s c VCOLL.OWNER && !(bget r EXT.RCLASS == 1 && bget r EXT.ROLE == 1)

/-- The cause that refuses an ACTIVATE or ADOPT; 0 where none does. -/
def vscRefuse (s : State) (c : Nat) : Nat :=
  let r := collRec s c
  let dim := coll s c VCOLL.DIM
  let n := coll s c VCOLL.NEXT
  let l := (List.range n).map (collExt s c)
  let sa := coll s c VCOLL.EXTSA
  if vcollReserved.any (fun z => bget r ⟨z.1, z.2⟩ != 0) || n == 0
      || (if coll s c VCOLL.KIND = 0 then decide (dim < 1 ∨ 4096 < dim) else decide (dim < 8 ∨ 32768 < dim) || dim % 8 != 0) then 1
  else if !(localRange s sa (4 * n) false true 0) || saExt sa != saExt (sa + 4 * n - 1)
      || l.eraseDups.length != n || l.any (fun e => !collExtOk s c e) then 2
  else if coll s c VCOLL.TIER = 0 ∧ coll s c VCOLL.KIND = 1 then 3
  else 0

def vscRefused (s : State) (c : Nat) : State := setF (setF s VSC_CSTAT.CAUSE 0 c) VSC_CSTAT.REFUSED 0 1

/-- The geometry of R365, put in the record. -/
def setGeometry (s : State) (c : Nat) : State :=
  let vs := vecStride (vecBytes s c)
  let g := stripeBlocks vs
  [(VCOLL.VS, vs), (VCOLL.G, g), (VCOLL.CAPSLOT, min (2 ^ 32 - 1) (coll s c VCOLL.NEXT * (16384 / g) * 2048))].foldl
    (fun s e => setColl s c e.1 e.2) s

/-- ACTIVATE, or ADOPT where `keep`. -/
def vscActivate (s : State) (c : Nat) (keep : Bool) : State :=
  let x := vscRefuse s c
  if x ≠ 0 then vscRefused s x
  else
    let s := if coll s c VCOLL.ACTIVE = 1 then s else setF s VSC_CSTAT.ACTIVE 0 (getF s VSC_CSTAT.ACTIVE + 1)
    let s := setGeometry s c
    let s := if keep then s else setColl (setColl s c VCOLL.SEQ 0) c VCOLL.NEXTSLOT 0
    setColl s c VCOLL.ACTIVE 1

/-- VSC_ACTIVATE (R362). -/
def execVscActivate (c : Nat) (s : State) : Host.Outcome State Fault Refusal := answer [.regs, .obs, .store, .red] s (whenFast s fun s => vscActivate s (c % 4096) false)

/-- VSC_ADOPT (R363). -/
def execVscAdopt (c : Nat) (s : State) : Host.Outcome State Fault Refusal := answer [.regs, .obs, .store, .red] s (whenFast s fun s => vscActivate s (c % 4096) true)

def isMut (sl : Slot) : Bool := opcode sl.d == ocVinsert || opcode sl.d == ocVdelete

/-- A launched VINSERT or VDELETE of collection `c`. -/
def mutOf (c : Nat) (sl : Slot) : Bool := isMut sl && collOf sl.d == c && !unlaunched sl

/-- VSC_DEACTIVATE (R362). -/
def execVscDeactivate (c : Nat) (s : State) : Host.Outcome State Fault Refusal :=
  answer [.regs, .obs, .store, .red] s (whenFast s fun s =>
    let c := c % 4096
    if coll s c VCOLL.SCANS != 0 || (mvals s.que.slots).any (mutOf c) then vscRefused s 4
    else
      let s := if coll s c VCOLL.ACTIVE = 1 then setF s VSC_CSTAT.ACTIVE 0 (getF s VSC_CSTAT.ACTIVE - 1) else s
      setColl s c VCOLL.ACTIVE 0)

/-! ## Checks at fetch (R368, R370, R375, R384) -/

/-- The format of vectors of collection `c`. -/
def vecFmt (s : State) (c : Nat) : Nat := if coll s c VCOLL.KIND = 0 then fmInt8 else fmRaw

/-- Vectors or queries in slot 0. -/
def vecCount (s : State) (d : Desc) : Nat := opLen d 0 / vecBytes s (collOf d)

/-- METRIC is accepted for KIND (Table VSC-6). -/
def metricOk (kind m : Nat) : Bool := if kind = 0 then m ≤ 2 else m == 3

/-- Candidates of each query of a VRERANK. -/
def rerankC (s : State) (d : Desc) : Nat := opLen d 1 / 16 / vecCount s d

/-- The substatus of a vector descriptor whose collection is in service; 0 where it passes. -/
def vscCheck (s : State) (d : Desc) : Nat :=
  let c := collOf d
  let vb := vecBytes s c
  let n := vecCount s d
  let o := opcode d
  if coll s c VCOLL.ACTIVE = 0 ∨ vb = 0 ∨ o = ocVdelete then 0
  else if o = ocVinsert then
    if opLen d 0 % vb != 0 || decide (n < 1 ∨ 65536 < n) || opF d 0 OPND.FMT != vecFmt s c || opLen d 1 != 8 * n
      || (opLen d 2 != 0 && opLen d 2 != 4 * n) || (opLen d 3 != 0 && opLen d 3 != 4 * n) then 0x0023 else 0
  else if !metricOk (coll s c VCOLL.KIND) (scanMetric d) || opLen d 0 % vb != 0 then 0x0091
  else if decide (1024 < n ∨ 2097152 < n * coll s c VCOLL.VS) then 0x0092
  else if opF d 0 OPND.FMT != vecFmt s c || decide (n < 1) then 0x0023
  else if o = ocVscan then (if opLen d 1 != n * scanK d * 16 then 0x0023 else 0)
  else
    let k := rerankC s d
    if opLen d 1 != n * k * 16 || decide (k < 1 ∨ 4096 < k ∨ k < scanK d) || opLen d 2 != n * scanK d * 16 then 0x0023 else 0

/-! ## VINSERT and VDELETE (R367 to R371) -/

/-- The sequence number of a mutation that runs. -/
def mutSeq (s : State) (sl : Slot) : Nat := (coll s (collOf sl.d) VCOLL.SEQ + 1) % 2 ^ 64

/-- No mutation of the collection that launched earlier is unfinished (R367). -/
def mutTurn (s : State) (sl : Slot) : Bool :=
  !((mvals s.que.slots).any fun x => mutOf (collOf sl.d) x && decide (x.lseq < sl.lseq))

/-- A mutation that ends other than OK after its first write still commits its number (R371). -/
def mutFail (s : State) (sl : Slot) (st sub : Nat) : State :=
  finish (setColl s (collOf sl.d) VCOLL.SEQ (mutSeq s sl)) sl.seq st sub 0

/-- One command of a mutation: its start, or what follows once its writes so far are performed. -/
def mutGo (s : State) (oc sq : Nat) (start : Slot → State) (next : Nat → Slot → State) : State :=
  match slotOf s sq with
  | none => s
  | some sl =>
    match sl.work, sl.ph with
    | .vwrite k, .running =>
      if opcode sl.d != oc || sl.owed != 0 || heldBack s sq then s
      else match sl.stop.or sl.err with
        | some e => mutFail s sl e.1 e.2
        | none => next k sl
    | _, _ => begins s oc sq fun sl =>
      if !mutTurn s sl then s
      else if !collOk s sl then finish s sq stAccess 0x0090 0
      else if vscCheck s sl.d ≠ 0 then finish s sq stAccess (vscCheck s sl.d) 0
      else match hardErr sl with
        | some e => finish s sq e.1 e.2 0
        | none => start sl

/-- Word `i` of `n` bytes of operand `k`, zero where the operand is absent. -/
def listWord (sl : Slot) (k i n : Nat) : Nat := if opLen sl.d k = 0 then 0 else leNat (gather sl k (n * i) n)

/-- Σ x² of INT8 elements, or the count of set bits. -/
def norm2 (kind : Nat) (bs : List Byte) : Nat :=
  if kind = 0 then (bs.map fun b => (b.toInt * b.toInt).toNat).sum
  else (bs.map fun b => ((List.range 8).filter b.getLsbD).length).sum

/-- Operand slots of a VINSERT or VDELETE read whole, or asked; `go` once they have come. -/
def withReads (s : State) (sq : Nat) (is : List Nat) (go : State → Slot → State) : State :=
  let s := askAll s sq is
  match slotOf s sq with
  | none => s
  | some sl => if haveAll sl is then go s sl else s

/-- The vectors are written, padded to the stride. -/
def insertStart (s : State) (sl : Slot) : State :=
  let c := collOf sl.d
  let vb := vecBytes s c
  let n := vecCount s sl.d
  let first := coll s c VCOLL.NEXTSLOT
  if coll s c VCOLL.CAPSLOT < first + n then finish s sl.seq stQuota 0x0090 0
  else withReads s sl.seq [0, 1, 2] fun s sl =>
    let s := (List.range n).foldl (fun s i =>
      storeAt s sl.seq (slotPlace s c (first + i)).2 (gather sl 0 (vb * i) vb ++ List.replicate (coll s c VCOLL.VS - vb) 0)) s
    modSlot s sl.seq fun x => { x with ph := .running, work := .vwrite 1 }

/-- A new item's header. -/
def newHeader (s : State) (sl : Slot) (i : Nat) : BitVec 256 :=
  let c := collOf sl.d
  let vb := vecBytes s c
  bset (bset (bset (bset 0 ITEMH.LABEL (listWord sl 2 i 4)) ITEMH.NORM2 (norm2 (coll s c VCOLL.KIND) (gather sl 0 (vb * i) vb)))
    ITEMH.ISEQ (mutSeq s sl)) ITEMH.ITEM (listWord sl 1 i 8)

/-- Then the headers and the slot numbers; then SEQ and NEXTSLOT together (R369). -/
def insertNext (s : State) (k : Nat) (sl : Slot) : State :=
  let c := collOf sl.d
  let n := vecCount s sl.d
  let first := coll s c VCOLL.NEXTSLOT
  if k = 1 then
    let s := (List.range n).foldl (fun s i => storeAt s sl.seq (slotPlace s c (first + i)).1 (bytesOf (newHeader s sl i))) s
    let s := if opLen sl.d 3 = 0 then s
      else storeBytes s sl.seq 3 0 ((List.range n).map fun i => leBytes 4 (first + i)).flatten
    modSlot s sl.seq fun x => { x with work := .vwrite 2 }
  else
    let q := mutSeq s sl
    finish (setColl (setColl s c VCOLL.SEQ q) c VCOLL.NEXTSLOT (first + n)) sl.seq stOk 0 q

/-- VINSERT (R368, R369): given again while data are to come or writes to be performed. -/
def execVinsert (sq : Nat) (s : State) : Host.Outcome State Fault Refusal :=
  answer workParts s (whenLive s fun s => mutGo s ocVinsert sq (insertStart s) (insertNext s))

/-- Entry `i` of a list laid out as for VDELETE: ITEM and SLOT. -/
def delEntry (sl : Slot) (k i : Nat) : Nat × Nat := (leNat (gather sl k (16 * i) 8), leNat (gather sl k (16 * i + 8) 4))

/-- The header at an SA, from the lines gathered. -/
def headerAt (sl : Slot) (sa : Nat) : BitVec 256 := ofBytes 256 (gatherAt sl sa 32)

/-- Outcome of one entry, and the slots deleted so far (R370). -/
def delOutcome (s : State) (sl : Slot) (c : Nat) (dead : List Nat) (e : Nat × Nat) : Nat × List Nat :=
  if coll s c VCOLL.NEXTSLOT ≤ e.2 then (2, dead)
  else
    let h := headerAt sl (slotPlace s c e.2).1
    if bget h ITEMH.DSEQ != 0 || dead.contains e.2 then (1, dead)
    else if bget h ITEMH.ISEQ != 0 && bget h ITEMH.ITEM == e.1 then (0, dead ++ [e.2])
    else (2, dead)

/-- The headers of the entries are read, the tombstones and the outcomes written. -/
def deleteStart (s : State) (sl : Slot) : State :=
  withReads s sl.seq [0] fun s sl =>
    let c := collOf sl.d
    let n := opLen sl.d 0 / 16
    let es := (List.range n).map (delEntry sl 0)
    let places := (es.filter fun e => decide (e.2 < coll s c VCOLL.NEXTSLOT)).map fun e => (slotPlace s c e.2).1
    let s := places.foldl (fun s a => askAt s sl.seq a 32) s
    match slotOf s sl.seq with
    | none => s
    | some sl =>
      if !(places.all fun a => haveAt sl a 32) then s
      else
        let (os, dead) := es.foldl (fun (a : List Nat × List Nat) e =>
          let (o, d) := delOutcome s sl c a.2 e
          (a.1 ++ [o], d)) ([], [])
        let q := mutSeq s sl
        let s := dead.foldl (fun s x => storeAt s sl.seq ((slotPlace s c x).1 + 16) (leBytes 8 q)) s
        let s := if opLen sl.d 1 = 0 then s else storeBytes s sl.seq 1 0 (os.map fun o => BitVec.ofNat 8 o)
        modSlot s sl.seq fun x => { x with ph := .running, work := .vwrite 2 }

/-- VDELETE (R370). -/
def execVdelete (sq : Nat) (s : State) : Host.Outcome State Fault Refusal :=
  answer workParts s (whenLive s fun s => mutGo s ocVdelete sq (deleteStart s) fun _ sl =>
    let q := mutSeq s sl
    finish (setColl s (collOf sl.d) VCOLL.SEQ q) sq stOk 0 q)

/-! ## Scores and ranking (R375, R376) -/

/-- Σ q x over INT8 elements. -/
def dot8 (q x : List Byte) : Int := ((q.zip x).map fun p => p.1.toInt * p.2.toInt).sum

/-- The score of item bytes `x` under a metric (Table VSC-6). -/
def scoreOf (m nq nx : Nat) (q x : List Byte) : Int :=
  if m = 1 then (nq : Int) + nx - 2 * dot8 q x
  else if m = 3 then ((q.zip x).map fun p => ((List.range 8).filter (p.1 ^^^ p.2).getLsbD).length).sum
  else dot8 q x

/-- `a` ranks before `b`: (score, slot, item). -/
def ranksBefore (m : Nat) (a b : Int × Nat × Nat) : Bool :=
  if a.1 = b.1 then decide (a.2.1 < b.2.1)
  else if m = 0 ∨ m = 2 then decide (b.1 < a.1) else decide (a.1 < b.1)

/-- The best `k` of a list with `x` in it. -/
def rankIn (m k : Nat) (l : List (Int × Nat × Nat)) (x : Int × Nat × Nat) : List (Int × Nat × Nat) :=
  (l.takeWhile (ranksBefore m · x) ++ x :: l.dropWhile (ranksBefore m · x)).take k

/-- Query `q` of a scan, and its NORM2. -/
def queryOf (s : State) (sl : Slot) (q : Nat) : List Byte := let vb := vecBytes s (collOf sl.d); gather sl 0 (vb * q) vb

/-- Item `x` with header `h` and bytes `v` scored for the queries listed. -/
def scoreItem (s : State) (sl : Slot) (r : ScanRun) (qs : List Nat) (x : Nat) (h : BitVec 256) (v : List Byte) : ScanRun :=
  let m := scanMetric sl.d
  let kind := coll s (collOf sl.d) VCOLL.KIND
  { r with
    scored := r.scored + 1
    best := qs.foldl (fun b q =>
      let qb := queryOf s sl q
      let e := (scoreOf m (norm2 kind qb) (bget h ITEMH.NORM2) qb v, x, bget h ITEMH.ITEM)
      mput b q (rankIn m (scanK sl.d) (mgetD [] b q) e)) r.best }

/-- The result entries of one query, padded to K. -/
def resultBytes (k : Nat) (l : List (Int × Nat × Nat)) : List Byte :=
  (l.map fun e => leBytes 8 e.2.2 ++ leBytes 4 e.2.1 ++ leBytes 4 (wrapI 32 e.1)).flatten
    ++ (List.replicate (k - l.length) (List.replicate 12 0xFF ++ List.replicate 4 0)).flatten

def scanResults (s : State) (sl : Slot) (r : ScanRun) : List Byte :=
  ((List.range (vecCount s sl.d)).map fun q => resultBytes (scanK sl.d) (mgetD [] r.best q)).flatten

/-- The label filter of a VSCAN. -/
def labelOk (d : Desc) (h : BitVec 256) : Bool := bget h ITEMH.LABEL &&& scanLmask d == scanLval d

/-! ## VSCAN on the far tier (R377 to R381) -/

/-- The base of stripe `k`. -/
def stripeBase (s : State) (c k : Nat) : Nat :=
  let n := coll s c VCOLL.NEXT
  mkSa (own s) (coll s c VCOLL.TIER) (collExt s c (k % n) * 2 ^ 30) + k / n * 16 * coll s c VCOLL.G * 4096

/-- Stripes with slots below `m` that channel `ch` holds a part of, in the physical order of the flash: it bears no relation to
SA order and may differ between two scans (R225), so it is free for each scan, which `ord` names. -/
def chanStripes (s : State) (ord c m ch : Nat) : List Nat :=
  someOrder (ord * 2 ^ 70 + ch) ((List.range (ceilDiv m 2048)).filter fun k => saOff (stripeBase s c k) / 2 ^ 46 == ch / 16)

/-- The vector blocks of stripe `k` on a channel, in their physical order (R225). -/
def vecOrder (ord g k ch : Nat) : List Nat :=
  someOrder (ord * 2 ^ 70 + 64 * (k + 1) + ch) (List.range' 1 (g - 1))

/-- Channels whose engines a scan takes (R378). -/
def scanEngines (s : State) (c : Nat) : List Nat :=
  (List.range 64).filter fun ch => (collExts s c).any fun e => e / 2 ^ 16 == ch / 16

/-- A far-tier scan that runs. -/
def farScan (s : State) (sl : Slot) : Bool :=
  opcode sl.d == ocVscan && coll s (collOf sl.d) VCOLL.TIER == 1 && sl.ph == .running

/-- No scan launched earlier needs an engine of this one (R378). -/
def scanTurn (s : State) (sl : Slot) : Bool :=
  let mine := scanEngines s (collOf sl.d)
  !((mvals s.que.slots).any fun x => farScan s x && decide (x.lseq < sl.lseq)
      && (scanEngines s (collOf x.d)).any mine.contains)

/-- Engine time left to the scan's tenant in this window (R379). -/
def engineShare (s : State) (sl : Slot) : Bool :=
  !partitioned s || qPrv s sl.ctx
    || decide (mgetD 0 s.vsc.used (qTen s sl.ctx) * 256 < min 256 (getF s TEN_VSCQ.SHARE (qTen s sl.ctx)) * shareWindow)

/-- Engine time of `dt` counts charged to the tenants whose scans hold engines. -/
def engineTime (s : State) (dt : Nat) : State :=
  let w := s.tim.now.toNat / shareWindow
  let u := if w = s.vsc.win then s.vsc.used else []
  let ts := ((mvals s.que.slots).filter fun sl => farScan s sl && scanTurn s sl && !qPrv s sl.ctx).map (qTen s ·.ctx)
  { s with vsc := { s.vsc with win := w, used := ts.eraseDups.foldl (fun m t => mput m t (mgetD 0 m t + dt)) u } }

/-- Plane engines are power-gated when no scan holds them (R544, R546). -/
def engineGating (s : State) : Bool := tstF s PWR_CFG.EGATE && !partitioned s

/-- Engine `ch` is powered. -/
def engineUp (s : State) (ch : Nat) : Bool := !engineGating s || s.vsc.up.any (·.1 == ch)

/-- The status record (R377). -/
def scanStatus (s : State) (sl : Slot) (r : ScanRun) : List Byte :=
  let lost := if coll s (collOf sl.d) VCOLL.TIER = 1 then r.gone ++ r.unread else []
  let cov := ((List.range 64).map fun c => if lost.contains c then 0 else 2 ^ c).sum
  leBytes 8 cov ++ leBytes 4 r.scored ++ leBytes 4 r.out

/-- The outputs of a VSCAN: operand, format and bytes. -/
def scanWrite (s : State) (sl : Slot) (r : ScanRun) : State :=
  let s := storeBytes s sl.seq 1 0 (scanResults s sl r)
  if opLen sl.d 2 = 0 then s else storeBytes s sl.seq 2 0 (scanStatus s sl r)

/-- A scan completed PARTIAL, counted. -/
def scanPartial (s : State) (sl : Slot) : State :=
  let s := setEvt s VSC_EVT.PARTIAL
  if qPrv s sl.ctx then s else satF s TEN_VSCSTAT.PARTIAL (qTen s sl.ctx)

/-- A VSCAN ends. -/
def scanEnd (s : State) (sl : Slot) (r : ScanRun) : State :=
  let part := !r.gone.isEmpty || !r.unread.isEmpty
  let s := scanWrite s sl r
  let s := if part && sl.err.isNone then scanPartial s sl else s
  let st := if part then stPartial else stOk
  let sub := if !r.gone.isEmpty then 1 else if part then 2 else 0
  kernelEnd s sl.seq st sub r.sq [(fmRaw, scanResults s sl r), (fmRaw, scanStatus s sl r)]

/-- Channel `ch` of a scan is done: it has read all its blocks, or it has left. -/
def chanDone (r : ScanRun) (ch : Nat) : Bool := r.gone.contains ch || decide (mgetD 0 r.tot ch ≤ mgetD 0 r.pos ch)

/-- The scan goes on with `r`, or ends. -/
def scanGoOn (s : State) (sl : Slot) (r : ScanRun) : State :=
  let s := modSlot s sl.seq fun x => { x with work := .scan r }
  if (List.range 64).all (chanDone r) then scanEnd s { sl with work := .scan r } r else s

/-- Slots of stripe `k` on channel `ch` that vector block `b` holds, below `m`. -/
def blockSlots (s : State) (c k ch b m : Nat) : List Nat :=
  let p := vecsPerBlock (coll s c VCOLL.VS)
  (List.range p).filterMap fun i =>
    let j := (b - 1) * p + i
    let x := k * 2048 + ch % 16 * 128 + j
    if j < 128 ∧ x < m then some x else none

/-- Blocks of the recovery path: the channel or its engine is out of service, or its sled quiesces and the scan has left it. -/
def scanDead (s : State) (r : ScanRun) (ch : Nat) : Bool :=
  (regGet s .VSC_PESTAT 0).getLsbD ch || (chDead s ch && !r.leaving.contains ch)

/-- The block as the engine gets it: from the medium, or once from redundancy; none where it is not scored (R380). -/
def scanData (s : State) (r : ScanRun) (ch blk : Nat) (uncorr : Bool) (red : Option (BitVec 32768)) : Option (BitVec 32768) :=
  if (farBlock s blk).quar then none
  else if scanDead s r ch || uncorr then (if bget (blkRec s blk) EXT.RCLASS = 0 then none else red)
  else some (mediumData s blk)

/-- A visible item that takes part. -/
def takesPart (d : Desc) (r : ScanRun) (x : Nat) (h : BitVec 256) : Bool := itemVisible r.sq r.m x h && labelOk d h

/-- Items left out with block `b`: of a header block every slot below NEXTSLOT, of a vector block the visible ones. -/
def scanMiss (r : ScanRun) (ch n : Nat) : ScanRun := { r with unread := insRising r.unread ch, out := r.out + n }

/-- One block scored. -/
def scanBlock (s : State) (sl : Slot) (r : ScanRun) (ch : Nat) (uncorr : Bool) (red : Option (BitVec 32768)) : ScanRun × State :=
  let c := collOf sl.d
  let g := coll s c VCOLL.G
  let i := mgetD 0 r.pos ch
  let k := (chanStripes s r.ord c r.m ch).getD (i / g) 0
  let b := if i % g = 0 then 0 else (vecOrder r.ord g k ch).getD (i % g - 1) 0
  let blk := saBlk (stripeBase s c k) + 16 * b + ch % 16
  let data := scanData s r ch blk uncorr red
  let s := if uncorr && data.isNone && !(farBlock s blk).quar then quarantineBlk s blk (mkSa (own s) 1 (blk * 4096)) else s
  let s := bump s 0x0801 1 { occOf s sl with mst := some (2, ch), sa := some (mkSa (own s) 1 (blk * 4096)) }
  let vs := coll s c VCOLL.VS
  let p := vecsPerBlock vs
  let r' :=
    if b = 0 then
      let r := { r with heads := mput r.heads ch data }
      match data with
      | some _ => r
      | none => scanMiss r ch ((List.range 128).filter fun j => decide (k * 2048 + ch % 16 * 128 + j < r.m)).length
    else match mgetD none r.heads ch with
      | none => if data.isNone then scanMiss r ch 0 else r
      | some h =>
        let items := (blockSlots s c k ch b r.m).filter fun x => takesPart sl.d r x (bget h ⟨256 * (x % 128), 256⟩)
        match data with
        | none => scanMiss r ch items.length
        | some v => items.foldl (fun r x =>
            scoreItem s sl r (List.range (vecCount s sl.d)) x (bget h ⟨256 * (x % 128), 256⟩)
              (((bytesOf v).drop (x % 128 % p * vs)).take (vecBytes s c))) r
  let r' := { r' with pos := mput r'.pos ch (i + 1) }
  let r' := if r'.leaving.contains ch && (i + 1) % g == 0 then
      { r' with leaving := r'.leaving.filter (· != ch)
                gone := if i + 1 < mgetD 0 r'.tot ch then insRising r'.gone ch else r'.gone } else r'
  (r', s)

/-- SCAN_BLOCK_READ (R379 to R381): the next block of channel `ch` for scan `sq`. `uncorr`: its media read is
uncorrectable; `red`: what the recovery engine then gives. -/
def scanRead (s : State) (sq ch : Nat) (uncorr : Bool) (red : Option (BitVec 32768)) : State :=
  match slotOf s sq with
  | none => s
  | some sl =>
    match sl.work with
    | .scan r =>
      let go (s : State) (sl : Slot) : State := let (r, s) := scanBlock s sl r ch uncorr red; scanGoOn s sl r
      if !farScan s sl || !scanTurn s sl || !engineShare s sl || !engineUp s ch || plumbBusy s sq || chanDone r ch then s
      else if mgetD 0 r.pos ch % coll s (collOf sl.d) VCOLL.G = 0 then atBoundary (if sl.stop.isSome then undefOut s sl else s) sq fun sl => go s sl
      else go s sl
    | _ => s

/-- SCAN_BLOCK_READ (R379). -/
def execScanBlockRead (sq ch : Nat) (uncorr : Bool) (red : Option (BitVec 32768)) (s : State) : Host.Outcome State Fault Refusal :=
  answer workParts s (whenLive s fun s => scanRead s sq ch uncorr red)

/-- A far-tier VSCAN starts: its engines wake, and each channel's blocks are counted. -/
def farStart (s : State) (sl : Slot) (r : ScanRun) : State :=
  let c := collOf sl.d
  let es := scanEngines s c
  let (ord, s) := takeFresh s
  let tot := es.foldl (fun m ch => mput m ch ((chanStripes s ord c r.m ch).length * coll s c VCOLL.G)) []
  let s := { s with vsc := { s.vsc with up := s.vsc.up ++ (es.filter (engineUp s)).map fun ch => (ch, sl.seq) } }
  scanGoOn (modSlot s sl.seq fun x => { x with ph := .running }) { sl with ph := .running } { r with tot := tot, ord := ord }

/-- PLANE_ENGINE_WAKE_DONE (R545). -/
def execPlaneEngineWakeDone (ch : Nat) (s : State) : Host.Outcome State Fault Refusal :=
  answer [.vsc] s (whenLive s fun s =>
    let sqs := ((mvals s.que.slots).filter fun sl => farScan s sl && (scanEngines s (collOf sl.d)).contains ch
      && !s.vsc.up.contains (ch, sl.seq)).map (·.seq)
    { s with vsc := { s.vsc with up := s.vsc.up ++ sqs.map fun q => (ch, q) } })

/-- Far scans whose last channel has left end. -/
def scanSweep (s : State) : State :=
  (mvals s.que.slots).foldl (fun s sl => match sl.work with
    | .scan r => if farScan s sl && (List.range 64).all (chanDone r) then scanEnd s sl r else s
    | _ => s) s

/-- PLANE_ENGINE_FAIL (R381, R493): the engine of channel `ch`, or, with `chan`, the channel itself. -/
def execPlaneEngineFail (ch : Nat) (chan : Bool) (s : State) : Host.Outcome State Fault Refusal :=
  answer workParts s (whenLive s fun s =>
    if 64 ≤ ch || (regGet s .VSC_PESTAT 0).getLsbD ch then s
    else if chan then scanSweep (lyFails (channelFail s ch))
    else scanSweep (report (scanLose s ch) 0x09 ch 0 0))

/-- ERASE_BLOCK_FAIL (R224, R233): channel 16 × sled + n; `chanFail`: its spare no longer covers the retired blocks. -/
def execEraseBlockFail (ch : Nat) (chanFail : Bool) (s : State) : Host.Outcome State Fault Refusal :=
  answer workParts s (whenLive s fun s =>
    let sled := ch / 16 % 4
    let s := { s with store := { s.store with sledRetired := mput s.store.sledRetired sled (mgetD 0 s.store.sledRetired sled + 1) } }
    let s := ledger (satF s TIER_WEAR.RETIRED sled) 0x0506 1 none [ch]
    let (n, s) := takeFresh s
    let left := getF s TIER_WEAR.SPARE sled
    let s := setF s TIER_WEAR.SPARE sled (left - Config.pick n % (left + 1))
    if chanFail then
      let s := { s with store := { s.store with sledFailCh := mput s.store.sledFailCh sled (mgetD 0 s.store.sledFailCh sled + 1) } }
      scanSweep <| lyFails (channelFail (setEvt (satF s TIER_WEAR.FAILCH sled) TIER_EVT.WEAR) (ch % 64))
    else s)

/-- FLASH_CHANNEL_UNRESPONSIVE (R493). -/
def execFlashChannelUnresponsive (ch : Nat) (s : State) : Host.Outcome State Fault Refusal :=
  answer workParts s (whenLive s fun s => if ch < 64 then scanSweep <| lyFails (channelFail s ch) else s)

/-- A sled's quiesce begins: each scan leaves its channels at the end of the stripe it reads (Table VSC-7, step 8). -/
def scanQuiesce (s : State) (sled : Nat) : State :=
  scanSweep ((mvals s.que.slots).foldl (fun s sl => match sl.work with
    | .scan r =>
      let chs := ((List.range 16).map (16 * sled + ·)).filter fun ch => !chanDone r ch
      let mid (ch : Nat) : Bool := mgetD 0 r.pos ch % coll s (collOf sl.d) VCOLL.G != 0
      if chs.isEmpty then s else modSlot s sl.seq fun x => { x with work := .scan { r with
        leaving := (chs.filter mid).foldl insRising r.leaving
        gone := (chs.filter fun ch => !mid ch).foldl insRising r.gone } }
    | _ => s) s)

/-! ## VSCAN and VRERANK on the arrays (R382 to R386) -/

/-- The lines gathered at those places forgotten. -/
def forget (s : State) (sq : Nat) (places : List (Nat × Nat)) : State :=
  let ls := (places.map fun p => (cutLines p.1 p.2).map fun (l, _, _, _) => l / 64).flatten
  modSlot s sq fun x => { x with rdata := mfilter x.rdata fun l _ => !ls.contains l, asked := x.asked.filter fun l => !ls.contains l }

/-- Some line of `n` bytes at an SA is poisoned. -/
def poisonAt (sl : Slot) (sa n : Nat) : Bool := (cutLines sa n).any fun (l, _, _, _) => ((mget sl.rdata (l / 64)).map (·.2)).getD false

/-- Headers and vectors of slots, as places and lengths. -/
def slotPlaces (s : State) (c : Nat) (xs : List Nat) : List (Nat × Nat) :=
  (xs.map fun x => [((slotPlace s c x).1, 32), ((slotPlace s c x).2, vecBytes s c)]).flatten

/-- The items of a chunk asked; `go` once all have come. -/
def withSlots (s : State) (sl : Slot) (xs : List Nat) (go : State → Slot → State) : State :=
  let ps := slotPlaces s (collOf sl.d) xs
  let s := ps.foldl (fun s p => askAt s sl.seq p.1 p.2) s
  match slotOf s sl.seq with
  | none => s
  | some sl => if ps.all fun p => haveAt sl p.1 p.2 then go (forget s sl.seq ps) sl else s

/-- One item of a near-tier scan. -/
def nearItem (s : State) (sl : Slot) (r : ScanRun) (x : Nat) : ScanRun :=
  let c := collOf sl.d
  let (hs, vs) := slotPlace s c x
  let h := headerAt sl hs
  if poisonAt sl hs 32 then { r with out := r.out + 1 }
  else if !takesPart sl.d r x h then r
  else if poisonAt sl vs (vecBytes s c) then { r with out := r.out + 1 }
  else scoreItem s sl r (List.range (vecCount s sl.d)) x h (gatherAt sl vs (vecBytes s c))

/-- A chunk of a near-tier VSCAN ends (R382). -/
def scanPass (s : State) (sl : Slot) (r : ScanRun) : State :=
  let k := mgetD 0 r.pos 64
  let xs := (List.range 1024).filterMap fun i => if 1024 * k + i < r.m then some (1024 * k + i) else none
  withSlots s sl xs fun s sl =>
    let r := xs.foldl (nearItem s sl) r
    let r := { r with pos := mput r.pos 64 (k + 1) }
    let s := modSlot s sl.seq fun x => { x with work := .scan r }
    if mgetD 0 r.tot 64 ≤ k + 1 then scanEnd s { sl with work := .scan r } r else s

/-- The candidates of query `q`, each slot once among those visible; tombstoned and absent ones (R385). -/
def rerankSort (s : State) (sl : Slot) (r : ScanRun) (q : Nat) : List Nat × ScanRun :=
  let c := collOf sl.d
  let n := rerankC s sl.d
  (List.range n).foldl (fun (a : List Nat × ScanRun) i =>
    let (item, x) := delEntry sl 1 (n * q + i)
    let r := a.2
    if r.m ≤ x then (a.1, { r with gap := r.gap + 1 })
    else
      let h := headerAt sl (slotPlace s c x).1
      if bget h ITEMH.ISEQ = 0 ∨ r.sq < bget h ITEMH.ISEQ ∨ bget h ITEMH.ITEM ≠ item then (a.1, { r with gap := r.gap + 1 })
      else if bget h ITEMH.DSEQ ≠ 0 ∧ bget h ITEMH.DSEQ ≤ r.sq then (a.1, { r with tomb := r.tomb + 1 })
      else (if a.1.contains x then a.1 else a.1 ++ [x], r)) ([], r)

/-- VRERANK ends: its results, its counts. -/
def rerankEnd (s : State) (sl : Slot) (r : ScanRun) : State :=
  let s := storeBytes s sl.seq 2 0 (scanResults s sl r)
  let s := if qPrv s sl.ctx then s else satF s TEN_VSCSTAT.DROPPED (qTen s sl.ctx) (r.tomb + r.gap)
  kernelEnd s sl.seq stOk 0 (min r.gap (2 ^ 32 - 1) * 2 ^ 32 + min r.tomb (2 ^ 32 - 1)) [(fmRaw, scanResults s sl r)]

/-- A query of a VRERANK ends (R385, R386). -/
def rerankPass (s : State) (sl : Slot) (r : ScanRun) : State :=
  let c := collOf sl.d
  let q := mgetD 0 r.pos 64
  let n := rerankC s sl.d
  let xs := ((List.range n).map fun i => (delEntry sl 1 (n * q + i)).2).filter fun x => decide (x < r.m)
  withSlots s sl xs.eraseDups fun s sl =>
    let (keep, r) := rerankSort s sl r q
    let r := keep.foldl (fun r x =>
      let (hs, vs) := slotPlace s c x
      if poisonAt sl hs 32 || poisonAt sl vs (vecBytes s c) then r
      else scoreItem s sl r [q] x (headerAt sl hs) (gatherAt sl vs (vecBytes s c))) r
    let r := { r with pos := mput r.pos 64 (q + 1) }
    let s := modSlot s sl.seq fun x => { x with work := .scan r }
    if mgetD 0 r.tot 64 ≤ q + 1 then rerankEnd s { sl with work := .scan r } r else s

/-- A launched scan of opcode `oc` begins once its slots `is` have come; the collection is checked again. -/
def scanBegin (s : State) (oc sq : Nat) (is : List Nat) (go : State → Slot → ScanRun → State) : State :=
  begins s oc sq fun sl =>
    if s.arr.waiting.contains sq then s
    else if vscCheck s sl.d ≠ 0 then finish s sq stAccess (vscCheck s sl.d) 0
    else match hardErr sl, sl.work with
      | some e, _ => finish s sq e.1 e.2 0
      | none, .scan r => withReads s sq is fun s sl => go s sl r
      | none, _ => s

/-- VSCAN (R374): given again while its queries are to come. -/
def execVscan (sq : Nat) (s : State) : Host.Outcome State Fault Refusal :=
  answer workParts s (whenLive s fun s => scanBegin s ocVscan sq [0] fun s sl r =>
    if coll s (collOf sl.d) VCOLL.TIER = 1 then farStart s sl r
    else if r.m = 0 then scanEnd s sl r
    else kernelStart s sl (.scan { r with tot := mput [] 64 (ceilDiv r.m 1024) }))

/-- VRERANK (R384). -/
def execVrerank (sq : Nat) (s : State) : Host.Outcome State Fault Refusal :=
  answer workParts s (whenLive s fun s => scanBegin s ocVrerank sq [0, 1] fun s sl r =>
    kernelStart s sl (.scan { r with tot := mput [] 64 (vecCount s sl.d) }))

end Sys2Proof.Machine
end

