-- ==== Sys2Proof/Machine/ArriveCheck.lean ====
section
/-! DEFINITION. ArriveCheck.lean: the checks at fetch that need the chip's tables (R104, R331, R346, R368, R375, R384,
R502). -/
namespace Sys2Proof.Machine

/-- The substatus of the checks that need the chip's tables, for a descriptor that passed the others; 0 where it passes. A
table or a collection that is not in service is refused later (R324, R364). -/
def arrivalState (s : State) (sl : Slot) : Nat :=
  let o := opcode sl.d
  if o = ocEmbGather then (if embOk s sl && gatherLenBad s sl then 0x0023 else 0)
  else if o = ocEmbUpdate then (if embOk s sl && updLenBad s sl then 0x0023 else 0)
  else if o = ocVinsert ∨ o = ocVscan ∨ o = ocVrerank then vscCheck s sl.d
  else 0

end Sys2Proof.Machine
end

