-- ==== Sys2Proof/Machine/CohOps.lean ====
section
/-! DEFINITION. CohOps.lean: what the home admits from agents, and what it does with requests, notices, snoop answers,
timeouts and dead agents (R125 to R157, R514, R515). -/
namespace Sys2Proof.Machine

/-- A message as it reaches this chip: header, source chip and endpoint. -/
structure CohMsg where
  hdr  : BitVec 128
  chip : Nat
  ep   : Nat
  data : Line := 0
  deriving DecidableEq, Repr

def CohMsg.sa (m : CohMsg) : Nat := bget m.hdr COHH.LINE * 64
def CohMsg.ten (m : CohMsg) : Nat := bget m.hdr COHH.TENANT
def CohMsg.agent (m : CohMsg) : Nat := bget m.hdr COHH.AGENT
def CohMsg.from_ (m : CohMsg) : Nat := m.chip * 8 + m.ep % 8
def CohMsg.poison (m : CohMsg) : Bool := btst m.hdr COHH.POISON

/-- Bits [63:61] of the header are reserved (Table COH-2). -/
def CohMsg.reservedSet (m : CohMsg) : Bool := bget m.hdr ⟨61, 3⟩ != 0

/-- What the home does with an agent's message. -/
inductive Admit where
  | serve
  | forward (chip : Nat)
  /-- ERR with a code; `bad`: HOME_EVT.BADREQ is set. -/
  | err (code : Nat) (bad : Bool)
  /-- R11: no home can answer; recorded, with ERR ACCESS. -/
  | nowhere
  /-- Refused at the agent's own chip (R514). -/
  | edge
  /-- R131: discarded, with ERR ACCESS to a request. -/
  | discard
  /-- The sender is fenced. -/
  | drop
  deriving DecidableEq, Repr

/-- The kinds that only a caching agent of the tenant's groups may send. -/
def cachingKind (k : ReqKind) : Bool := k == .rdShared || k == .rdOwn || k == .wb

/-- Checks against the extent record at the home. -/
def admitExtent (s : State) (k : ReqKind) (m : CohMsg) : Admit :=
  let r := recOf s m.sa
  let acting := saChip m.sa != own s
  let valid := btst r EXT.VALID || (k == .wb && bget r EXT.STATE == exRetiring)
  if bget r EXT.STATE = exLost then .err erLost false
  else if !valid || btst r EXT.SYS || bget r EXT.OWNER != m.ten then .err erAccess true
  else if !acting && bget r EXT.RCLASS == 1 && bget r EXT.ROLE == 1 then .err erAccess true
  else if btst r EXT.ATTR && cachingKind k then .err erAccess true
  else if cachingKind k && (!s.home.caching.contains m.agent || !inGroups (ownerGroups s m.sa) m.agent) then .err erAccess true
  else if !btst r EXT.ATTR && partitioned s && dirWays s (bget r EXT.OWNER) == 0 then .err erAccess true
  else .serve

/-- Extents of a tier of another chip, as the frame plan gives them (log entry 12). -/
def planExtents (s : State) (c t sled : Nat) : Nat :=
  if t = 0 then mgetD 576 s.home.caps (8 * c) else mgetD 55879 s.home.caps (8 * c + 4 + sled)

/-- An address outside the populated part of its tier (R11, R19, R20, R21). -/
def unpopulated (s : State) (sa : Nat) : Bool :=
  let e := saExt sa
  if saTier sa = 2 then t2At (saOff sa) == .reserved
  else if saChip sa = own s then !populated s (saTier sa) e
  else if saTier sa = 0 then decide (planExtents s (saChip sa) 0 0 ≤ e)
  else decide (planExtents s (saChip sa) 1 (e / 65536 % 4) ≤ e % 65536)

/-- The way of an agent's request or notice to this home (R11, R126, R127, R131, R160, R482, R483, R514, R515). -/
def admitReq (s : State) (k : ReqKind) (m : CohMsg) : Admit :=
  let c := saChip m.sa
  let t := servedBy s m.sa
  if s.home.dead.contains m.from_ then .drop
  else if m.reservedSet then .discard
  else if m.chip = own s ∧ m.ep < 8 ∧ !(Nat.testBit (getF s TEN_SECCTL.EDGE m.ten) m.ep) then .edge
  else if !routed s c || saTier m.sa = 3 || ((c == own s || m.chip == own s) && unpopulated s m.sa) then .nowhere
  else if fencedChip s t then .err erLost false
  else if t ≠ own s then .forward t
  else if !tstF s TEN_SECCTL.EN m.ten || !tstF s HOME_DIRCFG.EN then .err erAccess true
  else if saTier m.sa = 2 then
    if (k == .rdCur && t2MayRead s false m.ten (saOff m.sa) 64) || (k == .wrFull && t2MayWrite false m.ten (saOff m.sa)) then .serve
    else .err erAccess true
  else match redirect s m.sa with
    | .serve => admitExtent s k m
    | .relay c => .forward c
    | .refuse st _ => .err (if st = stRegionLost then erLost else erAccess) (st != stRegionLost)

/-- The request that a message carries. -/
def CohMsg.req (m : CohMsg) (k : ReqKind) : HomeReq :=
  { kind := k, who := .agent m.agent (bget m.hdr COHH.TID), ten := m.ten, prv := false, sa := m.sa,
    upg := btst m.hdr COHH.UPG, data := m.data, mask := if k = .wrFull ∨ k = .wb then fullMask else 0,
    poison := k == .wb && m.poison }

/-- What this chip itself answers when a message is not served here; none where it is. `line` says whether the message carries
a line (R130). -/
def turnAway (s : State) (k : ReqKind) (vc : VC) (line : Bool) (m : CohMsg) : Option State :=
  let q := m.req k
  match admitReq s k m with
  | .serve => none
  | .forward c => some (send s { vc := vc, dst := c, dep := 8, src := m.chip, sep := m.ep, hdr := m.hdr,
                                 data := if line then bytesOf m.data else [] })
  | .err code bad => some (errTo (if bad then setEvt s HOME_EVT.BADREQ else s) q 0 code)
  | .nowhere => some (errTo (setEvt (ledgerFF s 5 m.sa (some m.ten)) HOME_EVT.BADREQ) q 0 erAccess)
  | .edge => some (errTo (ledger s 0x0D02 0 (some m.ten) [m.ten]) q 0 erAccess)
  | .discard =>
    let s := setEvt (ledger s 0x0401 0 (some m.ten) [m.sa, m.agent]) HOME_EVT.BADREQ
    some (if vc = .req then errTo s q 0 erAccess else s)
  | .drop => some s

/-- A request of Table COH-7 from an agent. -/
def agentReq (s : State) (k : ReqKind) (m : CohMsg) : State :=
  match turnAway s k .req (k == .wrFull) m with
  | some s => s
  | none =>
    let q := m.req k
    if saTier m.sa = 2 then
      if k = .rdCur then toAgent s m.agent opDataCur 0 q [] (bytesOf (t2Read s false m.ten (saOff m.sa) 64))
      else toAgent (t2Write64 s (saOff m.sa) m.data) m.agent opCmp 0 q []
    else homeStart s q

/-! ## Notices (Table COH-7a, R152) -/

/-- A stable state and its record without holder `a`. -/
def lessHolder (st : DirSt) (shr : Sharers) (a : Nat) : DirSt × Sharers :=
  match st with
  | .owned b => if a = b then (.inv, .precise []) else (st, shr)
  | .shared => let r := dropSharer shr a; (if noSharer r then .inv else .shared, r)
  | x => (x, shr)

/-- Agent `a` is dropped from the holders recorded for a line; an entry that nothing pegs is freed with the last one. -/
def dropHolder (s : State) (sa a : Nat) : State :=
  match dirEntry s sa with
  | none => s
  | some e =>
    let (st, shr) := lessHolder e.st e.shr a
    if st = .inv ∧ !e.peg then delDir s sa else setDir s sa { e with st := st, shr := shr }

/-- A transaction that no longer counts `a` among the line's holders: neither what it began from nor what it grants names it. -/
def Txn.forget (t : Txn) (a : Nat) : Txn :=
  { t with origin := (lessHolder t.origin t.shr a).1, goal := (lessHolder t.goal t.shr a).1, shr := dropSharer t.shr a
           kept := t.kept.filter (· != a) }

/-- An open transaction on the line forgets `a`. -/
def forgetHolder (s : State) (sa a : Nat) : State :=
  match txnOn s sa with
  | none => s
  | some (h, t) => setTxn s h (t.forget a)

/-- An open transaction records that `a` has given the line up (step 2 of Table COH-10). -/
def noteGone (s : State) (sa a : Nat) : State :=
  match txnOn s sa with
  | none => s
  | some (h, t) => setTxn s h { t.forget a with gaveUp := a :: t.gaveUp }

/-- WB_ACK for a notice. -/
def wbAck (s : State) (m : CohMsg) : State := toAgent s m.agent opWbAck 0 (m.req .wb) []

/-- The data of a WB written; WB_ACK follows the secondary's acceptance where there is one (R41). -/
def wbWrite (s : State) (m : CohMsg) : State :=
  let q := m.req .wb
  match lineWrite s q ((localSa s q.sa).getD q.sa) with
  | (.done, s) => landed s q
  | (.waits, s) => s
  | (.bad st sub, s) => failed s q st sub

/-- A notice that matches no holder. -/
def stray (s : State) (m : CohMsg) : State :=
  wbAck (setEvt (ledger s 0x0401 0 (some m.ten) [m.sa, m.agent]) HOME_EVT.STRAY) m

/-- WB from an admitted sender. -/
def takeWb (s : State) (m : CohMsg) : State :=
  let a := m.agent
  match txnOn s m.sa with
  | some (h, t) =>
    if t.wbOf = some a then
      whenAnswered (wbWrite s m) h { t with wbOf := none, got := some (m.data, m.poison) }
    else match (lineState s m.sa).1 with
      | .owned b => if a = b then dropHolder (noteGone (wbWrite s m) m.sa a) m.sa a else stray s m
      | _ => if t.unknown then noteGone (wbWrite s m) m.sa a else stray s m
  | none =>
    match (lineState s m.sa).1 with
    | .owned b => if a = b then dropHolder (wbWrite s m) m.sa a else stray s m
    | .slost => if saChip m.sa ≠ own s then wbWrite s m else stray s m
    | _ => stray s m

/-- EVICT_CLEAN from an admitted sender. -/
def takeEvict (s : State) (m : CohMsg) : State :=
  let a := m.agent
  match lineState s m.sa with
  | (.owned b, _) => if a = b then wbAck (dropHolder (noteGone s m.sa a) m.sa a) m else stray s m
  | (.shared, .precise l) => if l.contains a then wbAck (dropHolder (noteGone s m.sa a) m.sa a) m else stray s m
  | (.shared, .coarse _) | (.slost, _) => wbAck s m
  | _ => stray s m

/-- A WB or EVICT_CLEAN: never held behind a transaction. -/
def agentNotice (s : State) (evict : Bool) (m : CohMsg) : State :=
  match turnAway s .wb .dat (!evict) m with
  | some s => s
  | none => if saTier m.sa = 2 then s else if evict then takeEvict s m else takeWb s m

/-! ## Snoop answers -/

/-- The kinds of answer (Table COH-8). -/
inductive Answer where
  | i | s | fwd | gone | data
  deriving DecidableEq, Repr

/-- The transaction that an answer names by HTX, LINE and AGENT. -/
def answered (s : State) (m : CohMsg) : Option (Nat × Txn) :=
  let h := bget m.hdr COHH.HTX
  match mget s.home.htx h with
  | some t => if saLine t.req.sa = bget m.hdr COHH.LINE ∧ reqAgent t.req = m.agent then some (h, t) else none
  | none => none

/-- The transaction after an awaited answer from `x`. -/
def takeAnswer (t : Txn) (k : Answer) (m : CohMsg) (x : Nat) : Txn :=
  let t := { t with owed := t.owed.filter (· != x) }
  let keeps := t.snp != opSnpInv
  match k with
  | .i => t
  | .s => { t with kept := x :: t.kept }
  | .fwd => { t with fwdDone := true, kept := if keeps then x :: t.kept else t.kept }
  | .gone =>
    if btst m.hdr COHH.WBF && !t.gaveUp.contains x then { t with tr := .wbw, wbOf := some x }
    else { t with gaveUp := t.gaveUp.filter (· != x) }
  | .data => { t with got := some (m.data, m.poison), kept := if keeps then x :: t.kept else t.kept
                      fwdDone := t.fwdDone || t.fwd == some x }

/-- A late answer (R155): a sender that it drops is dropped from an open transaction of the line too. -/
def lateAnswer (s : State) (k : Answer) (m : CohMsg) (x : Nat) : State :=
  match k with
  | .data => dropHolder (forgetHolder (writeBack s m.sa m.data m.poison) m.sa x) m.sa x
  | .fwd =>
    let s := dropHolder (forgetHolder s m.sa x) m.sa x
    if btst m.hdr COHH.DIRTY then
      let s := poisonLine s ((localSa s m.sa).getD m.sa)
      match dirEntry s m.sa with
      | some e => if e.peg then setDir s m.sa { e with st := .inv, shr := .precise [] } else delDir s m.sa
      | none => s
    else s
  | _ => s

/-- An answer discarded with its record. -/
def badAnswer (s : State) (m : CohMsg) : State :=
  setEvt (ledger s 0x0401 0 (some m.ten) [m.sa, m.agent]) HOME_EVT.BADREQ

/-- An answer from an agent that the transaction does not await (R155). -/
def strangeAnswer (s : State) (m : CohMsg) : State := setEvt (ledgerFF s 4 m.sa (some m.ten)) HOME_EVT.BADREQ

/-- A snoop answer reaches the home (R143, R152, R155). -/
def snoopAnswer (s : State) (k : Answer) (m : CohMsg) : State :=
  let x := m.from_
  if s.home.dead.contains x then s
  else if servedBy s m.sa ≠ own s then
    send s { vc := if k = .data then .dat else .rsp, dst := servedBy s m.sa, dep := 8, src := m.chip, sep := m.ep, hdr := m.hdr,
             data := if k = .data then bytesOf m.data else [] }
  else if m.reservedSet then badAnswer s m
  else match answered s m with
    | none => lateAnswer s k m x
    | some (h, t) =>
      if !t.owed.contains x then strangeAnswer s m
      else
        let s := if k = .data then writeBack s m.sa m.data m.poison else s
        let t := takeAnswer t k m x
        whenAnswered s h t

/-- CMP_ACK ends a granted transaction (R134). -/
def cmpAck (s : State) (m : CohMsg) : State :=
  if s.home.dead.contains m.from_ then s
  else if servedBy s m.sa ≠ own s then
    send s { vc := .rsp, dst := servedBy s m.sa, dep := 8, src := m.chip, sep := m.ep, hdr := m.hdr, data := [] }
  else if m.reservedSet then badAnswer s m
  else match answered s m with
  | some (h, t) => if t.tr = .ack ∧ m.from_ = m.agent then endTxn s h t t.goal t.shr else strangeAnswer s m
  | none => s

/-! ## Near-tier returns, the retry queue, timeouts -/

/-- A near-tier read returns for transaction `h`: `ecc` 0 clean, 1 corrected, 2 uncorrectable; `sec` the secondary's line
of a MIRROR2 extent (R219, Table FLT-5). -/
def nearReturn (s : State) (h ecc : Nat) (sec : Option Line) : State :=
  match mget s.home.htx h with
  | none => s
  | some t =>
    if t.tr ≠ .memRd then s else
    let sa := (localSa s t.req.sa).getD t.req.sa
    match needsSecondary s sa, sec with
    | true, some d => grantRead s h t d false
    | _, _ =>
      let s := if 2 ≤ ecc ∧ !(s.store.failedPc.contains (pcOf s (saOff sa))) then nearUncorr s sa sec else s
      match lineRead s t.req sa with
      | (.got d p, s) => grantRead s h t d p
      | (_, s) => s

/-- A waiting request starts when nothing before it waits on its line and its cause has cleared (R142). -/
def retryStart (s : State) (num : Nat) : State :=
  match s.home.retry.find? fun w => w.num == num with
  | none => s
  | some w =>
    if s.home.retry.any fun x => saLine x.req.sa == saLine w.req.sa && decide (x.num < num) then s
    else match startReq s w.req w.t0 true w.made with
      | (true, t) => { t with home := { t.home with retry := t.home.retry.filter (·.num != num) } }
      | (false, t) =>
        if s.home.htx.length < t.home.htx.length then
          { t with home := { t.home with retry := t.home.retry.map fun x => if x.num = num then { x with made := true } else x } }
        else t

/-- The requester of a transaction that timed out: ERR TIMEOUT, or the status TIMEOUT. -/
def timeoutTo (s : State) (q : HomeReq) (h : Nat) : State :=
  match q.who with
  | .agent _ _ => errTo s q h erTimeout
  | _ => failed s q stTimeout 0

/-- Holders left after a snoop that timed out. -/
def timeoutHolders (t : Txn) : DirSt × Sharers :=
  let stays (a : Nat) : Bool := !t.gaveUp.contains a && (!t.snooped.contains a || t.owed.contains a || t.kept.contains a)
  match t.origin with
  | .owned a => if stays a then (.owned a, .precise []) else (.inv, .precise [])
  | .shared => match t.shr with
    | .precise l => let l := l.filter stays; (if l.isEmpty then .inv else .shared, .precise l)
    | .coarse g => (.shared, .coarse g)
  | x => (x, t.shr)

/-- Table COH-13. -/
def timeoutEnd (s : State) (h : Nat) (t : Txn) : State :=
  match t.tr with
  | .stage =>
    let s := leavePages s t.req
    let s := match t.req.who, t.req.kind with
      | .agent a _, .rdShared | .agent a _, .rdOwn | .agent a _, .rdCur =>
        toAgent s a opDataCur h t.req [(COHH.POISON, 1), (COHH.LATE, 1)] (bytesOf (0 : Line))
      | _, _ => timeoutTo s t.req h
    endTxn s h t t.origin t.shr
  | .snp => let (st, shr) := timeoutHolders t; endTxn (timeoutTo s t.req h) h t st shr
  | .wbw => endTxn (timeoutTo (poisonLine s ((localSa s t.req.sa).getD t.req.sa)) t.req h) h t .inv (.precise [])
  | .ack => endTxn s h t t.goal t.shr
  | .memRd => endTxn (timeoutTo s t.req h) h t t.origin t.shr
  | _ => endTxn (timeoutTo s t.req h) h t .inv (.precise [])

/-- The record, the event and the count of a timeout (R154). -/
def timeoutNote (s : State) (q : HomeReq) : State :=
  bump (setEvt (ledger s 0x0402 2 (some q.ten) [q.sa, reqAgent q]) HOME_EVT.TIMEOUT) 0x0306 1 { ten := some q.ten, sa := some q.sa }

/-- A transaction or a waiting request is still open after 2 ms. A descriptor's wait on staging has its own deadline. -/
def homeTimeout (s : State) (queued : Bool) (n : Nat) : State :=
  if queued then
    match s.home.retry.find? fun w => w.num == n with
    | none => s
    | some w => timeoutTo (timeoutNote { s with home := { s.home with retry := s.home.retry.filter (·.num != n) } } w.req) w.req 0
  else match mget s.home.htx n with
    | none => s
    | some t =>
      let byAgent := match t.req.who with | .agent _ _ => true | _ => false
      if t.tr = .stage ∧ !byAgent then s
      else
        let s := timeoutEnd (timeoutNote s t.req) n t
        { s with home := { s.home with quarantine := (n, s.tim.now.toNat + 4000 * 256000) :: s.home.quarantine } }

/-! ## Dead agents (R156, R157) -/

/-- One transaction at the fence of agent `d` (R156, step 1). One that waits for a WB of `d` ends after the sweep. -/
def deadTxn (s : State) (d h : Nat) : State :=
  match mget s.home.htx h with
  | none => s
  | some t =>
    if t.owed.contains d then whenAnswered s h { t with owed := t.owed.filter (· != d) }
    else if t.tr = .ack ∧ reqAgent t.req = d then endTxn s h t t.goal t.shr
    else s

/-- One directory entry met by the sweep (R156, step 2), with a transaction open on its line or not: whether it was O(d). -/
def deadEntry (s : State) (d l : Nat) : Bool × State :=
  match mget s.home.dir l with
  | none => (false, s)
  | some e =>
    let sa := l * 64
    if e.st = .owned d then
      let s := poisonLine (setSlost s ((localSa s sa).getD sa) false) ((localSa s sa).getD sa)
      (true, dropHolder (forgetHolder s sa d) sa d)
    else match e.st, e.shr with
      | .shared, .precise ids => (false, if ids.contains d then dropHolder (forgetHolder s sa d) sa d else s)
      | _, _ => (false, s)

/-- Transactions left waiting for a WB of `d` end by Table COH-13 (R156, step 3). -/
def deadWbw (s : State) (d h : Nat) : State :=
  match mget s.home.htx h with
  | some t => if t.wbOf = some d then timeoutEnd s h t else s
  | none => s

/-- Agent `d` is fenced: answers it owes count as given, its waiting requests go, the sweep runs, and what waited for its WB
ends. -/
def agentDead (s : State) (d : Nat) : State :=
  if s.home.dead.contains d then s else
  let s := { s with home := { s.home with dead := insRising s.home.dead d, caching := s.home.caching.filter (· != d)
                                          retry := s.home.retry.filter fun w => !(match w.req.who with | .agent a _ => a == d | _ => false) } }
  let s := (mkeys s.home.htx).foldl (fun s h => deadTxn s d h) s
  let (ps, s) := (mkeys s.home.dir).foldl (fun (a : List (Nat × Nat) × State) l =>
    let (b, s) := deadEntry a.2 d l
    (if b then a.1 ++ [(l * 64, bget (recOf s (l * 64)) EXT.OWNER)] else a.1, s)) ([], s)
  let s := (mkeys s.home.htx).foldl (fun s h => deadWbw s d h) s
  { s with home := { s.home with sweep := mput s.home.sweep d ps } }

/-- The events of one tenant at the end of the sweep. -/
def sweepTenant (s : State) (d t n : Nat) : State :=
  let s := setF (setF s TEN_COHEVT.COUNT t (getF s TEN_COHEVT.COUNT t + n)) TEN_COHEVT.AGENT t d
  msix (setF s TEN_COHEVT.PEND t 1) (tenFn s t) (getF s TEN_COHEVT.VEC t)

/-- The end of the sweep (R157). -/
def sweepEnd (s : State) (d : Nat) : State :=
  match mget s.home.sweep d with
  | none => s
  | some ps =>
    let s := { s with home := { s.home with sweep := mdel s.home.sweep d } }
    let s := ((ps.map (·.2)).eraseDups).foldl (fun s t => sweepTenant s d t (ps.filter (·.2 == t)).length) s
    let s := setF (setF s HOME_DEAD.AGENT 0 d) HOME_DEAD.POISONED 0 ps.length
    let s := setEvt s HOME_EVT.DEAD
    let s := (ps.take 64).foldl (fun s p => ledger s 0x0403 2 (some p.2) [p.1, d]) s
    report s 0x02 d ps.length 0

end Sys2Proof.Machine
end

