-- ==== Sys2Proof/Machine/Coherence.lean ====
section
/-! DEFINITION. Coherence.lean: the coherence messages and the home's own events (chapter "The home and coherence"). -/
namespace Sys2Proof.Machine

/-- RD_SHARED (R143). -/
def execRdShared (hdr : BitVec 128) (chip ep : Nat) (s : State) : Host.Outcome State Fault Refusal :=
  answer workParts s (whenLive s fun s => homeWork (agentReq s .rdShared ⟨hdr, chip, ep, 0⟩))

/-- RD_OWN (R143). -/
def execRdOwn (hdr : BitVec 128) (chip ep : Nat) (s : State) : Host.Outcome State Fault Refusal :=
  answer workParts s (whenLive s fun s => homeWork (agentReq s .rdOwn ⟨hdr, chip, ep, 0⟩))

/-- RD_CUR (R143, R147). -/
def execRdCur (hdr : BitVec 128) (chip ep : Nat) (s : State) : Host.Outcome State Fault Refusal :=
  answer workParts s (whenLive s fun s => homeWork (agentReq s .rdCur ⟨hdr, chip, ep, 0⟩))

/-- WR_FULL (R143). -/
def execWrFull (hdr : BitVec 128) (chip ep : Nat) (data : Line) (s : State) : Host.Outcome State Fault Refusal :=
  answer workParts s (whenLive s fun s => homeWork (agentReq s .wrFull ⟨hdr, chip, ep, data⟩))

/-- WB (R152, Table COH-7a). -/
def execWb (hdr : BitVec 128) (chip ep : Nat) (data : Line) (s : State) : Host.Outcome State Fault Refusal :=
  answer workParts s (whenLive s fun s => homeWork (agentNotice s false ⟨hdr, chip, ep, data⟩))

/-- EVICT_CLEAN (R152, Table COH-7a). -/
def execEvictClean (hdr : BitVec 128) (chip ep : Nat) (s : State) : Host.Outcome State Fault Refusal :=
  answer workParts s (whenLive s fun s => homeWork (agentNotice s true ⟨hdr, chip, ep, 0⟩))

/-- RSP_I (Table COH-8). -/
def execRspI (hdr : BitVec 128) (chip ep : Nat) (s : State) : Host.Outcome State Fault Refusal :=
  answer workParts s (whenLive s fun s => homeWork (snoopAnswer s .i ⟨hdr, chip, ep, 0⟩))

/-- RSP_S (Table COH-8). -/
def execRspS (hdr : BitVec 128) (chip ep : Nat) (s : State) : Host.Outcome State Fault Refusal :=
  answer workParts s (whenLive s fun s => homeWork (snoopAnswer s .s ⟨hdr, chip, ep, 0⟩))

/-- RSP_FWD (Table COH-8). -/
def execRspFwd (hdr : BitVec 128) (chip ep : Nat) (s : State) : Host.Outcome State Fault Refusal :=
  answer workParts s (whenLive s fun s => homeWork (snoopAnswer s .fwd ⟨hdr, chip, ep, 0⟩))

/-- RSP_GONE (R152). -/
def execRspGone (hdr : BitVec 128) (chip ep : Nat) (s : State) : Host.Outcome State Fault Refusal :=
  answer workParts s (whenLive s fun s => homeWork (snoopAnswer s .gone ⟨hdr, chip, ep, 0⟩))

/-- RSP_DATA (R143). -/
def execRspData (hdr : BitVec 128) (chip ep : Nat) (data : Line) (s : State) : Host.Outcome State Fault Refusal :=
  answer workParts s (whenLive s fun s => homeWork (snoopAnswer s .data ⟨hdr, chip, ep, data⟩))

/-- CMP_ACK (R134). -/
def execCmpAck (hdr : BitVec 128) (chip ep : Nat) (s : State) : Host.Outcome State Fault Refusal :=
  answer workParts s (whenLive s fun s => homeWork (cmpAck s ⟨hdr, chip, ep, 0⟩))

/-- NEAR_READ_RETURN (R143, R219). -/
def execNearReadReturn (htx ecc : Nat) (sec : Option Line) (s : State) : Host.Outcome State Fault Refusal :=
  answer workParts s (whenLive s fun s => homeWork (nearReturn s htx ecc sec))

/-- NEAR_WRITE_DONE (R143). -/
def execNearWriteDone (htx : Nat) (s : State) : Host.Outcome State Fault Refusal :=
  answer workParts s (whenLive s fun s => homeWork (match mget s.home.htx htx with
    | some t => if t.tr = .memWr then landTxn s htx t else s
    | none => s))

/-- RETRY_QUEUE_START (R142). -/
def execRetryQueueStart (num : Nat) (s : State) : Host.Outcome State Fault Refusal := answer workParts s (whenLive s fun s => homeWork (retryStart s num))

/-- HOME_TRANSACTION_TIMEOUT (R154, Table COH-13): of a waiting request, or of the transaction with HTX `n`. -/
def execHomeTransactionTimeout (queued : Bool) (n : Nat) (s : State) : Host.Outcome State Fault Refusal :=
  answer workParts s (whenLive s fun s => homeWork (homeTimeout s queued n))

/-- DEAD_AGENT_SWEEP_END (R157). -/
def execDeadAgentSweepEnd (agent : Nat) (s : State) : Host.Outcome State Fault Refusal :=
  answer [.regs, .obs, .home, .red] s (whenLive s fun s => sweepEnd s agent)

end Sys2Proof.Machine
end

