-- ==== Sys2Proof/Machine/Store.lean ====
section
/-! DEFINITION. Store.lean: extent records, version records, PUBLISH, mirror writes and parity (chapter "The store
address space"). -/
namespace Sys2Proof.Machine

/-- The tier of an extent command: near or far. -/
def tierOf (far : Bool) : Nat := if far then 1 else 0

/-- EXTENT_RECORD_HIGH_WRITE (R27). -/
def execExtentRecordHighWrite (far : Bool) (e : Nat) (v : W64) (s : State) : Host.Outcome State Fault Refusal :=
  answer [.obs, .store] s (whenLive s fun s => extHighWrite s (tierOf far) e v)

/-- EXTENT_RECORD_APPLY (R27, R28): a write of bytes 0 to 7 with VALID = 1. -/
def execExtentRecordApply (far : Bool) (e : Nat) (v : W64) (s : State) : Host.Outcome State Fault Refusal :=
  answer workParts s (whenLive s fun s => extLowWrite s (tierOf far) e (v ||| 1))

/-- EXTENT_VALID_CLEAR (R33): a write of bytes 0 to 7 with VALID = 0. -/
def execExtentValidClear (far : Bool) (e : Nat) (v : W64) (s : State) : Host.Outcome State Fault Refusal :=
  answer workParts s (whenLive s fun s => extLowWrite s (tierOf far) e (v &&& ~~~1#64))

/-- A retiring extent has nothing cached, no transaction open and no staging page left (R33, R202). -/
def extQuiet (s : State) (t e : Nat) : Bool :=
  (extLines s t e).isEmpty
  && !(s.home.htx.any fun x => saTier x.2.req.sa == t && saExt x.2.req.sa == e && saChip x.2.req.sa == own s)
  && !(t == 1 && s.store.pages.any fun x => x.2.foreign == 0 && pg x.2 PAGE.BLOCK / 2 ^ 18 == e)

/-- RETIRING becomes IDLE and the quota charge is released. -/
def extRetired (s : State) (t e : Nat) : State :=
  let r := extRec s t e
  if bget r EXT.STATE = exRetiring ∧ extQuiet s t e then
    let s := setExtState s t e exIdle
    if btst r EXT.SYS then s else chargeQ s (extQuota t).1 (bget r EXT.OWNER) false
  else s

/-- EXTENT_RETIRE_IDLE (R33, R202, R226): CLEAN pages of the extent's blocks are freed first. -/
def execExtentRetireIdle (far : Bool) (e : Nat) (s : State) : Host.Outcome State Fault Refusal :=
  answer workParts s (whenLive s fun s => extRetired (if far then retirePages s e else s) (tierOf far) e)

/-- TIER2_WIDE_WRITE (R639, R97): by a master that may write there; any other is refused. -/
def execTier2WideWrite (off : Nat) (v : Line) (prv : Bool) (ten : Nat) (s : State) : Host.Outcome State Fault Refusal :=
  answer workParts s (whenLive s fun s =>
    let off := off / 64 * 64
    if t2MayWrite prv ten off then t2Write64 s off v else ledgerFF s 5 off (if prv then none else some ten))

/-- VERSION_RECORD_WRITE (R36, R639): one word, or the whole record. -/
def execVersionRecordWrite (rgn : Nat) (word : Option Nat) (v : Line) (s : State) : Host.Outcome State Fault Refusal :=
  answer [.obs, .store] s (whenLive s fun s =>
    if 16384 ≤ rgn then s else
    match word with
    | none => verWrite s rgn v (BitVec.allOnes 512)
    | some w => if w < 8 then verWrite s rgn (bset 0 ⟨64 * w, 64⟩ (bget v ⟨0, 64⟩)) (wordMask w) else s)

/-- The version record that a PUBLISH names, as the issuing chip reads it (R109). -/
def publishRec (s : State) (d : Desc) (rem : RemRecs) : BitVec 512 :=
  let home := par d 58 2 % 1024
  let rgn := par d 56 2 % 2 ^ 14
  if home = own s then verRec s rgn else ((rem.find? fun e => e.1 == mkSa home 2 (0x00400000 + 64 * rgn)).map (·.2)).getD 0

/-- The CTL-class request that carries a PUBLISH to another chip (log entry 21): ENG_WR to the version record, with the
base, the expected version and the deadline. -/
def publishMsg (s : State) (home : Nat) (q : PubReq) : Msg :=
  engMsg s 3 (servedBy s (mkSa home 2 0)) 0 (q.tag % 65536) 0 24 true (mkSa home 2 (0x00400000 + 64 * q.rgn))
    (leBytes 8 q.base ++ leBytes 8 q.expected ++ leBytes 8 q.dl)

/-- PUBLISH (R109, Table STO-9): the new version must be one extent of the region's LENGTH on a page boundary. -/
def publish (s : State) (sq : Nat) (rem : RemRecs) : State :=
  atBoundary s sq fun sl =>
    if sl.ph != .launched || opcode sl.d != ocPublish then s else
    let d := sl.d
    let home := par d 58 2 % 1024
    let rgn := par d 56 2 % 2 ^ 14
    let r := publishRec s d rem
    match extsOf sl 0 with
    | [x] =>
      if x.len ≠ bget r VER.LENGTH ∨ x.base % pageBytes (bget r VER.PSIZE + 1) ≠ 0 then finish s sq stAccess 0x0024 0
      else if home ≠ own s ∧ (!routed s home) then finish s sq stAccess 0x0016 0
      else if fencedChip s home then finish s sq stRegionLost 0x0042 0
      else
        let s := setSlot s sq { sl with ph := .running, work := .await sq }
        let q : PubReq := { rgn := rgn, chip := own s, tag := sq, base := x.base, expected := par d 48 8
                            dl := deadlineAt s sl.ctx sl.ftime d }
        if home = own s then publishHome s q else send s (publishMsg s home q)
    | _ => finish s sq stAccess 0x0024 0

def execPublish (sq : Nat) (rem : RemRecs) (s : State) : Host.Outcome State Fault Refusal :=
  answer coreParts s (whenLive s fun s => publish s sq rem)

/-- PUBLISH_HOME_UPDATE (R38, Table STO-9): a PUBLISH of another chip arrives, or one that waited is tried again. -/
def execPublishHomeUpdate (rgn base expected chip : Nat) (tag : PubTag) (s : State) : Host.Outcome State Fault Refusal :=
  let q : PubReq := { rgn := rgn % 2 ^ 14, chip := chip, tag := tag.tag, base := base, expected := expected, dl := tag.dl }
  answer coreParts s (whenLive s fun s => if chip = own s && !s.xlt.pubWait.contains q then s else publishHome s q)

/-- PUBLISH_RESULT (R84): OK, VERSION_CONFLICT or TIMEOUT from the region's home. -/
def execPublishResult (tag st ver : Nat) (s : State) : Host.Outcome State Fault Refusal :=
  answer coreParts s (whenLive s fun s => match s.que.slots.find? fun e => e.1 % 65536 == tag % 65536 && e.2.work == .await e.1 && opcode e.2.d == ocPublish with
    | some (sq, sl) =>
      if par sl.d 58 2 % 1024 ≠ own s ∧ (st = stOk ∨ st = stVersion ∨ st = stTimeout) then finish s sq st 0 (if st = stOk then ver else 0)
      else s
    | none => s)

/-- A mirror write with tag `tag` is accepted: its writer is told (R41). -/
def mirrorAccept (s : State) (tag : Nat) : State :=
  match s.store.mirrors.find? fun m => m.tag == tag with
  | none => s
  | some m =>
    let s := { s with store := { s.store with mirrors := s.store.mirrors.filter (·.tag != tag) } }
    match m.htx with
    | none => performed s m.req
    | some h => match mget s.home.htx h with
      | some t => if t.tr = .mirror then writeDone s h t else s
      | none => s

/-- MIRROR_WRITE_ACCEPT (R41). -/
def execMirrorWriteAccept (tag : Nat) (s : State) : Host.Outcome State Fault Refusal := answer workParts s (whenLive s fun s => mirrorAccept s tag)

/-- The product in GF(2^8) with polynomial 0x11D (R43). -/
def gfMul (a b : Nat) : Nat :=
  ((List.range 8).foldl (fun (acc : Nat × Nat) i =>
    let x := if b.testBit i then acc.1 ^^^ acc.2 else acc.1
    let y := 2 * acc.2
    (x, if 256 ≤ y then y ^^^ 0x11D else y)) (0, a)).1

/-- 2^i in that field. -/
def gfPow (i : Nat) : Nat := (List.range i).foldl (fun a _ => gfMul a 2) 1

/-- A delta as a parity home adds it: as it is for P, times 2^pos for Q (R43). -/
def parityTerm (isQ : Bool) (pos : Nat) (d : BitVec 32992) : BitVec 32992 :=
  if isQ then ofBytes 32992 ((bytesOf d).map fun b => BitVec.ofNat 8 (gfMul b.toNat (gfPow pos))) else d

/-- A parity block with a delta added: its 4,096 bytes, and the parity of the vectors and tags beside them. -/
def parityAdd (b : FarBlock) (key : Nat) (d : BitVec 32992) : FarBlock :=
  { b with data := b.data ^^^ d.extractLsb' 0 32768, spare := b.spare ^^^ d.extractLsb' 32768 224, key := key }

/-- PARITY_DELTA_UPDATE (R44): the delta of data position `pos` applied to the parity block at local SA `sa`, and
acknowledged to the data home. -/
def parityUpdate (s : State) (chip tag sa pos : Nat) (delta : BitVec 32992) : State :=
  let r := extRec s 1 (saExt sa)
  if saChip sa ≠ own s ∨ saTier sa ≠ 1 ∨ !btst r EXT.VALID ∨ bget r EXT.RCLASS ≠ 2 ∨ bget r EXT.POS < 8 ∨ 8 ≤ pos
      ∨ bget r EXT.STATE = exLost ∨ s.store.failedCh.contains (chOf (saBlk sa)) then
    send s (engMsg s 6 chip 0 tag stAccess 0 true sa [])
  else
    let nb := parityAdd (farBlock s (saBlk sa)) (keyOf s r) (parityTerm (bget r EXT.POS == 9) pos delta)
    send (putFar s (saBlk sa) nb) (engMsg s 4 chip 0 tag 0 0 true sa [])

def execParityDeltaUpdate (chip tag : Nat) (sa pos : Nat) (delta : BitVec 32992) (s : State) : Host.Outcome State Fault Refusal :=
  answer [.txq, .store] s (whenLive s fun s => parityUpdate s chip tag sa pos delta)

/-- PARITY_DELTA_ACK (R44): the P or Q home of the block at local SA `sa` has acknowledged, or failed to. -/
def execParityDeltaAck (sa : Nat) (isQ ok : Bool) (s : State) : Host.Outcome State Fault Refusal :=
  answer (workParts ++ [.pwr]) s (whenLive s fun s => match pageOf s (blkKey s sa) with
    | some (p, g) =>
      if if isQ then g.parQ else g.parP then
        let g := if isQ then { g with parQ := false } else { g with parP := false }
        wbEnd s p { g with parFail := g.parFail || !ok }
      else s
    | none => s)

end Sys2Proof.Machine
end

