-- ==== Sys2Proof/Machine/EngMsg.lean ====
section
/-! DEFINITION. EngMsg.lean: engine reads and writes of other chips at this home, and the answers to this chip's own
(R166, R173 to R175, R179, R470, R641), and the tally commands (R176, R177, R184). -/
namespace Sys2Proof.Machine

/-- An engine message as it reaches this chip (Table LNK-8). -/
structure EngIn where
  hdr  : BitVec 128
  chip : Nat
  data : List Byte := []
  deriving DecidableEq, Repr

def EngIn.sa (m : EngIn) : Nat := bget m.hdr ENGH.SA
def EngIn.len (m : EngIn) : Nat := bget m.hdr ENGH.LEN
def EngIn.tag (m : EngIn) : Nat := bget m.hdr ENGH.TAG
def EngIn.ten (m : EngIn) : Nat := bget m.hdr ENGH.TENANT
def EngIn.prv (m : EngIn) : Bool := btst m.hdr ENGH.PRIV
/-- TALLY: the tally of a write, the status of an error. -/
def EngIn.x (m : EngIn) : Nat := bget m.hdr ENGH.TALLY

/-- ENG_ERR with a status. -/
def engErr (s : State) (m : EngIn) (st : Nat) : State := send s (engMsg s 6 m.chip m.ten m.tag st 0 m.prv m.sa [])

/-- Every 8-byte part, or the whole line, of a tier 2 access that its master may make. -/
def engT2Ok (s : State) (m : EngIn) (write : Bool) : Bool :=
  let n := m.len
  ((n == 8 && m.sa % 8 == 0) || (n == 64 && m.sa % 64 == 0)) &&
  (cutLines m.sa n).all fun (l, o, k, _) =>
    if k = 64 then (if write then t2MayWrite m.prv m.ten (saOff l) else t2MayRead s m.prv m.ten (saOff l) 64)
    else (List.range (k / 8)).all fun j =>
      if write then t2MayWrite m.prv m.ten (saOff l + o + 8 * j) 8 else t2MayRead s m.prv m.ten (saOff l + o + 8 * j) 8

/-- The operation for the lines of an access. -/
def remOp (m : EngIn) (read : Bool) : RemOp :=
  { chip := m.chip, tag := m.tag, read := read, sa := m.sa, len := m.len, ten := m.ten, prv := m.prv
    owed := (cutLines m.sa m.len).length }

/-- It is opened. -/
def engOpen (s : State) (m : EngIn) (read : Bool) : State :=
  { s with home := { s.home with rem := s.home.rem ++ [remOp m read] } }

/-- The write of one of its lines. -/
def engWrReq (m : EngIn) (l o k i : Nat) : HomeReq :=
  { kind := .engWr, who := .remote m.chip m.tag, ten := m.ten, prv := m.prv, sa := l,
    data := placeBytes o ((m.data.drop i).take k), mask := byteMask o k, tally := m.x }

/-- A write of a wrong size or alignment to a doorbell page (R97). -/
def engMisBell (m : EngIn) : Bool :=
  decide (saOff m.sa < 0x00200000) && !((m.len == 8 && m.sa % 8 == 0) || (m.len == 64 && m.sa % 64 == 0))

/-- A mirror write of the primary's home to this chip's secondary extent (R41, R201, R485). -/
def isMirrorWrite (s : State) (m : EngIn) : Bool :=
  let r := recOf s m.sa
  m.prv && saChip m.sa == own s && saTier m.sa ≤ 1 && bget r EXT.RCLASS == 1 && bget r EXT.ROLE == 1 && bget r EXT.PCHIP == m.chip

/-- The mirror write taken: each line is written, a far line into its mirror page, with DIRSUM S_LOST, and the write is accepted
once every line is (R41, R201). -/
def mirrorTake (s : State) (m : EngIn) : State :=
  let r := recOf s m.sa
  if !btst r EXT.VALID ∨ bget r EXT.STATE = exLost then engErr s m (if btst r EXT.VALID then stRegionLost else stAccess)
  else
    let q (l o k i : Nat) : HomeReq :=
      { kind := .engWr, who := .remote m.chip m.tag, ten := bget r EXT.OWNER, prv := true, sa := l, mirror := true
        data := placeBytes o ((m.data.drop i).take k), mask := byteMask o k }
    (cutLines m.sa m.len).foldl (fun s (l, o, k, i) => match lineWrite s (q l o k i) l with
      | (.done, s) => performed s (q l o k i)
      | (.waits, s) => s
      | (.bad st sub, s) => failed s (q l o k i) st sub) (engOpen s m false)

/-- Where an engine access of another chip goes: refused with a status, passed on, or served here. -/
def engAdmit (s : State) (m : EngIn) (write : Bool) : Option State :=
  let fwd (c : Nat) : State := send s { vc := .eng, dst := c, dep := 8, src := m.chip, sep := 8, hdr := m.hdr, data := m.data }
  let t := servedBy s m.sa
  if m.len = 0 ∨ 256 < m.len ∨ saTier m.sa = 3 then some (engErr s m stAccess)
  else if fencedChip s t then some (engErr s m stRegionLost)
  else if t ≠ own s then some (fwd t)
  else if !m.prv && !tstF s TEN_SECCTL.EN m.ten then some (engErr s m stAccess)
  else if saTier m.sa = 2 then
    (if engT2Ok s m write then none
     else some (engErr (if write && engMisBell m then misBell s false (saOff m.sa / 4096) (saOff m.sa % 4096) else s) m stAccess))
  else match extentStop s m.sa, redirect s m.sa with
    | some (st, _), _ => some (engErr (staleNote s m.prv m.ten m.sa st) m st)
    | none, .refuse st _ => some (engErr s m st)
    | none, .relay c => some (fwd c)
    | none, .serve =>
      let r := recOf s m.sa
      if (saChip m.sa = own s ∧ (!populated s (saTier m.sa) (saExt m.sa) ∨ (bget r EXT.RCLASS = 1 ∧ bget r EXT.ROLE = 1)))
          ∨ (!m.prv ∧ (btst r EXT.SYS ∨ bget r EXT.OWNER ≠ m.ten)) then some (engErr s m stAccess)
      else none

/-- ENG_RD: the lines are read at the home and answered in one ENG_RDATA (R147, R470). -/
def engRd (s : State) (m : EngIn) : State :=
  match engAdmit s m false with
  | some s => s
  | none =>
    if saTier m.sa = 2 then
      let bs := ((cutLines m.sa m.len).map fun (l, o, k, _) =>
        sliceBytes (if k = 64 then t2Read s m.prv m.ten (saOff l) 64 else t2Line s (saOff l)) o k).flatten
      send s (engMsg s 2 m.chip m.ten m.tag 0 m.len m.prv m.sa bs)
    else (cutLines m.sa m.len).foldl (fun s (l, _, _, _) =>
      homeStart s { kind := .engRd, who := .remote m.chip m.tag, ten := m.ten, prv := m.prv, sa := l }) (engOpen s m true)

/-- ENG_WR: performed at the home, its tally counted, acknowledged once (R173, R179). -/
def engWr (s : State) (m : EngIn) : State :=
  if isMirrorWrite s m then mirrorTake s m
  else match engAdmit s m true with
  | some s => s
  | none =>
    if saTier m.sa = 2 then
      let s := (cutLines m.sa m.len).foldl (fun s (l, o, k, i) =>
        let bs := (m.data.drop i).take k
        if k = 64 then t2Write64 s (saOff l) (ofBytes 512 bs)
        else (List.range (k / 8)).foldl (fun s j => t2Write8 s (saOff l + o + 8 * j) (ofBytes 64 ((bs.drop (8 * j)).take 8))) s) s
      send (tallyAdd s m.x m.len m.ten m.prv m.chip) (engMsg s 4 m.chip m.ten m.tag 0 0 m.prv m.sa [])
    else
      let qs := (cutLines m.sa m.len).map fun (l, o, k, i) => engWrReq m l o k i
      let part := qs.filter fun q => saTier q.sa == 1 && q.mask != fullMask
      if qs.length ≤ 1 || part.isEmpty then qs.foldl homeStart (engOpen s m false)
      else
        -- the lines it covers in part are staged first: if one cannot be, nothing is written (R641)
        let s := { s with home := { s.home with rem := s.home.rem ++ [{ remOp m false with owed := part.length, hold := qs }] } }
        part.foldl (fun s q => homeStart s { q with kind := .engRd, data := 0, mask := 0, tally := 0 }) s

/-- ENG_RDATA for this chip's own read. -/
def engRdata (s : State) (m : EngIn) (poison : Bool) : State :=
  match s.eng.reads.find? fun r => r.tag == m.tag with
  | none => s
  | some r =>
    let rest := s.eng.reads.filter (·.tag != m.tag)
    let d := r.acc ||| placeBytes r.off (m.data.take r.len)
    match rest.find? fun x => x.seq == r.seq && x.sa == r.sa with
    | some y => { s with eng := { s.eng with reads := rest.map fun x => if x.tag = y.tag then { x with acc := x.acc ||| d } else x } }
    | none => gotLine { s with eng := { s.eng with reads := rest } }
        { kind := .engRd, who := .slot r.seq, ten := m.ten, prv := m.prv, sa := r.sa } d poison

/-- ENG_ACK: a posted write, a mirror write. -/
def engAck (s : State) (m : EngIn) : State :=
  if s.eng.pend.any fun p => p.tag == m.tag && !p.held then dropPend s m.tag else mirrorAccept s m.tag

/-- ENG_ERR (R641): of a posted write, or of a read. -/
def engErrIn (s : State) (m : EngIn) : State :=
  let st := m.x
  let sub := if st = stRegionLost then 0x0040 else if st = stAccess then 0x0017 else 0
  match s.eng.pend.find? fun p => p.tag == m.tag && !p.held with
  | some p => dropPend (lostWrite s p st sub) m.tag
  | none => match s.eng.reads.find? fun r => r.tag == m.tag with
    | some r =>
      let s := { s with eng := { s.eng with reads := s.eng.reads.filter (·.tag != m.tag) } }
      failed s { kind := .engRd, who := .slot r.seq, ten := m.ten, prv := m.prv, sa := r.sa } st (if st = stRegionLost then 0x0041 else sub)
    | none => s

/-- A posted write handed to the recovery path (R175): sent again to a surviving copy, or lost. -/
def recoverWrite (s : State) (tag : Nat) : State :=
  match s.eng.pend.find? fun p => p.tag == tag && !p.held with
  | none => s
  | some p =>
    let t := servedBy s p.sa
    let cls := (mget s.xlt.extc (p.sa / 2 ^ 30)).map fun r => bget r EXT.RCLASS
    if t = own s then
      -- this chip is the stand-in: the write is performed here, or relayed on (R482, R483)
      let s := { s with eng := { s.eng with pend := s.eng.pend.map fun x => if x.tag = tag then { p with dst := t } else x } }
      let m : EngIn := { hdr := (pendMsg s p).hdr, chip := own s, data := (pendMsg s p).data }
      match extentStop s p.sa, redirect s p.sa with
      | none, .relay c => send s { pendMsg s p with dst := c }
      | none, .serve => homeStart (engOpen s m false) { p.req with who := .remote (own s) tag }
      | _, _ => dropPend (lostWrite s p stRegionLost 0x0040) tag
    else if !fencedChip s t && (t != saChip p.sa || cls.any fun c => c != 0) then
      let p' := { p with dst := t }
      send { s with eng := { s.eng with pend := s.eng.pend.map fun x => if x.tag = tag then p' else x } } (pendMsg s p')
    else dropPend (lostWrite s p stRegionLost 0x0040) tag

/-- ENG_RD (R147). -/
def execEngRd (hdr : BitVec 128) (chip ep : Nat) (s : State) : Host.Outcome State Fault Refusal :=
  answer workParts s (whenLive s fun s => if ep ≤ 8 then homeWork (engRd s ⟨hdr, chip, []⟩) else s)

/-- ENG_RDATA (R166). -/
def execEngRdata (hdr : BitVec 128) (chip ep : Nat) (data : List Byte) (poison : Bool) (s : State) : Host.Outcome State Fault Refusal :=
  answer workParts s (whenLive s fun s => if ep ≤ 8 then engRdata s ⟨hdr, chip, data⟩ poison else s)

/-- ENG_WR (R179). -/
def execEngWr (hdr : BitVec 128) (chip ep : Nat) (data : List Byte) (s : State) : Host.Outcome State Fault Refusal :=
  answer workParts s (whenLive s fun s => if ep ≤ 8 then homeWork (engWr s ⟨hdr, chip, data⟩) else s)

/-- ENG_ACK (R173). -/
def execEngAck (hdr : BitVec 128) (chip ep : Nat) (s : State) : Host.Outcome State Fault Refusal :=
  answer workParts s (whenLive s fun s => if ep ≤ 8 then homeWork (engAck s ⟨hdr, chip, []⟩) else s)

/-- ENG_ERR (R641). -/
def execEngErr (hdr : BitVec 128) (chip ep : Nat) (s : State) : Host.Outcome State Fault Refusal :=
  answer workParts s (whenLive s fun s => if ep ≤ 8 then homeWork (engErrIn s ⟨hdr, chip, []⟩) else s)

/-- POSTED_WRITE_TIMEOUT (R175): 2 ms without an acknowledgement. -/
def execPostedWriteTimeout (tag : Nat) (s : State) : Host.Outcome State Fault Refusal := answer workParts s (whenLive s fun s => homeWork (recoverWrite s tag))

/-- TALLY_ALLOCATE (R177): a write of bytes 8 to 15 with EN = 1. -/
def execTallyAllocate (i : Nat) (v : W64) (s : State) : Host.Outcome State Fault Refusal :=
  answer coreParts s (whenLive s fun s => if i < 65536 then tallyHighWrite s i (maskSet v 9) else s)

/-- TALLY_COUNT_WRITE (R176). -/
def execTallyCountWrite (i : Nat) (v : W64) (s : State) : Host.Outcome State Fault Refusal :=
  answer [.obs, .store, .que] s (whenLive s fun s => if i < 65536 then tallyCountSet s i v else s)

/-- TALLY_RELEASE (R184): a write of bytes 8 to 15 with EN = 0. -/
def execTallyRelease (i : Nat) (v : W64) (s : State) : Host.Outcome State Fault Refusal :=
  answer coreParts s (whenLive s fun s => if i < 65536 then tallyHighWrite s i (maskClr v 9) else s)

/-- MIRROR_WRITE_TIMEOUT (R489): the secondary has not accepted within 2 ms. -/
def execMirrorWriteTimeout (tag : Nat) (s : State) : Host.Outcome State Fault Refusal :=
  answer workParts s (whenLive s fun s => match s.store.mirrors.find? fun m => m.tag == tag with
    | some m => degrade s (saTier m.sa) (saExt m.sa) 1
    | none => s)

end Sys2Proof.Machine
end

