-- ==== Sys2Proof/Machine/LnkOps.lean ====
section
/-! DEFINITION. LnkOps.lean: ports, their messages and routing (R441, R459, R461, R465 to R467, Tables LNK-1, LNK-7, LNK-11). -/
namespace Sys2Proof.Machine

def portOf (s : State) (p : Nat) : Port := mgetD {} s.lnk.ports p

def setPort (s : State) (p : Nat) (x : Port) : State := { s with lnk := { s.lnk with ports := mputD {} s.lnk.ports p x } }

def modPort (s : State) (p : Nat) (f : Port → Port) : State := setPort s p (f (portOf s p))

/-- Port states of Table LNK-1. -/
def psDisabled : Nat := 0
def psDetect : Nat := 1
def psPhy : Nat := 2
def psFec : Nat := 3
def psParam : Nat := 4
def psSecure : Nat := 5
def psActive : Nat := 6
def psRetrain : Nat := 7
def psDown : Nat := 8

def portSt (s : State) (p : Nat) : Nat := getF s LNK_STAT.STATE p

def setPortSt (s : State) (p st : Nat) : State := setF s LNK_STAT.STATE p st

def isPeer (s : State) (p : Nat) : Bool := getF s LNK_CFG.MODE p == 2
def isEdge (s : State) (p : Nat) : Bool := getF s LNK_CFG.MODE p == 1

/-- ACTIVE, or in RETRAIN between two spells of it. -/
def portUp (s : State) (p : Nat) : Bool := portSt s p == psActive || portSt s p == psRetrain

def portNums : List Nat := List.range 12

/-- The neighbour of a peer port; of an edge port its agent. -/
def neighbour (s : State) (p : Nat) : Nat :=
  if isPeer s p then getF s LNK_STAT.PEER p else own s * 8 + getF s LNK_CFG.SLOT p

/-- Peer ports that are up and lead to chip `c`. -/
def portsTo (s : State) (c : Nat) : List Nat := portNums.filter fun p => isPeer s p && portUp s p && getF s LNK_STAT.PEER p == c

/-- The edge port of slot `e`. -/
def edgePort (s : State) (e : Nat) : Option Nat := portNums.find? fun p => isEdge s p && portUp s p && getF s LNK_CFG.SLOT p == e

/-! ## CTL messages -/

/-- Opcodes of Table LNK-7. -/
def ctHeartbeat : Nat := 1
def ctTimeReq : Nat := 2
def ctTimeRsp : Nat := 3
def ctShoot : Nat := 4
def ctShootAck : Nat := 5
def ctFence : Nat := 6
def ctParam : Nat := 7
def ctSec : Nat := 8
def ctSeed : Nat := 9

/-- OPC in bits [127:120]. -/
def opcOf (h : BitVec 128) : Nat := bget h ⟨120, 8⟩

/-- A message header with fields set. -/
def ctlHdr (opc : Nat) (fs : List (BF × Nat)) : BitVec 128 := fs.foldl (fun h f => bset h f.1 f.2) (bset 0 ⟨120, 8⟩ opc)

/-- A one-hop message of port `p` (R466). -/
def portSend (s : State) (p : Nat) (hdr : BitVec 128) (data : List Byte) : State :=
  let m : Msg := { vc := .ctl, dst := if isPeer s p then getF s LNK_STAT.PEER p else own s,
                   dep := if isPeer s p then 8 else getF s LNK_CFG.SLOT p, src := own s, sep := 8, hdr := hdr, data := data }
  modPort s p fun x => { x with own := x.own ++ [m] }

/-- Chips whose route entry is VALID. -/
def routedChips (s : State) : List Nat := (List.range 1024).filter fun c => tstF s LNK_RT.VALID c

/-- A CTL message to chip `c`, routed. -/
def ctlTo (s : State) (c : Nat) (hdr : BitVec 128) (data : List Byte := []) : State :=
  send s { vc := .ctl, dst := c, dep := 8, src := own s, sep := 8, hdr := hdr, data := data }

/-! ## HEARTBEAT -/

def HB.CHIP : BF := ⟨110, 10⟩
def HB.PORT : BF := ⟨106, 4⟩
def HB.SLOT : BF := ⟨103, 3⟩
def HB.HEALTH : BF := ⟨101, 2⟩
def HB.TSTATE : BF := ⟨98, 3⟩
def HB.GM : BF := ⟨88, 10⟩
def HB.DEPTH : BF := ⟨84, 4⟩
def HB.PRIO : BF := ⟨76, 8⟩
def HB.HBSEQ : BF := ⟨60, 16⟩
def HB.RTVER : BF := ⟨44, 16⟩

/-- A HEARTBEAT of port `p` with a HEALTH (R467). -/
def sendHeartbeat (s : State) (p health : Nat) : State :=
  let q := (getF s LNK_HB.TXSEQ p + 1) % 65536
  let s := setF s LNK_HB.TXSEQ p q
  portSend s p (ctlHdr ctHeartbeat [(HB.CHIP, own s), (HB.PORT, p), (HB.SLOT, getF s LNK_CFG.SLOT p), (HB.HEALTH, health),
    (HB.TSTATE, getF s TIM_SYNC.STATE), (HB.GM, getF s TIM_SYNC.GM), (HB.DEPTH, getF s TIM_SYNC.DEPTH), (HB.PRIO, s.tim.gmPrio),
    (HB.HBSEQ, q), (HB.RTVER, getF s LNK_RANK.RTVER)]) []

/-! ## Routing (R461) -/

/-- Ports of a mask that a message may leave by. -/
def usablePorts (s : State) (mask : Nat) (down : Bool) : List Nat :=
  portNums.filter fun p => mask.testBit p && portUp s p && (!down || decide (getF s LNK_RANK.RANK < getF s LNK_STAT.NRANK p))

/-- VC numbers of Table COH-1. -/
def VC.num : VC → Nat
  | .req => 0
  | .snp => 1
  | .rsp => 2
  | .dat => 3
  | .eng => 4
  | .ctl => 5

/-- Bitwise exclusive or of two numbers. -/
def hashStep (a b : Nat) : Nat := a ^^^ b

/-- The port that a message leaves by: its edge port at its chip, else `out_port`. -/
def outPort (s : State) (m : Msg) : Option Nat :=
  if m.dst = own s then (if m.dep < 8 then edgePort s m.dep else none)
  else if !tstF s LNK_RT.VALID m.dst then none
  else
    let a := usablePorts s (getF s LNK_RT.PMASK m.dst) m.down
    let l := if a.isEmpty then usablePorts s (getF s LNK_RT.AMASK m.dst) m.down else a
    if l.isEmpty then none
    else l[hashStep (hashStep (hashStep m.src m.dst) (m.dep * 16)) m.vc.num % l.length]?

/-- A flit discarded by R460, R461 or R463, with its cause: 1 route, 2 hops, 3 source. -/
def flitDrop (s : State) (p cause : Nat) : State :=
  let f := if cause = 1 then LNK_ERRDROP.ROUTE else if cause = 2 then LNK_ERRDROP.HOP else LNK_ERRDROP.SRC
  setEvt (ledger (satF s f p) 0x0B01 0 none [p, cause]) LNK_EVT.DROP

/-- Message slots (R446). -/
def msgSlots (m : Msg) : Nat := 1 + ceilDiv m.data.length 16

/-- `n` slots of credit on VC `v` are to be returned to the neighbour of port `p` (R456). -/
def owe (s : State) (p v n : Nat) : State := modPort s p fun x => { x with owed := mputD 0 x.owed v (mgetD 0 x.owed v + n) }

/-- A forwarded message leaves the receive buffer that it lay in. -/
def freeBuf (s : State) (m : Msg) : State := match m.fwd with
  | some p => owe s p m.vc.num (msgSlots m)
  | none => s

end Sys2Proof.Machine
end

