-- ==== Sys2Proof/Machine/Time.lean ====
section
/-! DEFINITION. Time.lean: frame time, its synchronisation, and raisings (chapter "Frame time and raising"). -/
namespace Sys2Proof.Machine

/-- Synchronisation states of Table TIM-1. -/
def tsUnsync : Nat := 0
def tsAcquiring : Nat := 1
def tsSynced : Nat := 2
def tsHoldover : Nat := 3
def tsLost : Nat := 4

def timSt (s : State) : Nat := getF s TIM_SYNC.STATE

def setTimSt (s : State) (x : Nat) : State := setF s TIM_SYNC.STATE 0 x

/-- A signed 64-bit difference of two frame times (R420). -/
def ftDiff (a b : W64) : Int := (a - b).toInt

/-- Frame time advanced by one fclk (R418). -/
def ftTick (s : State) : State :=
  let x := s.tim.frac + getF s TIM_RATE.RATE
  { s with tim := { s.tim with now := s.tim.now + BitVec.ofNat 64 (x / 2 ^ 32), frac := x % 2 ^ 32 } }

/-- Frame time stepped by `off` counts (R419). -/
def ftStep (s : State) (off : Int) : State :=
  let s := { s with tim := { s.tim with now := s.tim.now + BitVec.ofInt 64 off } }
  setEvt (setF s TIM_SYNC.STEPS 0 (getF s TIM_SYNC.STEPS + 1)) TIM_EVT.STEP

def nominalRate : Nat := 0x6666666666

/-- RATE within `k` parts in `d` of nominal: the servo's filter is not stated (R418, R425, R431). -/
def freeRate (s : State) (k d : Nat) : State :=
  let w := nominalRate * k / d
  let (n, s) := takeFresh s
  setF s TIM_RATE.RATE 0 (nominalRate - w + Config.pick n % (2 * w + 1))

def slew (s : State) : State := freeRate s 100 1000000

/-- The chip enters LOST. -/
def enterLost (s : State) : State := setEvt (setTimSt s tsLost) TIM_EVT.LOST

/-- A SYNCED chip enters HOLDOVER (R426). -/
def enterHoldover (s : State) : State :=
  if timSt s ≠ tsSynced then s
  else setEvt (setTimSt { s with tim := { s.tim with held := s.tim.now } } tsHoldover) TIM_EVT.HOLD

/-! ## Raisings held for synchronisation (R433) -/

/-- The lateness test of a raising that has not passed it, at SYNCED: unlaunched, parked, or waiting for a slot. -/
def lateHeld (s : State) (sl : Slot) : State :=
  if !raising sl.d || sl.raiseOk then s
  else if (slotOf s sl.seq).isSome then (if sl.ph = .fetching then s else lateTest s sl 1)
  else if past1us s sl.d && cq s sl.ctx QCTX.LATEPOL == 0 then
    match s.que.park.find? fun e => e.2.slot.seq == sl.seq with
    | some e => completeParked s e.1 stRaiseMissed 1
    | none => completeWaiting s sl stRaiseMissed 1
  else s

/-- The chip reaches SYNCED. -/
def enterSynced (s : State) : State :=
  let was := timSt s
  let s := setTimSt s tsSynced
  if was = tsSynced ∨ was = tsHoldover then s
  else
    let all := mvals s.que.slots ++ (mvals s.que.park).map (·.slot) ++ s.que.retryWait
    all.foldl lateHeld s

/-! ## The tree (R421, R426, R430) -/

/-- A neighbour's announcement over peer port `p`: PRIO, grandmaster, depth, chip. -/
def announced (s : State) (p : Nat) : Option (Nat × Nat × Nat × Nat) :=
  let x := portOf s p
  let gm := bget x.hb HB.GM
  let c := getF s LNK_STAT.PEER p
  if isPeer s p && portUp s p && x.hb != 0 && decide (bget x.hb HB.PRIO < 255) && !fencedChip s gm && !fencedChip s c then
    some (bget x.hb HB.PRIO, gm, bget x.hb HB.DEPTH, c)
  else none

/-- The chip may be grandmaster itself. -/
def eligible (s : State) : Bool := tstF s TIM_CFG.EN && decide (getF s TIM_CFG.PRIO < 255)

/-- The best grandmaster the chip knows of: PRIO and chip; its own announcement of itself through others does not count. -/
def bestGm (s : State) : Option (Nat × Nat) :=
  let l := (if eligible s then [(getF s TIM_CFG.PRIO, own s)] else [])
    ++ portNums.filterMap fun p => (announced s p).bind fun a => if a.2.1 = own s then none else some (a.1, a.2.1)
  l.foldl (fun (b : Option (Nat × Nat)) e => match b with
    | none => some e
    | some x => if e.1 < x.1 ∨ (e.1 = x.1 ∧ e.2 < x.2) then some e else b) none

/-- The parent port for grandmaster `g`: smallest depth, then lowest chip (R421). -/
def parentPort (s : State) (g : Nat) : Option (Nat × Nat) :=
  (portNums.filterMap fun p => (announced s p).bind fun a => if a.2.1 = g then some (p, a.2.2.1, a.2.2.2) else none).foldl
    (fun (b : Option (Nat × Nat × Nat)) e => match b with
      | none => some e
      | some x => if e.2.1 < x.2.1 ∨ (e.2.1 = x.2.1 ∧ e.2.2 < x.2.2) then some e else b) none
    |>.map fun e => (e.1, e.2.1)

/-- Grandmaster, parent and depth chosen again. -/
def rechoose (s : State) : State :=
  match bestGm s with
  | none => setF s TIM_SYNC.PORT 0 15
  | some (prio, g) =>
    let changed := s.tim.known && g != getF s TIM_SYNC.GM
    let s := if changed then setEvt s TIM_EVT.GMCHG else s
    let s := if changed && g != own s then enterHoldover s else s
    let s := setF { s with tim := { s.tim with known := true, gmPrio := prio } } TIM_SYNC.GM 0 g
    if g = own s then
      enterSynced (setF (setF s TIM_SYNC.PORT 0 15) TIM_SYNC.DEPTH 0 0)
    else match parentPort s g with
      | some (p, d) => setF (setF s TIM_SYNC.PORT 0 p) TIM_SYNC.DEPTH 0 (min 15 (d + 1))
      | none => setF s TIM_SYNC.PORT 0 15

/-- Chip `c` is fenced: a fenced parent brings HOLDOVER (R426). -/
def timeFence (s : State) (c : Nat) : State :=
  let p := getF s TIM_SYNC.PORT
  let s := if p < 12 ∧ getF s LNK_STAT.PEER p = c then enterHoldover s else s
  if tstF s TIM_CFG.EN then rechoose s else s

/-- The bound of R429. -/
def timBound (s : State) : Nat :=
  if 8 < getF s TIM_SYNC.DEPTH then 2047
  else if timSt s = tsSynced then 4
  else if timSt s = tsHoldover then min 2047 (4 + ceilDiv ((s.tim.now - s.tim.held).toNat * 100) (256 * 1000000000))
  else 2047

/-! ## The exchange (R423 to R427) -/

/-- TIME_EXCHANGE_START (R423): the parent port sends TIME_REQ; an exchange without a reply is counted (R426). -/
def execTimeExchangeStart (s : State) : Host.Outcome State Fault Refusal :=
  answer (coreParts ++ [.tim, .lnk]) s (whenLive s fun s =>
    let p := getF s TIM_SYNC.PORT
    if !tstF s TIM_CFG.EN then s
    else
      let miss := if s.tim.out.isSome then s.tim.miss + 1 else s.tim.miss
      let s := { s with tim := { s.tim with miss := miss, out := none } }
      let s := if 8 ≤ miss && timSt s == tsSynced && getF s TIM_SYNC.GM != own s then rechoose (enterHoldover s) else s
      if 12 ≤ p || !portUp s p then s
      else
        let x := s.tim.xid
        let s := { s with tim := { s.tim with xid := (x + 1) % 65536, out := some (x, s.tim.now) } }
        portSend s p (ctlHdr ctTimeReq [(⟨104, 16⟩, x)]) [])

/-- TIME_REQ (R423, R427): T2 is taken here, T3 when the reply is sent. -/
def execTimeReq (p xid : Nat) (s : State) : Host.Outcome State Fault Refusal :=
  answer [.lnk] s (whenLive s fun s =>
    if !tstF s TIM_CFG.EN || !portUp s p || (isEdge s p && !tstF s TIM_CFG.EDGESYNC) then s
    else portSend s p (ctlHdr ctTimeRsp [(⟨104, 16⟩, xid), (⟨94, 10⟩, getF s TIM_SYNC.GM), (⟨90, 4⟩, getF s TIM_SYNC.DEPTH),
      (⟨0, 64⟩, s.tim.now.toNat)]) (leBytes 8 s.tim.now.toNat ++ leBytes 8 (getF s TIM_EPOCH.EPOCH)))

/-- A completed exchange (R425). -/
def exchanged (s : State) (t1 t2 t3 t4 : W64) : State :=
  let off := (ftDiff t2 t1 - ftDiff t4 t3) / 2
  let far := decide (256000 < off.natAbs)
  let s := regSet s .TIM_OFFSET 0 (BitVec.ofInt 64 off)
  let st := timSt s
  let setGood (s : State) (g : Nat) : State := { s with tim := { s.tim with good := g } }
  if st = tsUnsync ∨ st = tsLost then setGood (setTimSt (ftStep s off) tsAcquiring) 0
  else if st = tsAcquiring then
    if far then setGood (ftStep s off) 0
    else
      let g := if off.natAbs ≤ 512 then s.tim.good + 1 else 0
      let s := setGood (slew s) g
      if g = 16 then enterSynced s else s
  else if far then enterLost s
  else enterSynced (slew s)

/-- TIME_RSP (R425): only a reply from the parent to the request that is out. -/
def execTimeRsp (p : Nat) (w0 w1 : BitVec 128) (s : State) : Host.Outcome State Fault Refusal :=
  answer (coreParts ++ [.tim]) s (whenLive s fun s => match s.tim.out with
    | some (x, t1) =>
      if p ≠ getF s TIM_SYNC.PORT ∨ bget w0 ⟨104, 16⟩ ≠ x then s
      else
        let s := { s with tim := { s.tim with out := none, miss := 0 } }
        let s := regSet s .TIM_EPOCH 0 (w1.extractLsb' 64 64)
        let s := setF s TIM_SYNC.DEPTH 0 (min 15 (bget w0 ⟨90, 4⟩ + 1))
        exchanged s t1 (w0.extractLsb' 0 64) (w1.extractLsb' 0 64) s.tim.now
    | none => s)

/-- HOLDOVER_LIMIT (R426). -/
def execHoldoverLimit (s : State) : Host.Outcome State Fault Refusal :=
  answer [.regs, .obs] s (whenLive s fun s => if timSt s = tsHoldover then enterLost s else s)

/-- PTP_REFERENCE_MESSAGE (R431): reference time `ref` in ns, once the servo has locked to it. -/
def execPtpReferenceMessage (ref : W64) (locked : Bool) (s : State) : Host.Outcome State Fault Refusal :=
  answer [.regs, .obs, .tim, .fresh] s (whenLive s fun s =>
    if !(eligible s && getF s TIM_SYNC.GM == own s && s.tim.known && tstF s TIM_CFG.EXTREF) || !locked || s.tim.refOff then s
    else
      let ns := BitVec.ofNat 64 (s.tim.now.toNat / 256)
      if getF s TIM_EPOCH.EPOCH = 0 then regSet s .TIM_EPOCH 0 (ref - ns)
      else if 1000000 < (ref - (regGet s .TIM_EPOCH 0 + ns)).toInt.natAbs then
        setEvt { s with tim := { s.tim with refOff := true } } TIM_EVT.REFFAR
      else freeRate s 10 1000000)

/-! ## Raising (R435) -/

/-- Place of an opcode in the order of R435. -/
def raiseRank (sl : Slot) : Nat := if opcode sl.d = ocCut then 0 else if opcode sl.d = ocEmbSwitch then 1 else 2

/-- Raisings that may launch now, in the order of R435. -/
def dueRaisings (s : State) : List Slot :=
  ((mvals s.que.slots).filter fun sl => raising sl.d && canLaunch s sl && (covered s sl).isEmpty).mergeSort fun a b =>
    decide (raiseRank a < raiseRank b) || (decide (raiseRank a = raiseRank b) && decide (a.seq ≤ b.seq))

/-- Up to 16 raisings launch. -/
def raiseMatch (s : State) : State := ((dueRaisings s).take 16).foldl (fun s sl => launch s sl.seq) s

end Sys2Proof.Machine
end

