-- ==== Sys2Proof/Machine/Recovery.lean ====
section
/-! DEFINITION. Recovery.lean: lost ports, declaring neighbours dead, fencing, orders of the fault manager and rebuilds
(R469, R474 to R479, R489 to R492, R497 to R500, R537). -/
namespace Sys2Proof.Machine

/-! ## Self-fence (R477) -/

/-- The chip fences itself: HEALTH = 2 goes out on every ACTIVE port, and it answers nothing more. -/
def selfFence (s : State) : State :=
  if s.red.selfFenced then s else
  confine [.regs, .obs, .txq, .home, .lnk, .red] s (
    let s := { s with txq := [] }
    let s := (portNums.filter fun p => portSt s p == psActive).foldl (fun s p => sendHeartbeat s p 2) s
    let mine := (List.range 8).map fun k => own s * 8 + k
    let s := { s with red := { s.red with selfFenced := true }, home := { s.home with dead := mine.foldl insRising s.home.dead } }
    setEvt (ledger s 0x0C01 3 none [own s, 1]) RED_EVT.FENCE)

/-! ## Fencing (R478, R479) -/

/-- What becomes of a queued message when chip `d` is fenced; none: it is discarded (R478, R482). -/
def fenceMsg (s : State) (d : Nat) (m : Msg) : Option Msg :=
  if m.src = d ∨ (m.dst = d ∧ m.dep < 8) then none
  else if m.dst ≠ d then some m
  else match m.vc with
    | .req | .dat =>
      match standIn s d with
      | some c => if fencedChip s c then none else some { m with dst := c }
      | none => none
    | _ => none

/-- An agent's request to a home that nothing serves any more is answered here (R482). -/
def fenceAnswer (s : State) (d : Nat) (m : Msg) : State :=
  if m.dst = d ∧ m.dep = 8 ∧ m.vc = .req ∧ m.src = own s ∧ m.sep < 8 ∧ (fenceMsg s d m).isNone then
    errTo s ({ hdr := m.hdr, chip := m.src, ep := m.sep : CohMsg }.req .rdCur) 0 erLost
  else s

/-- Shootdowns of this chip count chip `d` as having acknowledged (R83). -/
def fenceShoots (s : State) (d : Nat) : State :=
  (s.xlt.shoots.filter fun h => h.src.isNone).foldl (fun s h =>
    if h.waitDrop.contains d || h.waitDrain.contains d then
      let s := modShoot s h.id none fun x => { x with waitDrop := x.waitDrop.filter (· != d), waitDrain := x.waitDrain.filter (· != d) }
      match s.xlt.shoots.find? fun x => x.id == h.id && x.src.isNone with
      | some x =>
        let s := dropPoint s x
        match s.xlt.shoots.find? fun x => x.id == h.id && x.src.isNone with
        | some x => shootDrained s x
        | none => s
      | none => s
    else s) s

/-- Engine reads that still await an answer from chip `d` are sent to the stand-in, or fail (R478, R482). -/
def fenceReads (s : State) (d : Nat) : State :=
  s.eng.reads.foldl (fun s r =>
    if r.held then s
    else
      let t := servedBy s r.sa
      if saChip r.sa ≠ d ∧ t ≠ d then s
      else
        let prv := ((slotOf s r.seq).map fun sl => qPrv s sl.ctx).getD true
        let ten := ((slotOf s r.seq).map fun sl => qTen s sl.ctx).getD 0
        if fencedChip s t then
          failed { s with eng := { s.eng with reads := s.eng.reads.filter (·.tag != r.tag) } }
            { kind := .engRd, who := .slot r.seq, ten := ten, prv := prv, sa := r.sa } stRegionLost 0x0042
        else if t = own s then
          let s := { s with eng := { s.eng with reads := s.eng.reads.filter (·.tag != r.tag) } }
          match redirect s r.sa with
          | .refuse st sub => failed s { kind := .engRd, who := .slot r.seq, ten := ten, prv := prv, sa := r.sa } st sub
          | _ => homeStart s { kind := .engRd, who := .slot r.seq, ten := ten, prv := prv, sa := r.sa }
        else send s (engMsg s 1 t ten r.tag 0 r.len prv (r.sa + r.off) [])) s

/-- Posted writes to chip `d` not yet acknowledged go to the recovery path (R175). -/
def fenceWrites (s : State) (d : Nat) : State :=
  (s.eng.pend.filter fun p => !p.held && p.dst == d).foldl (fun s p => recoverWrite s p.tag) s

/-- PUBLISH descriptors that wait for a region homed on chip `d` end. -/
def fencePublish (s : State) (d : Nat) : State :=
  (mvals s.que.slots).foldl (fun s sl =>
    if opcode sl.d = ocPublish ∧ par sl.d 58 2 % 1024 = d ∧ sl.work = .await sl.seq then finish s sl.seq stRegionLost 0x0042 0 else s) s

/-- Members of a parity group that lie on fenced chips. -/
def lostMembers (s : State) (g : Nat) : Nat :=
  ((List.range 10).filter fun i => fencedChip s ((Config.pgrMember (pgrRec s g) i).1 % 1024)).length

/-- One of this chip's extents after chip `d` is fenced (R484, R489, R490). -/
def fenceExtent (s : State) (d key : Nat) (r : BitVec 128) : State :=
  let t := if key < 2 ^ 18 then 0 else 1
  let e := key % 2 ^ 18
  if !btst r EXT.VALID then s
  else if bget r EXT.RCLASS = 1 then (if bget r EXT.PCHIP = d then degrade s t e 0 else s)
  else if bget r EXT.RCLASS = 2 then
    let g := bget r EXT.GROUP
    if (List.range 10).any fun i => (Config.pgrMember (pgrRec s g) i).1 % 1024 == d then
      if 3 ≤ lostMembers s g then lose s t e else degrade s t e 0
    else s
  else s

/-- A rebuild whose other chip is fenced (Table FLT-4). -/
def fenceRebuild (s : State) (d : Nat) : State :=
  match s.red.rebuild with
  | none => s
  | some (src, dst, isTarget) =>
    let end_ (s : State) : State := setEvt { s with red := { s.red with rebuild := none } } RED_EVT.REBUILD
    if isTarget && saChip src == d then
      report (end_ (lose (ledger s 0x0C02 2 none [src]) (saTier dst) (saExt dst))) 0x07 0 dst 1
    else if !isTarget && saChip dst == d then report (end_ (degrade s (saTier src) (saExt src) 0)) 0x07 0 dst 2
    else s

/-- Chip `d` is fenced (R478). `t`, `from_`: frame time and declaring chip of the FENCE. -/
def fenceChip (s : State) (d t from_ : Nat) : State :=
  if fencedChip s d then s else
  let s := regSet s .RED_FENCED (d / 64) (maskSet (regGet s .RED_FENCED (d / 64)) (d % 64))
  let q := s.txq
  let s := (q.filter fun m => (fenceMsg s d m).isNone).foldl freeBuf s
  let s := q.foldl (fun s m => fenceAnswer s d m) { s with txq := q.filterMap (fenceMsg s d), lnk := { s.lnk with dying := s.lnk.dying.filter (· != d) } }
  let s := fenceShoots s d
  let s := (List.range 8).foldl (fun s k => agentDead s (d * 8 + k)) s
  let s := fencePublish (fenceWrites (fenceReads s d) d) d
  let s := fenceRebuild s d
  let s := s.store.ext.foldl (fun s e => fenceExtent s d e.1 e.2) s
  let s := refreshFence (winFence (embFence s d))
  let s := timeFence s d
  let s := setEvt (ledger s 0x0C01 3 none [d, 1]) RED_EVT.FENCE
  report s 0x03 d t from_

/-- Agent `a` is fenced (R479). -/
def fenceAgent (s : State) (a : Nat) : State :=
  if s.home.dead.contains a then s
  else setEvt (ledger (agentDead s a) 0x0C01 3 none [a, 0]) RED_EVT.FENCE

/-! ## Declaring (R474 to R476) -/

/-- The FENCE of this chip (Table LNK-7). -/
def fenceHdr (s : State) (kind subj : Nat) : BitVec 128 :=
  ctlHdr ctFence [(⟨119, 1⟩, kind), (⟨106, 13⟩, subj), (⟨96, 10⟩, own s), (⟨0, 64⟩, s.tim.now.toNat)]

/-- A death declared: FENCE to every routed chip, then the chip's own fence. -/
def declare_ (s : State) (kind subj : Nat) : State :=
  let s := ((routedChips s).filter (· != own s)).foldl (fun s c => ctlTo s c (fenceHdr s kind subj)) s
  if kind = 1 then fenceChip s subj s.tim.now.toNat (own s) else fenceAgent s subj

/-- A FENCE naming this chip or another, or an agent (R476 to R479). -/
def takeFence (s : State) (kind subj from_ t : Nat) : State :=
  if kind = 0 then fenceAgent s subj
  else if subj = own s then selfFence s
  else fenceChip s subj t from_

/-- Every peer port configured is DOWN (R477). -/
def allPeersDown (s : State) : Bool :=
  let l := portNums.filter (isPeer s)
  !l.isEmpty && l.all fun p => portSt s p == psDown

/-- What a lost port means to its neighbour (R474, R475). -/
def portLost (s : State) (p : Nat) : State :=
  if isEdge s p then
    let a := neighbour s p
    if s.home.dead.contains a then s else declare_ s 0 a
  else
    let y := getF s LNK_STAT.PEER p
    if fencedChip s y || !(portsTo s y).isEmpty then s
    else if bget (portOf s p).hb HB.HEALTH = 2 ∨ own s < y then declare_ s 1 y
    else { s with lnk := { s.lnk with dying := insRising s.lnk.dying y } }

/-- A port enters DOWN (R469). `cause`: 0 heartbeat, 1 HEALTH, 2 tag, 3 retrain. -/
def portDown (s : State) (p cause : Nat) : State :=
  if portSt s p = psDown then s else
  let was := portUp s p
  let s := setPortSt s p psDown
  let s := modPort s p fun x => { x with buf := [], own := [], replay := none, credit := [], owed := [], nak := false, discard := false
                                         hbHeld := false }
  let s := ledger s 0x0B02 2 none [p, neighbour s p]
  let s := if was then portLost s p else s
  let s := if allPeersDown s then selfFence s else s
  let s := setEvt s LNK_EVT.DOWN
  report s 0x01 p (neighbour s p) cause

/-- DEATH_DECLARE_WAIT (R475): the wait for neighbour `y` ends. -/
def execDeathDeclareWait (y : Nat) (s : State) : Host.Outcome State Fault Refusal :=
  answer (workParts ++ [.tim, .lnk]) s (whenLive s fun s =>
    if !s.lnk.dying.contains y then s
    else
      let s := { s with lnk := { s.lnk with dying := s.lnk.dying.filter (· != y) } }
      if fencedChip s y then s else declare_ s 1 y)

/-- FENCE (R478, R479): KIND, subject, declaring chip and frame time as the message carries them. -/
def execFence (kind subj from_ t : Nat) (s : State) : Host.Outcome State Fault Refusal :=
  answer (workParts ++ [.tim, .lnk]) s (whenLive s fun s => if fencedChip s from_ then s else takeFence s kind subj from_ t)

/-! ## Reports and orders (R497 to R500, R537) -/

/-- REPORT_RESEND (R498). -/
def execReportResend (s : State) : Host.Outcome State Fault Refusal :=
  answer [.obs] s (whenFast s fun s =>
    let n := getF s RED_RPTSTAT.UNACK
    let nxt := getF s RED_RPTSTAT.NEXTSEQ
    (List.range n).foldl (fun s i => match mget s.red.reports ((nxt + 2 ^ 32 - n + i) % 256) with
      | some r => sendReport s r
      | none => s) s)

/-- An order reaches the management port (R500, R537): one that fails authentication (`ok` false: signature, target chip,
reserved bytes) or whose OSEQ does not exceed SEC_OSEQ is discarded. -/
def order (s : State) (oseq : Nat) (ok : Bool) (go : State → State) : State :=
  if ok && decide (getF s SEC_OSEQ.OSEQ < oseq) then go (setF s SEC_OSEQ.OSEQ 0 oseq)
  else setEvt (ledger s 0x0D01 1 none [oseq]) SEC_EVT.ORDER

/-- ACK (R500): reports up to and including `sq` are acknowledged. -/
def execAck (oseq : Nat) (ok : Bool) (sq : Nat) (s : State) : Host.Outcome State Fault Refusal :=
  answer [.regs, .obs] s (whenFast s fun s => order s oseq ok fun s =>
    let n := getF s RED_RPTSTAT.UNACK
    let left := (getF s RED_RPTSTAT.NEXTSEQ + 2 ^ 32 - (sq + 1)) % 2 ^ 32
    if left < n then setF s RED_RPTSTAT.UNACK 0 left else s)

/-! ## Rebuild (R492) -/

/-- Quota of an extent's owner on this chip is charged; false where it has none left (R227). -/
def chargeExtent (s : State) (t owner : Nat) : Option State :=
  let (u, l) := if t = 0 then (TEN_QUOTA_NEAR.USED, TEN_QUOTA_NEAR.LIMIT) else (TEN_QUOTA_FAR.USED, TEN_QUOTA_FAR.LIMIT)
  if getF s l owner ≤ getF s u owner then none else some (chargeQ s u owner true)

/-- A refused REBUILD. -/
def rebuildRefused (s : State) (dst : Nat) : State := report (setEvt s RED_EVT.REBUILD) 0x07 0 dst 0

/-- The record of the new partner (Table FLT-3, step 1; of a parity member, its place in the group). -/
def rebuildRec (src : Nat) (r : BitVec 128) : BitVec 128 :=
  let n : BitVec 128 := bset (bset (bset (bset r EXT.VALID 1) EXT.STATE exRebuilding) EXT.SYS (bget r EXT.SYS)) EXT.OWNER (bget r EXT.OWNER)
  if bget r EXT.RCLASS = 1 then
    bset (bset (bset (bset (bset n EXT.RCLASS 1) EXT.ROLE 1) EXT.PCHIP (saChip src)) EXT.PEXT (saExt src)) EXT.PTIER (saTier src)
  else n

/-- REBUILD (R492): `src` and `dst` are extent SA bases, `rec_` the source's record. The target writes the new partner's
record; the source turns its extent to the new partner and copies, after asking the owners of lines it reads: what they give up
is written, and so mirrored (R146, Table FLT-3). -/
def rebuild (s : State) (src dst : Nat) (rec_ : BitVec 128) : State :=
  if s.red.rebuild.isSome then rebuildRefused s dst
  else if saChip dst = own s then
    let (t, f) := (saTier dst, saExt dst)
    if saChip src = own s || 1 < t || !populated s t f || btst (extRec s t f) EXT.VALID then rebuildRefused s dst
    else match (if btst rec_ EXT.SYS then some s else chargeExtent s t (bget rec_ EXT.OWNER)) with
      | none => rebuildRefused s dst
      | some s => { setExt s t f (rebuildRec src rec_) with red := { (setExt s t f (rebuildRec src rec_)).red with rebuild := some (src, dst, true) } }
  else if saChip src = own s then
    let (t, e) := (saTier src, saExt src)
    let r := extRec s t e
    if !btst r EXT.VALID || fencedChip s (saChip dst) then rebuildRefused s dst
    else
      let r' := if bget r EXT.RCLASS = 1 then
          bset (bset (bset (bset r EXT.ROLE 0) EXT.PCHIP (saChip dst)) EXT.PEXT (saExt dst)) EXT.PTIER (saTier dst) else r
      let s := setExt s t e (bset r' EXT.STATE exRebuilding)
      emit (memPull { s with red := { s.red with rebuild := some (src, dst, false) } } src (2 ^ 24)) (.copyExtent src dst)
  else rebuildRefused s dst

/-- REBUILD (R492, R500). -/
def execRebuild (oseq : Nat) (ok : Bool) (src dst : Nat) (rec_ : BitVec 128) (s : State) : Host.Outcome State Fault Refusal :=
  answer workParts s (whenLive s fun s => order s oseq ok fun s => rebuild s src dst rec_)

/-- A reconstructed block of the target extent written to the medium. -/
def putBlock (s : State) (dst k : Nat) (d : BitVec 32768) : State :=
  let blk := saExt dst * 2 ^ 18 + k % 2 ^ 18
  putFar s blk { data := d, key := keyOf s (blkRec s blk) }

/-- REBUILD_COPY_DONE (Table FLT-3, step 4): `blocks` are those that a parity target reconstructed, by number in its extent. -/
def execRebuildCopyDone (blocks : List (Nat × BitVec 32768)) (s : State) : Host.Outcome State Fault Refusal :=
  answer workParts s (whenLive s fun s => match s.red.rebuild with
    | none => s
    | some (src, dst, isTarget) =>
      let x := if isTarget then dst else src
      let s := if isTarget && bget (extRec s (saTier dst) (saExt dst)) EXT.RCLASS == 2 then
          blocks.foldl (fun s b => putBlock s dst b.1 b.2) s else s
      let s := wardCopy (setExtState s (saTier x) (saExt x) exNormal) (saTier x) (saExt x)
      let s := setEvt { s with red := { s.red with rebuild := none } } RED_EVT.REBUILD
      report s 0x06 0 src dst)

/-- REBUILD_STOP (R500, Table FLT-10). -/
def execRebuildStop (oseq : Nat) (ok : Bool) (dst : Nat) (s : State) : Host.Outcome State Fault Refusal :=
  answer workParts s (whenLive s fun s => order s oseq ok fun s => match s.red.rebuild with
    | some (src, d, isTarget) =>
      if d ≠ dst then s
      else
        let s := { s with red := { s.red with rebuild := none } }
        let s := if isTarget then lose s (saTier dst) (saExt dst) else setExtState s (saTier src) (saExt src) exDegraded
        setEvt s RED_EVT.REBUILD
    | none => s)

end Sys2Proof.Machine
end

