-- ==== Sys2Proof/Machine/Counters.lean ====
section
/-! DEFINITION. Counters.lean: dumps, samples and the ledger's own events (chapter "Counters, sampling and the ledger"). -/
namespace Sys2Proof.Machine

/-! ## Rings in host memory or in the store -/

/-- No queue: the context of the chip's own ring writes. -/
def noCtx : Nat := 65536

/-- A ring record written at a host bus address or at an SA. -/
def cntWrite (s : State) (sa : Bool) (addr : Nat) (bs : List Byte) : State :=
  if sa then saWrite s noCtx 0 true 0 (addr % 2 ^ 60) bs else hostWrite s 0 addr bs

/-- PHASE of a ring position: 1 on the first pass, inverted on each wrap. -/
def ringPhase (tail n : Nat) : Nat := (tail / n + 1) % 2

/-! ## Dumps (R593 to R597) -/

/-- Bytes of a dump record (R596). -/
def dumpBytes (s : State) (due : W64) (late now clr : Bool) (phase : Nat) : List Byte :=
  let flag (b : Bool) (k : Nat) : Nat := if b then 2 ^ k else 0
  leBytes 8 (s.obs.dseq + 1) ++ leBytes 8 s.tim.now.toNat ++ leBytes 8 due.toNat ++ leBytes 2 (own s) ++ leBytes 1 (timSt s)
  ++ leBytes 1 (flag late 0 + flag now 1 + flag clr 2 + 128 * phase) ++ List.replicate 36 0
  ++ ((List.range 128).map fun n => leBytes 8 (mgetD 0 s.obs.cval n).toNat).flatten
  ++ ((List.range 16).map fun g => leBytes 8 (regGet s .CNT_GCFG g).toNat).flatten
  ++ ((List.range 128).map fun n => leBytes 2 (getF s CNT_EVSEL.EVENT n)).flatten
  ++ List.replicate 576 0

def dumpSlots (s : State) : Nat := 2 ^ min 12 (getF s CNT_DRING.LOG2N)

/-- A dump: skipped where the ring is full (R597). `due` 0 with `now` for NOW. -/
def dump (s : State) (due : W64) (late now : Bool) : State :=
  let n := dumpSlots s
  let t := getF s CNT_DSTAT.TAIL
  if n ≤ (t + 65536 - getF s CNT_DHEAD.INDEX) % 65536 then setEvt (satF s CNT_DSTAT.SKIPPED 0) CNT_EVT.DSKIP
  else
    let clr := tstF s CNT_DUMPCTL.CLR
    let bs := dumpBytes s due late now clr (ringPhase t n)
    let s := { s with obs := { s.obs with dseq := s.obs.dseq + 1, cval := if clr then [] else s.obs.cval } }
    let s := cntWrite s (tstF s CNT_DRING.LOC) (adrF s CNT_DRING.ADDR + 2048 * (t % n)) bs
    setEvt (setF s CNT_DSTAT.TAIL 0 (t + 1)) CNT_EVT.DUMP

/-- The first due time ahead of frame time after `due`; none where dumps are not periodic. -/
def nextDue (s : State) (due : W64) : Option W64 :=
  let p := getF s CNT_DUMPCTL.PERIOD * 256000
  if p = 0 then none
  else
    let past := (ftDiff s.tim.now due).toNat
    some (due + BitVec.ofNat 64 (p * (past / p + 1)))

/-- The timed dump that is due, if one is (R593 to R595). -/
def timedDump (s : State) : State :=
  match s.obs.ddue with
  | none => s
  | some d =>
    let past := ftDiff s.tim.now d
    if past < 0 then s
    else
      let s := { s with obs := { s.obs with ddue := nextDue s d } }
      dump s d (decide (256000 < past)) false

/-- A write of CNT_DUMPCTL: MODE arms the timed dumps at DTIME; a due time more than 1 µs past is dumped at once (R595). -/
def dumpCtl (s : State) (v : W64) : State :=
  let was := tstF s CNT_DUMPCTL.MODE
  let s := setF (setF (setF s CNT_DUMPCTL.PERIOD 0 (bget v CNT_DUMPCTL.PERIOD.bf)) CNT_DUMPCTL.CLR 0 (bget v CNT_DUMPCTL.CLR.bf))
    CNT_DUMPCTL.MODE 0 (bget v CNT_DUMPCTL.MODE.bf)
  let s := if !tstF s CNT_DUMPCTL.MODE then { s with obs := { s.obs with ddue := none } }
    else if was then s
    else
      let d := regGet s .CNT_DTIME 0
      let s := { s with obs := { s.obs with ddue := some d } }
      if 256000 < ftDiff s.tim.now d then timedDump s else s
  if btst v CNT_DUMPCTL.NOW.bf then dump s 0 false true else s

/-- CNT_DUMP_NOW (R593): a write of CNT_DUMPCTL with NOW = 1. -/
def execCntDumpNow (v : W64) (s : State) : Host.Outcome State Fault Refusal :=
  answer [.regs, .obs, .txq, .store, .eng, .red, .fresh] s (whenFast s fun s => if btst v CNT_DUMPCTL.NOW.bf then dumpCtl s v else s)

/-- TIMED_DUMP (R594). -/
def execTimedDump (s : State) : Host.Outcome State Fault Refusal := answer [.regs, .obs, .txq, .store, .eng, .red, .fresh] s (whenFast s timedDump)

/-- RAISE_MATCH (R435, R594): the dump that is due, then the raisings. -/
def execRaiseMatch (s : State) : Host.Outcome State Fault Refusal := answer coreParts s (whenLive s fun s => raiseMatch (timedDump s))

/-! ## Samples (R592) -/

/-- The oldest buffered sample goes to the ring, where it has room. -/
def sampleWrite (s : State) : State :=
  match s.obs.sbuf with
  | [] => s
  | r :: l =>
    if !sampleRoom s then s
    else
      let n := 2 ^ (min 15 (max 4 (getF s CNT_SRING.LOG2N)))
      let t := getF s CNT_SSTAT.TAIL
      let s := { s with obs := { s.obs with sbuf := l } }
      let s := cntWrite s (tstF s CNT_SRING.LOC) (adrF s CNT_SRING.ADDR + 64 * (t % n)) (bytesOf (bset r SMP.PHASE (ringPhase t n)))
      setEvt (setF s CNT_SSTAT.TAIL 0 (t + 1)) CNT_EVT.SMP

/-- SAMPLE_WRITE (R592). -/
def execSampleWrite (s : State) : Host.Outcome State Fault Refusal := answer [.regs, .obs, .txq, .store, .eng, .red, .fresh] s (whenFast s sampleWrite)

/-! ## The ledger (R598 to R604) -/

/-- The sill domain is powered: the ledger lives there. -/
def whenSill (s : State) (f : State → State) : State := if s.pwr.sill then f s else s

/-- The 64 bytes of a record (Table CNT-5). -/
def ledgerRec (s : State) (r : LRec) : BitVec 512 :=
  let h : BitVec 512 := bset (bset (bset (bset (bset 0 LDGR.FTIME r.time.toNat) LDGR.SEQ s.obs.lseq) LDGR.CODE r.code) LDGR.CHIP (own s)) LDGR.SEV r.sev
  let h := match r.ten with
    | some t => bset (bset h LDGR.TENV 1) LDGR.TENANT t
    | none => h
  (List.range 4).foldl (fun h i => bset h ⟨256 + 64 * i, 64⟩ (r.args.getD i 0)) h

/-- A SUPPRESSED record put in the queue. -/
def suppressed (s : State) (arg n : Nat) : State := ledgerCore s 0x1001 0 none [arg, n]

/-- The next queued record is written to the ring. -/
def ledgerWrite (s : State) : State :=
  match s.obs.lqueue with
  | [] => s
  | r :: l =>
    let w := ledgerRec s r
    let stream := tstF s LDG_STREAM.EN && decide (getF s LDG_STREAM.MINSEV ≤ r.sev)
    let s := { s with obs := { s.obs with
      lqueue := l
      lring := mput s.obs.lring ((s.obs.lseq - 1) % 16384) w
      lseq := s.obs.lseq + 1
      lstream := if stream then s.obs.lstream ++ [w] else s.obs.lstream } }
    let s := if r.sev = 2 then setEvt s LDG_EVT.ERROR else if r.sev = 3 then setEvt s LDG_EVT.FATAL else s
    let n := s.obs.lfull
    if n ≠ 0 ∧ s.obs.lqueue.length < 48 then suppressed { s with obs := { s.obs with lfull := 0 } } 0 n else s

/-- LEDGER_RECORD_WRITE (R601). -/
def execLedgerRecordWrite (s : State) : Host.Outcome State Fault Refusal := answer [.regs, .obs] s (whenSill s ledgerWrite)

/-- LEDGER_WINDOW_END (R602). -/
def execLedgerWindowEnd (s : State) : Host.Outcome State Fault Refusal :=
  answer [.obs] s (whenSill s fun s =>
    let w := s.obs.lwin
    let s := { s with obs := { s.obs with lwin := [] } }
    (w.filter fun e => e.2.2 != 0).foldl (fun s e => suppressed s e.1 e.2.2) s)

/-- Records cut into datagrams of at most 16. -/
def ledgerSend (s : State) (rs : List (BitVec 512)) : State :=
  (List.range (ceilDiv rs.length 16)).foldl (fun s k =>
    emit s (.udp (getF s LDG_STREAM.IPV4) (getF s LDG_STREAM.UDPPORT) (((rs.drop (16 * k)).take 16).map bytesOf).flatten)) s

/-- LEDGER_STREAM_SEND (R604): one datagram. -/
def execLedgerStreamSend (s : State) : Host.Outcome State Fault Refusal :=
  answer [.obs] s (whenSill s fun s =>
    let rs := s.obs.lstream.take 16
    ledgerSend { s with obs := { s.obs with lstream := s.obs.lstream.drop 16 } } rs)

/-- LEDGER_READ (R604): records `first` to `first + count - 1` that the ring still holds. -/
def execLedgerRead (oseq : Nat) (ok : Bool) (first count : Nat) (s : State) : Host.Outcome State Fault Refusal :=
  answer [.regs, .obs] s (whenFast s fun s => order s oseq (ok && decide (1 ≤ count ∧ count ≤ 1024)) fun s =>
    ledgerSend s ((List.range count).filterMap fun i => match mget s.obs.lring ((first + i + 16383) % 16384) with
      | some r => if bget r LDGR.SEQ = first + i then some r else none
      | none => none))

end Sys2Proof.Machine
end

