-- ==== Sys2Proof/Machine/BarMap.lean ====
section
/-! DEFINITION. BarMap.lean: which register an offset of the physical function's BAR0 names (R606, R607), the effect of an
access code on a register (R608), and the settings of a manifest (R530). -/
namespace Sys2Proof.Machine

/-- Index of offset `off` in register `r`. -/
def placeIdx (r : Reg) (off : Nat) : Option Nat :=
  let p := regPlace r
  if off < p.base then none
  else if p.stride = 0 then (if off = p.base then some 0 else none)
  else
    let d := off - p.base
    if d % p.stride = 0 ∧ d / p.stride < p.count then some (d / p.stride) else none

/-- The counters that a tenant window shows: 8 words a tenant. -/
def tenCntIdx (off : Nat) : Option Nat :=
  let d := off - (regPlace .TEN_CNT).base
  if (regPlace .TEN_CNT).base ≤ off ∧ d / 4096 < 512 ∧ d % 4096 < 64 ∧ d % 8 = 0 then some (d / 4096 * 8 + d % 4096 / 8) else none

/-- The register and index at a BAR0 offset; none: reserved. -/
def regAt (off : Nat) : Option (Reg × Nat) :=
  match tenCntIdx off with
  | some i => some (.TEN_CNT, i)
  | none => allRegs.findSome? fun r => (placeIdx r off).map fun i => (r, i)

/-- The BAR0 offset of word `i` of register `r`. -/
def regOff (r : Reg) (i : Nat) : Nat :=
  if r = .TEN_CNT then (regPlace r).base + 4096 * (i / 8) + 8 * (i % 8) else (regPlace r).base + (regPlace r).stride * i

/-- RWL fields are locked (R608). -/
def isSealed (s : State) : Bool := tstF s SEC_BOOT.SEALED

/-- What a write of `v` leaves in field `f` of a register that holds `x` (Table REG-2). -/
def writeFld (locked : Bool) (v : W64) (x : W64) (f : Fld) : W64 :=
  match f.acc with
  | .rw | .rws => bset x f.bf (bget v f.bf)
  | .rwl => if locked then x else bset x f.bf (bget v f.bf)
  | .w1c => if btst v f.bf then bset x f.bf 0 else x
  | .w1s => if btst v f.bf then bset x f.bf 1 else x
  | .ro | .wo => x

/-- A write of `v` to register `r`, word `i`, by the access code of each field (R608, R611); clearing the last bit of PWR_EVT
lets ALERT# rise (R634). -/
def plainWrite (s : State) (r : Reg) (i : Nat) (v : W64) : State :=
  let t := regSet s r i ((fieldsOf r).foldl (writeFld (isSealed s) v) (regGet s r i))
  if r = .PWR_EVT then alertEdge s t else t

/-- The register settings of a manifest: BAR0 offset, value (Table SEC-5). -/
def manifestSettings (m : List Byte) : List (Nat × W64) :=
  (List.range (min 4096 (leNat ((m.drop 400).take 4)))).map fun i =>
    let b := m.drop (408 + 12 * i)
    (leNat (b.take 4), BitVec.ofNat 64 (leNat ((b.drop 4).take 8)))

/-- RWL fields of word `i` of register `r` written from a manifest setting; HOME_DIRCFG.EN is set at store join alone. -/
def rwlWrite (s : State) (r : Reg) (i : Nat) (v : W64) : State :=
  let s := regSet s r i (((fieldsOf r).filter fun f => f.acc == .rwl).foldl (fun x f => bset x f.bf (bget v f.bf)) (regGet s r i))
  if r = .HOME_DIRCFG then setF s HOME_DIRCFG.EN 0 0 else s

/-- Register `r` rewritten from the manifest, zero where it has no setting (R610). -/
def rwlReload (s : State) (r : Reg) : State :=
  ((manifestSettings s.sec.manifest).filter fun e => e.1 == (regPlace r).base).foldl (fun s e => rwlWrite s r 0 e.2) (regSet s r 0 0)

end Sys2Proof.Machine
end

