-- ==== Sys2Proof/Machine/ScrOps.lean ====
section
/-! DEFINITION. ScrOps.lean: cyclic redundancy checks (Table NMO-4, R404, R405, R411) and the POOL scribes that
descriptors hold (R406, R407). -/
namespace Sys2Proof.Machine

/-- A polynomial of Table NMO-4: width, polynomial, initial value, reflected, final XOR. -/
structure Poly where
  w : Nat
  poly : Nat
  init : Nat
  refl : Bool
  xout : Nat
  deriving DecidableEq, Repr

def polyOf (p : Nat) : Poly :=
  match p with
  | 0 => ⟨32, 0x1EDC6F41, 0xFFFFFFFF, true, 0xFFFFFFFF⟩
  | 1 => ⟨64, 0xAD93D23594C93659, 0xFFFFFFFFFFFFFFFF, true, 0xFFFFFFFFFFFFFFFF⟩
  | _ => ⟨16, 0x8BB7, 0x0000, false, 0x0000⟩

/-- The low `w` bits of `x` in the other order. -/
def reflect (w x : Nat) : Nat :=
  (List.range w).foldl (fun a i => if x.testBit i then a + 2 ^ (w - 1 - i) else a) 0

/-- One bit of the register's advance. -/
def crcBit (p : Poly) (r : Nat) : Nat :=
  if p.refl then (if r % 2 = 1 then (r / 2) ^^^ reflect p.w p.poly else r / 2)
  else (if r.testBit (p.w - 1) then (2 * r % 2 ^ p.w) ^^^ p.poly else 2 * r % 2 ^ p.w)

/-- One byte fed: least significant bit first when reflected, most significant first when not (R404). -/
def crcByte (p : Poly) (r : Nat) (b : Byte) : Nat :=
  let r := if p.refl then r ^^^ b.toNat else r ^^^ (b.toNat * 2 ^ (p.w - 8))
  (List.range 8).foldl (fun r _ => crcBit p r) r

def crcFeed (p : Poly) (r : Nat) (bs : List Byte) : Nat := bs.foldl (crcByte p) r

/-- The check value of a register (R411). -/
def crcEnd (p : Poly) (r : Nat) : Nat := r ^^^ p.xout

/-- The register at the start: the initial value, then the 8 bytes of the fold word, if there is one (R405). -/
def crcStart (p : Poly) (fold : Option Nat) : Nat :=
  match fold with
  | none => p.init
  | some f => crcFeed p p.init (leBytes 8 f)

/-- The check value of a byte string. -/
def crcOf (poly : Nat) (fold : Option Nat) (bs : List Byte) : Nat :=
  crcEnd (polyOf poly) (crcFeed (polyOf poly) (crcStart (polyOf poly) fold) bs)

/-- Owners of a scribe (Table NMO-10). -/
def scPool : Nat := 0
def scFirmware : Nat := 1
def scDriver : Nat := 2

/-- POOL scribes not held by a descriptor (SCR_POOL.FREE). -/
def freeScribes (s : State) : List Nat :=
  (List.range 32).filter fun n => getF s SCR_CFG.OWNER n == scPool && (mget s.nmo.held n).isNone

/-- A tenant at its limit takes no further scribe (R407). -/
def scribeRoom (s : State) (sl : Slot) : Bool :=
  !partitioned s || qPrv s sl.ctx ||
    decide ((s.nmo.held.filter fun e => match slotOf s e.2 with
      | some x => !qPrv s x.ctx && qTen s x.ctx == qTen s sl.ctx
      | none => false).length < min 32 (getF s TEN_SCRQ.LIMIT (qTen s sl.ctx)))

/-- The waiting descriptor that launched first among those that may take a scribe. -/
def nextForScribe (s : State) : Option Slot :=
  (s.nmo.waiting.filterMap (slotOf s)).foldl (fun b sl =>
    if !scribeRoom s sl then b else match b with
    | none => some sl
    | some x => if sl.lseq < x.lseq then some sl else some x) none

/-- Scribe `n` taken by a descriptor. -/
def takeScribe (s : State) (n sq : Nat) : State :=
  { s with nmo := { s.nmo with held := mput s.nmo.held n sq, waiting := s.nmo.waiting.filter (· != sq) } }

end Sys2Proof.Machine
end

