-- ==== Sys2Proof/Machine/Cut.lean ====
section
/-! DEFINITION. Cut.lean: cuts (R501 to R507). -/
namespace Sys2Proof.Machine

/-- States of RED_CUTSTAT. -/
def csFreeze : Nat := 1
def csDrain : Nat := 2
def csSealed : Nat := 3
def csAbandoned : Nat := 4

def cutSt (s : State) : Nat := getF s RED_CUTSTAT.STATE

/-- The cut area and the reserve are valid (R501). -/
def cutAreaOk (s : State) : Bool :=
  let n := getF s RED_CUTAREA.PERSLOT
  let f := getF s RED_CUTAREA.FIRST
  let m := getF s RED_CUTCFG.RESCOUNT
  let far (e : Nat) : Bool := let r := extRec s 1 e; populated s 1 e && btst r EXT.VALID && btst r EXT.SYS && bget r EXT.RCLASS == 2
  let near (e : Nat) : Bool := let r := extRec s 0 e; populated s 0 e && btst r EXT.VALID && btst r EXT.SYS
  decide (getF s TIER_NEARCAP.EXTENTS < n) && decide (f + 2 * n ≤ 2 ^ 18) && decide (1 ≤ m ∧ m ≤ 576)
    && (List.range (2 * n)).all (fun i => far (f + i)) && (List.range m).all fun i => near (getF s RED_CUTCFG.RESBASE + i)

/-- CUTID of a descriptor, and its STEPB. -/
def cutId (d : Desc) : Nat := par d 112 8
def cutStep (d : Desc) : Bool := ops0 d 1 1 == 1

/-- Lines that some agent owns, or that the atomic line cache holds: what the freeze recalls. -/
def recallLines (s : State) : List Nat :=
  s.home.dir.filterMap fun e => match e.2.st with
    | .owned _ | .atomicH => some (e.1 * 64)
    | _ => none

/-- Recalls of every O and H line, with SNP_INV and WBREQ = 1 to each owner. -/
def recallAll (s : State) : State :=
  (recallLines s).foldl (fun s sa =>
    homeStart s { kind := .recall, who := .memClass, ten := bget (recOf s sa) EXT.OWNER, prv := true, sa := sa }) s

/-- CUT (R501, R502): the freeze begins. A CUT launched during another's freeze or drain waits. -/
def execCut (sq : Nat) (s : State) : Host.Outcome State Fault Refusal :=
  answer workParts s (whenLive s fun s => begins s ocCut sq fun sl =>
    if s.red.cut.isSome then s
    else if cutId sl.d ≤ getF s RED_CUTSEAL.CUTID then finish s sq stAccess 0x0023 0
    else if !cutAreaOk s then finish s sq stAccess 0x00C2 0
    else
      let slot := match s.red.newest with | some n => 1 - n | none => 0
      let s := modSlot s sq fun x => { x with ph := .running, work := .await sq }
      let s := setF (setF (setF s RED_CUTSTAT.STATE 0 csFreeze) RED_CUTSTAT.SLOT 0 slot) RED_CUTSTAT.HOLDMS 0 0
      recallAll { s with red := { s.red with
        freeze := true
        cut := some { sq := sq, id := cutId sl.d, stepb := cutStep sl.d, slot := slot, t0 := s.tim.now } } })

/-- Near-tier extents whose pages the freeze protects: VALID, outside the reserve. -/
def cutExts (s : State) : List Nat :=
  let b := getF s RED_CUTCFG.RESBASE
  let m := getF s RED_CUTCFG.RESCOUNT
  (s.store.ext.filter fun e => decide (e.1 < 2 ^ 18) && btst e.2 EXT.VALID && !(decide (b ≤ e.1) && decide (e.1 < b + m))).map (·.1)

/-- Staged blocks that it protects: DIRTY, PARTIAL or WRITING pages. -/
def cutBlocks (s : State) : List Nat :=
  ((mvals s.store.pages).filter fun g => [pgDirty, pgPartial, pgWriting].contains (pg g PAGE.STATE)).map pageKey

/-- Milliseconds of a span of frame time, rounded up. -/
def msOf (n : Nat) : Nat := ceilDiv n 256000000

/-- The hold so far, in counts (R505). -/
def cutHeld (s : State) (c : CutRun) : Nat :=
  c.hold + (match c.since with | some t => (s.tim.now - t).toNat | none => 0)

/-- The slot of the cut replaced. -/
def setCutSlot (s : State) (k : Nat) (x : CutSlot) : State := { s with red := { s.red with slots := mput s.red.slots k x } }

/-- The freeze ends: pages are protected, the tier 2 image and the flash mapping taken, launches, credit and writes
released (R502, R504, R507). -/
def freezeEnd (s : State) (c : CutRun) : State :=
  let c := { c with exts := cutExts s, stg := cutBlocks s, frozen := false, hold := (s.tim.now - c.t0).toNat }
  let s := setCutSlot s c.slot
    { id := c.id, ext := s.store.ext, ver := s.store.ver, pgr := s.store.pgr, tally := s.store.tally, far := s.store.far }
  let s := setF { s with red := { s.red with freeze := false, cut := some c } } RED_CUTSTAT.STATE 0 csDrain
  let s := setF s RED_CUTSTAT.HOLDMS 0 (msOf c.hold)
  if c.stepb then s else finish s c.sq stOk 0 c.t0.toNat

/-- CUT_FREEZE_END (R502): once no line is owned or held for atomics. -/
def execCutFreezeEnd (s : State) : Host.Outcome State Fault Refusal :=
  answer workParts s (whenLive s fun s => match s.red.cut with
    | some c => if !c.frozen then s else if (recallLines s).isEmpty then freezeEnd s c else recallAll s
    | none => s)

/-- The next near-tier page to drain: those that the reserve holds first, then the others in offset order. -/
def nextNear (c : CutRun) : Option Nat :=
  match c.held with
  | e :: _ => some e.1
  | [] => match c.exts.find? fun e => decide ((c.gone.filter fun g => g / 2 ^ 18 == e).length < 2 ^ 18) with
    | some e =>
      let mine := c.gone.filter fun g => g / 2 ^ 18 == e
      some (firstGap (e * 2 ^ 18) mine)
    | none => none
where
  /-- The first number from `n` on that a list does not hold. -/
  firstGap (n : Nat) (l : List Nat) : Nat := (((List.range (l.length + 1)).map (n + ·)).find? fun x => !l.contains x).getD n

/-- The bytes of a page's lines, as they are kept. -/
def linesBytes (l : List NearLine) : List Byte := (l.map fun x => bytesOf x.data).flatten

/-- CRC-64 of a page with its SA as fold word (R503). -/
def pageCrc (sa : Nat) (bs : List Byte) : W64 := BitVec.ofNat 64 (crcOf 1 (some sa) bs)

/-- Writes that waited for a page of the reserve are tried again. -/
def reserveRun (s : State) : State :=
  match s.red.cut with
  | none => s
  | some c =>
    if c.waiting.isEmpty || !reserveRoom s then s
    else
      let s := { s with red := { s.red with cut := some { c with waiting := [], since := none, hold := cutHeld s c } } }
      let s := c.waiting.foldl resumeReq s
      match s.red.cut with
      | some c => setF s RED_CUTSTAT.HOLDMS 0 (msOf (cutHeld s c))
      | none => s

/-- A protected page is written to the slot with its index value. -/
def drainPage (s : State) (c : CutRun) : State :=
  let k := mgetD {} s.red.slots c.slot
  match nextNear c with
  | some g =>
    let l := mgetD (nearPage s g) c.held g
    let sa := mkSa (own s) 0 (4096 * g)
    let s := setCutSlot s c.slot { k with near := mput k.near g l, index := mput k.index (sa / 4096) (pageCrc sa (linesBytes l)) }
    { s with red := { s.red with cut := some { c with held := mdel c.held g, gone := insRising c.gone g, bytes := c.bytes + 4096 } } }
  | none =>
    match c.stg.find? fun b => !c.stgGone.contains b with
    | none => s
    | some b =>
      let x := mgetD ((pageOf s b).map (·.2) |>.getD { entry := 0 }) c.stgHeld b
      let sa := mkSa (own s) 1 (4096 * (b % 2 ^ 36))
      let s := setCutSlot s c.slot { k with stg := mput k.stg b x, index := mput k.index (sa / 4096) (pageCrc sa (bytesOf x.data)) }
      { s with red := { s.red with cut := some { c with stgHeld := mdel c.stgHeld b, stgGone := insRising c.stgGone b, bytes := c.bytes + 4096 } } }

/-- The SA of the page that the drain reads next from the store itself; one that the reserve holds is read there. -/
def drainReads (c : CutRun) : Option Nat :=
  match nextNear c with
  | some g => if (mget c.held g).isSome then none else some (4096 * g)
  | none => match c.stg.find? fun b => !c.stgGone.contains b with
    | some b => if (mget c.stgHeld b).isSome then none else some (2 ^ 48 + 4096 * (b % 2 ^ 36))
    | none => none

/-- The drain of a page begins by asking the agents that own lines of it since the freeze (R146); a line that one gives up is
written to memory, so the reserve takes the page first. While an answer is owed the drain waits. -/
def drainNext (s : State) (c : CutRun) : State :=
  match drainReads c with
  | none => drainPage s c
  | some off =>
    let sa := mkSa (own s) (off / 2 ^ 48) (off % 2 ^ 48)
    if c.pull = some off then
      if memBusy s sa 64 then s else drainPage s { c with pull := none }
    else if (ownedIn s sa 64).isEmpty then drainPage s c
    else memPull { s with red := { s.red with cut := some { c with pull := some off } } } sa 64

/-- CUT_PAGE_DRAIN (R503). -/
def execCutPageDrain (s : State) : Host.Outcome State Fault Refusal :=
  answer workParts s (whenLive s fun s => match s.red.cut with
    | some c => if c.frozen then s else drainNext s c
    | none => s)

/-- CUT_RESERVE_PAGE_FREE (R503). -/
def execCutReservePageFree (s : State) : Host.Outcome State Fault Refusal := answer workParts s (whenLive s reserveRun)

/-- The cut is over: its protections go and its waiting writes proceed. -/
def cutRelease (s : State) (c : CutRun) : State :=
  let s := setF { s with red := { s.red with cut := none, freeze := false } } RED_CUTSTAT.HOLDMS 0 (msOf (cutHeld s c))
  c.waiting.foldl resumeReq s

/-- CUT_DRAIN_END (R506, R507): the index and the seal are written. -/
def execCutDrainEnd (s : State) : Host.Outcome State Fault Refusal :=
  answer workParts s (whenLive s fun s => match s.red.cut with
    | none => s
    | some c =>
      if c.frozen || (nextNear c).isSome || c.stg.any (fun b => !c.stgGone.contains b) then s
      else
        let s := setCutSlot s c.slot { mgetD {} s.red.slots c.slot with sealed := true }
        let s := cutRelease { s with red := { s.red with newest := some c.slot } } c
        let s := regSet (setF s RED_CUTSTAT.STATE 0 csSealed) .RED_CUTSEAL 0 (BitVec.ofNat 64 c.id)
        let s := if c.stepb then finish s c.sq stOk 0 c.id else s
        report (setEvt s RED_EVT.CUT) 0x0D 0 c.id c.bytes)

/-- The chip abandons the cut (R505, R507). -/
def cutAbandon (s : State) (c : CutRun) : State :=
  let n := msOf (cutHeld s c)
  let s := setF (cutRelease s c) RED_CUTSTAT.STATE 0 csAbandoned
  let s := setCutSlot s c.slot {}
  let s := if c.stepb || c.frozen then finish s c.sq stTimeout 0x00C3 0 else s
  report (setEvt s RED_EVT.CUT) 0x0E 0 c.id n

/-- CUT_HOLD_LIMIT (R505). -/
def execCutHoldLimit (s : State) : Host.Outcome State Fault Refusal :=
  answer workParts s (whenLive s fun s => match s.red.cut with
    | some c => cutAbandon s c
    | none => s)

end Sys2Proof.Machine
end

