-- ==== Sys2Proof/Machine/Gemm.lean ====
section
/-! DEFINITION. Gemm.lean: SPARSE_GEMM (R236, R243 to R261). -/
namespace Sys2Proof.Machine

/-- One operand row as the grid takes it: values and block scales. -/
structure ARow where
  val : Nat → Num
  scale : Nat → Nat

/-- Row `m` of a row-major operand of `k` columns and `rows` rows. -/
def rowOf (fmt rows k : Nat) (bs : List Byte) (m : Nat) : ARow :=
  { val := fun i => if isInt fmt then elemN fmt (rows * k) bs (m * k + i) else unscaled fmt (rows * k) bs (m * k + i)
    scale := fun i => scaleOf fmt (rows * k) bs (m * k + i) }

def isZero (x : Num) : Bool := match x with | .fin _ 0 _ => true | _ => false

/-- A block sum: exact products added exactly, scaled, rounded once (R243, R244). -/
def blockSum (prods : List (Num × Num)) (sa sw : Nat) : F32 :=
  f32 (scaleN ((sa : Int) + sw - 254) (prods.foldl (fun a p => addN a (mulN p.1 p.2)) (.fin false 0 0)))

/-- The block sums of one column of cells for row `a`: a block is 32 reduction rows. -/
def cellSums (fmt : Nat) (a : ARow) (cells : List (Nat × Nat × Nat)) : List F32 :=
  ((cells.map fun x => x.1 / 32).eraseDups).map fun b =>
    let ws := cells.filter fun x => x.1 / 32 == b
    let sw := ((ws.head?).map fun x => x.2.2).getD 127
    blockSum (ws.map fun x => (a.val x.1, if sw = 0xFF then .nan else decodeF (ffOf fmt) x.2.1)) (a.scale (32 * b)) sw

/-- The integer sum of one column of cells for row `a` (R245). -/
def cellSumI (fa fw k : Nat) (abs : List Byte) (m : Nat) (cells : List (Nat × Nat × Nat)) : Int :=
  (cells.map fun x => elemI fa abs (m * k + x.1) * sgn (fmBits fw) x.2.1).sum

/-- The row is skipped by the physical tile: every element that meets it is ±0 (R252). -/
def rowSkipped (a : ARow) (ts : List (Nat × Nat)) : Bool :=
  ts.all fun t => (List.range 64).all fun i => isZero (a.val (64 * t.1 + i))

/-- Output element (row `a`, column `n`) of a floating-point product with initial value `c0`, its terms added in some order. -/
def dotF (seed : Nat) (w : WMat) (total : Nat) (a : ARow) (n : Nat) (c0 : F32) : F32 :=
  sum32 seed (c0 :: ((physOf w (n / 64)).map fun ts => cellSums w.fmt a (colCells w total ts (n % 64))).flatten)

/-! ## The operator -/

/-- Logical tiles of a SPARSE_GEMM, and how many are stored. -/
def gemmTiles (d : Desc) : Nat := gemmK d / 64 * (gemmN d / 64)
def gemmStored (sl : Slot) : Nat := storedTiles (gemmBmap sl) (gemmTiles sl.d)

/-- The sizes that the set bits require differ from slots 1 or 2 (R257). -/
def gemmSizeBad (sl : Slot) : Bool :=
  let n := gemmStored sl
  let sp := gemmSpar sl.d
  opLen sl.d 1 != weightBytes (opF sl.d 1 OPND.FMT) (n * 64 * colElems sp) (n * 128)
    || opLen sl.d 2 != n * metaBytes sp

/-- C accumulates. -/
def gemmAcc (d : Desc) : Bool := ops0 d 3 1 == 1

/-- The slots whose lines a SPARSE_GEMM reads. -/
def gemmReads (d : Desc) : List Nat := if gemmAcc d then [0, 1, 2, 3, 4] else [0, 1, 2, 3]

/-- The weights of a descriptor as gathered. -/
def gemmW (s : State) (sl : Slot) : WMat :=
  { gemmShape sl with bytes := kernelBytes s sl [4] 1, mdat := kernelBytes s sl [4] 2
                      bmap := if opLen sl.d 3 = 0 then none else some (kernelBytes s sl [4] 3) }

/-- Elements of the stored weights. -/
def gemmTotal (sl : Slot) : Nat := gemmStored sl * 64 * colElems (gemmSpar sl.d)

/-- A physical tile loaded from the gathered weights. -/
def loadTile (s : State) (sl : Slot) (x : Nat × List (Nat × Nat)) : WTile :=
  { sq := sl.seq, nt := x.1, ts := x.2, cols := (List.range 64).map (colCells (gemmW s sl) (gemmTotal sl) x.2) }

/-- The tiles that array `a` is still to run, in order. -/
def tilesLeft (r : GemmRun) (a : Nat) : List (Nat × List (Nat × Nat)) :=
  ((r.parts.filter fun p => p.arr == a).map fun p => (p.ts.drop p.ran).map fun ts => (p.nt, ts)).flatten

/-- The weight registers of array `a` hold the tile of its next pass, the shadow registers the one after (R236). -/
def loadCells (s : State) (sl : Slot) (r : GemmRun) (a : Nat) : State :=
  let l := tilesLeft r a
  setUnit s a { unitOf s a with weight := (l.head?).map (loadTile s sl), shadow := (l[1]?).map (loadTile s sl) }

/-- The tile of a pass in the weight registers of array `a`: the one they hold, or, for the first, the one loaded now. -/
def cellsFor (s : State) (sl : Slot) (a : Nat) (nt : Nat) (ts : List (Nat × Nat)) : WTile :=
  match (unitOf s a).weight with
  | some t => if t.sq = sl.seq ∧ t.nt = nt ∧ t.ts = ts then t else loadTile s sl (nt, ts)
  | none => loadTile s sl (nt, ts)

/-- Rows of row chunk `mt`. -/
def chunkRows (d : Desc) (mt : Nat) : Nat := min 1024 (gemmM d - 1024 * mt)

/-- The accumulators of a part as its first pass finds them (R259): C for the leading part of an accumulating kernel. -/
def accInit (s : State) (sl : Slot) (p : GPart) : List Nat :=
  let d := sl.d
  let c := kernelBytes s sl [0, 1, 2, 3] 4
  let fc := opF d 4 OPND.FMT
  ((List.range (chunkRows d p.mt)).map fun k => (List.range 64).map fun j =>
    if !gemmAcc d || !p.lead then 0
    else
      let i := (1024 * p.mt + k) * gemmN d + 64 * p.nt + j
      if isInt fc then wrapI 32 (elemI fc c i) else f32 (elemN fc (gemmM d * gemmN d) c i)).flatten

/-- Rows of the chunk that the pass skips (R252). -/
def passSkips (s : State) (sl : Slot) (mt : Nat) (ts : List (Nat × Nat)) : List Nat :=
  let d := sl.d
  let a := kernelBytes s sl [4] 0
  if ops0 d 6 1 = 1 then []
  else (List.range (chunkRows d mt)).filter fun k => rowSkipped (rowOf (opF d 0 OPND.FMT) (gemmM d) (gemmK d) a (1024 * mt + k)) ts

/-- The accumulators after a pass of the rows of chunk `mt` through the tile `t`: each block sum is added in FP32, or the
products modulo 2^32, a skipped row adding nothing (R243, R245, R252). -/
def accPass (s : State) (sl : Slot) (mt : Nat) (t : WTile) (skip : List Nat) (acc : List Nat) : List Nat :=
  let d := sl.d
  let fa := opF d 0 OPND.FMT
  let fb := opF d 1 OPND.FMT
  let a := kernelBytes s sl [4] 0
  acc.mapIdx fun i x =>
    let k := i / 64
    let cells := t.cols.getD (i % 64) []
    if skip.contains k then x
    else if isInt fa then wrapI 32 ((x : Int) + cellSumI fa fb (gemmK d) a (1024 * mt + k) cells)
    else (someOrder (s.fresh + i) (cellSums fb (rowOf fa (gemmM d) (gemmK d) a (1024 * mt + k)) cells)).foldl add32 x

/-- The seed of an output tile's random values (R247). -/
def srSeed (d : Desc) (mt nt : Nat) : Nat := (par d 124 4 ^^^ (64 * mt + nt) ^^^ 0x9E3779B9) % 2 ^ 32

/-- An output element as bytes (R246, R247): row and column in its tile. -/
def gemmOut (d : Desc) (mt nt k j : Nat) (x : Nat) : List Byte :=
  let f := opF d 4 OPND.FMT
  if f = fmInt8 then leBytes 1 (wrapI 8 (clampI (-128) 127 (sgn 32 x)))
  else if f = fmInt32 then leBytes 4 x
  else
    let r : Rnd := if ops0 d 4 1 = 1 && isFp8 f then .sr (Config.srBits (srSeed d mt nt) k j) else .rne
    outElem f r (ops0 d 5 1 == 0) (val32 x)

/-- The rows of a finished output tile. -/
def tileOut (d : Desc) (mt nt : Nat) (acc : List Nat) : List (List Byte) :=
  (List.range (chunkRows d mt)).map fun k => ((List.range 64).map fun j => gemmOut d mt nt k j (acc.getD (64 * k + j) 0)).flatten

/-- A finished tile written to C. Granules of a C that overlaps an input are old or new (R258). -/
def tileStore (s : State) (sl : Slot) (mt nt : Nat) (rows : List (List Byte)) : State :=
  let eb := fmBits (opF sl.d 4 OPND.FMT) / 8
  let mixed := [0, 1, 2, 3].any fun i => overlap (extsOf sl i) (extsOf sl 4)
  (rows.zipIdx).foldl (fun s x =>
    let off := ((1024 * mt + x.2) * gemmN sl.d + 64 * nt) * eb
    if mixed then storeMaybe s sl.seq 4 off x.1 else storeBytes s sl.seq 4 off x.1) s

/-- C as the finished tiles make it. -/
def gemmBytes (d : Desc) (outs : AMap (List Byte)) : List Byte :=
  let n := 64 * (fmBits (opF d 4 OPND.FMT) / 8)
  ((List.range (gemmM d)).map fun m => ((List.range (gemmN d / 64)).map fun nt =>
    ((mgetD [] outs (m / 1024 * 2 ^ 16 + nt)).drop (m % 1024 * n)).take n).flatten).flatten

/-- The last tile is finished: the kernel ends (R261). -/
def gemmEnd (s : State) (sl : Slot) (r : GemmRun) (a : Nat) : State :=
  let tiles := gemmTiles sl.d - gemmStored sl
  let s := if tiles = 0 then s else bump s 0x0502 tiles { occOf s sl with mst := some (1, a), cls := none }
  kernelEnd s sl.seq stOk 0 (min r.skips (2 ^ 32 - 1) * 2 ^ 32 + tiles) [(opF sl.d 4 OPND.FMT, gemmBytes sl.d r.outs)]

/-- Partial tiles summed on a plane, in the order in which they arrive (R260). -/
def sumTiles (d : Desc) (x : Option (List Nat)) (y : List Nat) : List Nat :=
  match x with
  | none => y
  | some l => (l.zip y).map fun p => if isInt (opF d 0 OPND.FMT) then (p.1 + p.2) % 2 ^ 32 else add32 p.1 p.2

/-- A part of the plan is over: its sums join those of its output tile, which is written once every part of it is over; the
kernel ends with its last tile. -/
def partEnd (s : State) (sl : Slot) (r : GemmRun) (p : GPart) (a : Nat) (acc : List Nat) : State :=
  let key := p.mt * 2 ^ 16 + p.nt
  let sum := sumTiles sl.d (mget r.sums key) acc
  if r.parts.all fun q => !(q.mt == p.mt && q.nt == p.nt) || q.over then
    let rows := tileOut sl.d p.mt p.nt sum
    let r := { r with sums := mdel r.sums key, outs := mput r.outs key rows.flatten }
    let s := tileStore (modSlot s sl.seq fun x => { x with work := .gemm r }) sl p.mt p.nt rows
    if r.parts.all GPart.over then gemmEnd s sl r a else shareCheck s sl.seq a
  else shareCheck (modSlot s sl.seq fun x => { x with work := .gemm { r with sums := mput r.sums key sum } }) sl.seq a

/-- The end of a pass of `p`, the part numbered `i`, on array `a`: `acc` and `s` are as the pass leaves them. -/
def passDone (s : State) (sl : Slot) (r : GemmRun) (i : Nat) (p : GPart) (a : Nat) (acc : List Nat) : State :=
  let q := { p with ran := p.ran + 1 }
  let r := { r with parts := r.parts.set i q }
  let s := setUnit s a (writeAcc (unitOf s a) acc)
  let s := loadCells (modSlot s sl.seq fun x => { x with work := .gemm r }) sl r a
  if q.over then partEnd s sl r q a acc else shareCheck s sl.seq a

/-- The end of a pass of a SPARSE_GEMM on array `a`, once its operands have come; `count` counts it (R236, R269). -/
def gemmPass (s : State) (sl : Slot) (r : GemmRun) (a : Nat) (count : State → Slot → State) : State :=
  match r.parts.findIdx? fun p => p.arr == a && !p.over with
  | none => s
  | some i =>
    match r.parts[i]? with
    | none => s
    | some p =>
      let s := askAll s sl.seq (gemmReads sl.d)
      match slotOf s sl.seq with
      | none => s
      | some sl =>
        if !haveAll sl (gemmReads sl.d) then s
        else
          let acc := if p.ran = 0 then accInit s sl p else readAcc (unitOf s a) (chunkRows sl.d p.mt)
          match p.ts[p.ran]? with
          | none => passDone (unitUse s a) sl r i p a acc
          | some ts =>
            let t := cellsFor s sl a p.nt ts
            let skip := passSkips s sl p.mt ts
            let acc := accPass s sl p.mt t skip acc
            let s := count { s with fresh := s.fresh + 65536 } sl
            let s := if skip = [] then s else bump s 0x0503 skip.length { occOf s sl with mst := some (1, a), cls := none }
            passDone s sl { r with skips := min (r.skips + skip.length) (2 ^ 32 - 1) } i p a acc

/-- SPARSE_GEMM begins: the bitmap is read first, then the sizes are checked (R257). -/
def gemmStart (s : State) (sq : Nat) : State :=
  begins s ocGemm sq fun sl =>
    let s := askBytes s sq 3 0 (opLen sl.d 3)
    match slotOf s sq with
    | none => s
    | some sl =>
      match hardErr sl with
      | some e => finish s sq e.1 e.2 0
      | none =>
        if !haveBytes sl 3 0 (opLen sl.d 3) then s
        else if gemmSizeBad sl then finish s sq stAccess 0x0050 0
        else kernelStart s sl (if sl.work = .idle then .gemm {} else sl.work)

/-- SPARSE_GEMM (R253 to R261). -/
def execSparseGemm (sq : Nat) (s : State) : Host.Outcome State Fault Refusal := answer workParts s (whenLive s fun s => gemmStart s sq)

end Sys2Proof.Machine
end

