-- ==== Sys2Proof/Machine/Attn.lean ====
section
/-! DEFINITION. Attn.lean: ATTN_DECODE (R293 to R303). -/
namespace Sys2Proof.Machine

/-! ## Parameters -/

def attnSink (d : Desc) : Bool := ops0 d 1 1 == 1

/-- ε: 0 under NO_SKIP, 2^-12 for an EPS of 0 (R294). -/
def attnEps (d : Desc) : Num :=
  if hd d DHDR.NO_SKIP = 1 then .fin false 0 0
  else match val32 (par d 120 4) with
    | .fin _ 0 _ => .fin false 1 (-12)
    | x => x

/-- The seed of the free choices of a descriptor, one family for each of its parts. -/
def descSeed (sl : Slot) (part : Nat) : Nat := 2 ^ 80 + sl.seq * 2 ^ 40 + part

/-- SCALE: 1/√D for 0 (R294). -/
def attnScale (sl : Slot) (dim : Nat) : F32 :=
  let x := par sl.d 116 4
  if x % 2 ^ 31 = 0 then (if dim = 64 then 0x3E000000 else if dim = 256 then 0x3D800000 else rsqrtP (descSeed sl 0) 0 0x43000000) else x

/-! ## Reading the lease -/

/-- Blocks of `n` tokens. -/
def blocksFor (n : Nat) : Nat := ceilDiv n 64

/-- Valid tokens of block `b` of `tokens`. -/
def validIn (tokens b : Nat) : Nat := min 64 (tokens - 64 * b)

/-- The lease of sequence `i`, as its handle was resolved (R284). -/
def seqLease (sl : Slot) (i : Nat) : Nat := sl.seqs.getD i 0

/-- A layer's TOKENS and its block list, as gathered for a descriptor. -/
def mapTokens (s : State) (sl : Slot) (i l : Nat) : Nat := leNat (gatherAt sl (layerSa s i l) 4)
def mapBlock (s : State) (sl : Slot) (i l b : Nat) : Nat := leNat (gatherAt sl (layerSa s i l + 8 + 4 * b) 4)

/-- The map of layer `l` of lease `i` asked: TOKENS, then the slot numbers of its blocks; whether it is all there. -/
def askMap (s : State) (sq i l : Nat) : Bool × State :=
  let a := layerSa s i l
  let s := askAt s sq a 8
  match slotOf s sq with
  | none => (false, s)
  | some sl =>
    if !haveAt sl a 8 then (false, s)
    else
      let n := 4 * blocksFor (mapTokens s sl i l)
      let s := askAt s sq (a + 8) n
      match slotOf s sq with
      | none => (false, s)
      | some sl => (haveAt sl (a + 8) n, s)

/-- The sequences of a descriptor with what their layer maps hold now (R296). -/
def attnSeqs (s : State) (sl : Slot) : List AttnSeq :=
  (List.range (attnNseq sl.d)).map fun k =>
    let i := seqLease sl k
    let n := mapTokens s sl i (attnLayer sl.d)
    { lease := i, tokens := n, blocks := (List.range (blocksFor n)).map (mapBlock s sl i (attnLayer sl.d)) }

/-- The maps of layer `ly` of the leases `l`, asked; whether they have come. -/
def askMaps (s : State) (sq : Nat) (l : List Nat) (ly : Nat) : Bool × State :=
  l.foldl (fun a i => let r := askMap a.2 sq i ly; (a.1 && r.1, r.2)) (true, s)

/-- ATTN_DECODE begins: the layer maps of the leases that its handles named are read, then arrays are taken. -/
def attnStart (s : State) (sq : Nat) : State :=
  begins s ocAttn sq fun sl =>
    if sl.work != .idle then kernelStart s sl sl.work
    else
      match hardErr sl with
      | some e => finish s sq e.1 e.2 0
      | none =>
        let (ok, s) := askMaps s sq sl.leases (attnLayer sl.d)
        match slotOf s sq with
        | none => s
        | some sl =>
          if !ok then s
          else
            let seqs := attnSeqs s sl
            let hkv := lease s (sl.leases.headD 0) LEASE.HKV
            let groups := ((List.range seqs.length).map fun k => (List.range hkv).map fun g =>
              ({ sq := k, grp := g, done := ((seqs[k]?).map (·.tokens)).getD 0 == 0 } : AttnGroup)).flatten
            kernelStart s sl (.attn seqs groups)

/-- ATTN_DECODE (R293 to R301). -/
def execAttnDecode (sq : Nat) (s : State) : Host.Outcome State Fault Refusal := answer workParts s (whenLive s fun s => attnStart s sq)

/-! ## One group -/

/-- What a group's computation needs of its lease. -/
structure AttnGeo where
  seqn : Nat
  grp  : Nat
  dim  : Nat
  hkv  : Nat
  g    : Nat
  hq   : Nat
  kf   : Nat
  ten  : Nat
  tokens : Nat
  blocks : List Nat

def attnGeo (s : State) (sl : Slot) (q : AttnSeq) (gr : AttnGroup) : AttnGeo :=
  { seqn := gr.sq, grp := gr.grp, dim := lsD s q.lease, hkv := lease s q.lease LEASE.HKV
    g := attnHq sl.d / lease s q.lease LEASE.HKV, hq := attnHq sl.d, kf := lease s q.lease LEASE.KFMT
    ten := lease s q.lease LEASE.OWNER, tokens := q.tokens, blocks := q.blocks }

/-- The SA of block `b` of a group's sequence. -/
def blkSa (s : State) (a : AttnGeo) (b : Nat) : Nat := kvSlotSa s a.ten (a.blocks.getD b 0)

def keyBytes (a : AttnGeo) : Nat := fmBits a.kf / 8

/-- Offset and length in slot 0 of the queries of a group. -/
def queryAt (sl : Slot) (a : AttnGeo) : Nat × Nat :=
  let e := fmBits (opF sl.d 0 OPND.FMT) / 8
  ((a.seqn * a.hq + a.grp * a.g) * a.dim * e, a.g * a.dim * e)

/-- The query of the group's head `j` as converted for the grid (R303): element values, their scale bytes. -/
def queryRow (sl : Slot) (a : AttnGeo) (j : Nat) : List Num × List Nat :=
  let f := opF sl.d 0 OPND.FMT
  let (off, n) := queryAt sl a
  let bs := gather sl 0 off n
  let q := (List.range a.dim).map fun i => decodeF (ffOf f) (rawElem f bs (j * a.dim + i))
  if isFp8 a.kf then
    let (cs, scs) := toMx (ffOf a.kf) q
    (cs.mapIdx fun i c => if scs.getD (i / 32) 127 = 0xFF then .nan else decodeF (ffOf a.kf) c, scs)
  else (q.map fun x => decodeF (ffOf a.kf) (encodeF (ffOf a.kf) .rne false x), List.replicate (a.dim / 32) 127)

/-- Its values with their scales. -/
def queryVals (q : List Num × List Nat) : List Num := q.1.mapIdx fun i x => scaleN ((q.2.getD (i / 32) 127 : Int) - 127) x

/-- kmin and kmax of a block for a group, none where a line of the summary is poisoned. -/
def summary (s : State) (sl : Slot) (a : AttnGeo) (b : Nat) : Option (List Num × List Num) :=
  let sa := blkSa s a b + kminOff a.dim a.grp
  let n := 4 * a.dim
  if (cutLines sa n).any fun (l, _, _, _) => ((mget sl.rdata (l / 64)).map (·.2)).getD false then none
  else
    let bs := gatherAt sl sa n
    some ((List.range a.dim).map fun i => decodeF ffBf16 (rawElem fmBf16 bs i),
          (List.range a.dim).map fun i => decodeF ffBf16 (rawElem fmBf16 bs (a.dim + i)))

def absN (x : Num) : Num := match x with | .fin _ m e => .fin false m e | .inf _ => .inf false | .nan => .nan

/-- The larger of two values, NaN if either is. -/
def maxNan (a b : Num) : Num := if isNan a || isNan b then .nan else maxN a b

/-- U(h, b), rounded to FP32 from its exact value; a NaN or infinite one is +∞ (R297). -/
def boundU (scale : F32) (q : List Num) (sm : Option (List Num × List Num)) : Num :=
  match sm with
  | none => .inf false
  | some (lo, hi) =>
    let t := (q.zip (lo.zip hi)).map fun x => (maxNan (mulN x.1 x.2.1) (mulN x.1 x.2.2), mulN (absN x.1) (maxNan (absN x.2.1) (absN x.2.2)))
    let sum (l : List Num) : Num := l.foldl addN (.fin false 0 0)
    let u := mulN (val32 scale) (addN (sum (t.map (·.1))) (scaleN (-16) (sum (t.map (·.2)))))
    match val32 (f32 u) with
    | .fin n m e => .fin n m e
    | _ => .inf false

/-- Bounds of every valid block for every head of the group. -/
def boundsOf (s : State) (sl : Slot) (a : AttnGeo) : List (List Num) :=
  (List.range a.g).map fun j => (List.range (blocksFor a.tokens)).map fun b =>
    boundU (attnScale sl a.dim) (queryVals (queryRow sl a j)) (summary s sl a b)

/-- U(h, b) less the largest of its head: 0 for a largest bound, infinite ones included. -/
def relBound (us : List Num) (b : Nat) : Num :=
  let top := us.foldl maxN (.inf true)
  match us.getD b (.inf true), top with
  | .inf false, _ => .fin false 0 0
  | _, .inf false => .inf true
  | u, t => addN u (negN t)

/-- The order in which a group's blocks are read, and the size of the forced part (R298). -/
def readOrder (sl : Slot) (a : AttnGeo) (us : List (List Num)) : List Nat × Nat :=
  let n := blocksFor a.tokens
  let last := n - 1
  let forced := last :: (if attnSink sl.d && last != 0 then [0] else [])
  let key (b : Nat) : Num := us.foldl (fun m u => maxN m (relBound u b)) (.inf true)
  let rest := ((List.range n).filter fun b => !forced.contains b).mergeSort fun x y =>
    ltN (key y) (key x) || (!ltN (key x) (key y) && decide (x ≤ y))
  (forced ++ rest, forced.length)

/-- The blocks of the next round. -/
def nextRound (sl : Slot) (order : List Nat) (forced : Nat) (done_ : List Nat) : List Nat :=
  if done_.isEmpty then order.take (max (attnRnd sl.d) forced) else (order.drop done_.length).take (attnRnd sl.d)

/-- Places of the key and value rows of a block for a group. -/
def keyPlace (s : State) (a : AttnGeo) (b : Nat) : Nat × Nat :=
  (blkSa s a b + keyOff a.hkv a.dim (keyBytes a) a.grp 0, validIn a.tokens b * a.dim * keyBytes a)
def valPlace (s : State) (a : AttnGeo) (b : Nat) : Nat × Nat :=
  (blkSa s a b + valOff a.hkv a.dim (keyBytes a) a.grp 0, validIn a.tokens b * a.dim * keyBytes a)

/-! ## Scores and sums -/

/-- Running maximum, sum and weighted value sums of one head. -/
structure AttnAcc where
  m : F32
  z : F32
  o : List F32

/-- The score of a token: block sums on the grid, FP32 accumulation, then SCALE (R303). -/
def score (seed : Nat) (scale : F32) (q : List Num × List Nat) (kf : Nat) (ks : List Byte) (t dim : Nat) : F32 :=
  let sums := (List.range (dim / 32)).map fun b =>
    blockSum ((List.range 32).map fun i => (q.1.getD (32 * b + i) .nan, decodeF (ffOf kf) (rawElem kf ks (t * dim + 32 * b + i))))
      (q.2.getD b 127) 127
  mul32 (sum32 seed (0 :: sums)) scale

def max32 (a b : F32) : F32 := f32 (maxN (val32 a) (val32 b))

/-- FP32 fused sums of products, in some order. -/
def fmaSum (seed : Nat) (init : F32) (l : List (F32 × F32)) : F32 :=
  (someOrder seed l).foldl (fun a x => fma32 x.1 x.2 a) init

/-- One round of a head: its tokens' scores, the new maximum, and the sums rescaled to it (R298). -/
def attnRound (s : State) (sl : Slot) (a : AttnGeo) (j r : Nat) (bs : List Nat) (acc : AttnAcc) : AttnAcc :=
  let seed := descSeed sl (1 + 1000 * ((a.seqn * a.hkv + a.grp) * 16 + j) + 16000000 * r)
  let q := queryRow sl a j
  let sc := attnScale sl a.dim
  let rows := (bs.map fun b =>
    let ks := gatherAt sl (keyPlace s a b).1 (keyPlace s a b).2
    let vs := gatherAt sl (valPlace s a b).1 (valPlace s a b).2
    (List.range (validIn a.tokens b)).map fun t =>
      (score (seed + 64 * b + t) sc q a.kf ks t a.dim,
       (List.range a.dim).map fun i => f32 (decodeF (ffOf a.kf) (rawElem a.kf vs (t * a.dim + i))))).flatten
  let m := rows.foldl (fun m x => max32 m x.1) acc.m
  let k := if acc.z = 0 then 0 else expP seed 1 (sub32 acc.m m)
  let ps := rows.mapIdx fun i x => (expP seed (2 + i) (sub32 x.1 m), x.2)
  { m := m
    z := sum32 (seed + 2) (mul32 acc.z k :: ps.map (·.1))
    o := (List.range a.dim).map fun i =>
      fmaSum (seed + 3 + i) (mul32 (acc.o.getD i 0) k) (ps.map fun p => (p.1, p.2.getD i 0)) }

/-- The rounds that a list of blocks read was read in. -/
def chunks {α : Type} (first rest : Nat) : Nat → List α → List (List α)
  | 0, _ => []
  | _, [] => []
  | n + 1, l => l.take first :: chunks rest rest n (l.drop first)

/-- What one array makes of the blocks it took of `rd`, block and array, read in rounds. -/
def attnPart (s : State) (sl : Slot) (a : AttnGeo) (j forced x : Nat) (rd : List (Nat × Nat)) : AttnAcc :=
  let take (bs : List (Nat × Nat)) : List Nat := bs.filterMap fun b => if b.2 = x then some b.1 else none
  ((chunks (max (attnRnd sl.d) forced) (attnRnd sl.d) rd.length rd).foldl
    (fun (acc : AttnAcc × Nat) bs => (if take bs = [] then acc.1 else attnRound s sl a j acc.2 (take bs) acc.1, acc.2 + 1))
    (⟨0xFF800000, 0, List.replicate a.dim 0⟩, 0)).1

/-- Two partial results merged by log-sum-exp on a plane (R302). -/
def attnMerge (seed : Nat) (x y : AttnAcc) : AttnAcc :=
  if x.z = 0 then y else if y.z = 0 then x
  else
    let m := max32 x.m y.m
    let kx := expP seed 0 (sub32 x.m m)
    let ky := expP seed 1 (sub32 y.m m)
    { m := m, z := fma32 x.z kx (mul32 y.z ky), o := (x.o.zip y.o).map fun p => fma32 p.1 kx (mul32 p.2 ky) }

/-- A head after the blocks `rd`: the results of the arrays that took them, merged in the order in which they arrive (R302). -/
def attnHead (s : State) (sl : Slot) (a : AttnGeo) (j forced : Nat) (rd : List (Nat × Nat)) : AttnAcc :=
  let seed := descSeed sl (2 ^ 36 + 1000 * ((a.seqn * a.hkv + a.grp) * 16 + j))
  let parts := (someOrder seed (rd.map (·.2)).eraseDups).map fun x => attnPart s sl a j forced x rd
  match parts with
  | [] => ⟨0xFF800000, 0, List.replicate a.dim 0⟩
  | p :: ps => ps.foldl (attnMerge (seed + ps.length)) p

/-- The stop test of one head (R298). -/
def stopHead (eps : Num) (a : AttnGeo) (us : List Num) (unread : List Nat) (acc : AttnAcc) : Bool :=
  let up (x : Num) : Num := decodeF ffFp32 (encodeF ffFp32 .up false x)
  let term (b : Nat) : Num :=
    up (mulN (.fin false (validIn a.tokens b) 0) (up (exp2Ref (mulN (addN (us.getD b (.inf false)) (negN (val32 acc.m))) log2e))))
  let bsum := unread.foldl (fun t b => addN t (term b)) (.fin false 0 0)
  let one : Num := .fin false 1 0
  let lhs := mulN bsum (addN one (negN eps))
  let rhs := mulN (mulN eps (val32 acc.z)) (addN one (.fin true 1 (-16)))
  !ltN rhs lhs

/-! ## Rounds -/

/-- The lines of a group's query and summaries, and those of the blocks `bs`, asked. -/
def askRound (s : State) (sl : Slot) (a : AttnGeo) (bs : List Nat) : State :=
  let s := askBytes s sl.seq 0 (queryAt sl a).1 (queryAt sl a).2
  let s := (List.range (blocksFor a.tokens)).foldl (fun s b => askAt s sl.seq (blkSa s a b + kminOff a.dim a.grp) (4 * a.dim)) s
  bs.foldl (fun s b =>
    let s := askAt s sl.seq (keyPlace s a b).1 (keyPlace s a b).2
    askAt s sl.seq (valPlace s a b).1 (valPlace s a b).2) s

def haveBounds (s : State) (sl : Slot) (a : AttnGeo) : Bool :=
  haveBytes sl 0 (queryAt sl a).1 (queryAt sl a).2
    && (List.range (blocksFor a.tokens)).all fun b => haveAt sl (blkSa s a b + kminOff a.dim a.grp) (4 * a.dim)

def haveBlocks (s : State) (sl : Slot) (a : AttnGeo) (bs : List Nat) : Bool :=
  bs.all fun b => haveAt sl (keyPlace s a b).1 (keyPlace s a b).2 && haveAt sl (valPlace s a b).1 (valPlace s a b).2

/-- The outputs of one group: O rows and LSE values of its heads (R300). -/
def attnOut (s : State) (sl : Slot) (a : AttnGeo) (rd : List (Nat × Nat)) : List (List Byte × F32) :=
  let f := opF sl.d 2 OPND.FMT
  let forced := (readOrder sl a (boundsOf s sl a)).2
  (List.range a.g).map fun j =>
    if a.tokens = 0 then (List.replicate (a.dim * fmBits f / 8) 0, 0xFF800000)
    else
      let seed := descSeed sl (999 + 1000 * ((a.seqn * a.hkv + a.grp) * 16 + j))
      let acc := attnHead s sl a j forced rd
      (((List.range a.dim).map fun i => outElem f .rne false (val32 (divP seed i (acc.o.getD i 0) acc.z))).flatten,
       add32 acc.m (lnP seed a.dim acc.z))

/-- The groups with their geometry, in order. -/
def groupsOf (s : State) (sl : Slot) (seqs : List AttnSeq) (groups : List AttnGroup) : List (AttnGeo × AttnGroup) :=
  groups.filterMap fun g => (seqs[g.sq]?).map fun q => (attnGeo s sl q g, g)

/-- Every group has ended: outputs, result word, end of the kernel. -/
def attnEnd (s : State) (sl : Slot) (seqs : List AttnSeq) (groups : List AttnGroup) : State :=
  let outs := ((groupsOf s sl seqs groups).map fun x => attnOut s sl x.1 (x.2.read.zip x.2.on)).flatten
  let o := (outs.map (·.1)).flatten
  let l := (outs.map fun x => leBytes 4 x.2).flatten
  let s := storeBytes s sl.seq 2 0 o
  let s := if opLen sl.d 3 = 0 then s else storeBytes s sl.seq 3 0 l
  let rd := (groups.map fun g => g.read.length).sum
  let all_ := (groups.map fun g => blocksFor (((seqs[g.sq]?).map (·.tokens)).getD 0)).sum
  let s := if all_ = rd then s else
    bump s 0x0602 (all_ - rd) { occOf s sl with mst := (arraysOf s sl.seq).head?.map fun a => (1, a), cls := none }
  kernelEnd s sl.seq stOk 0 ((all_ - rd) * 2 ^ 32 + rd)
    ([(opF sl.d 2 OPND.FMT, o)] ++ if opLen sl.d 3 = 0 then [] else [(fmFp32, l)])

/-- The arrays that run group `pair`: one of those held, or all of them where there are fewer groups than arrays (R302). -/
def pairArrays (s : State) (sl : Slot) (n pair : Nat) : List Nat :=
  let l := arraysOf s sl.seq
  if n < l.length then l else [someArray (descSeed sl 0) pair l]

/-- The arrays that take the blocks `bs` of a round. -/
def blockArrays (s : State) (l bs : List Nat) : List Nat := bs.mapIdx fun i _ => someArray s.fresh i l

/-- Every group has ended: the kernel ends; else it goes on, within its tenant's share. -/
def attnGoOn (s : State) (sq a : Nat) (seqs : List AttnSeq) (groups : List AttnGroup) : State :=
  match slotOf s sq with
  | some sl => if groups.all fun g => g.done then attnEnd s sl seqs groups else shareCheck s sq a
  | none => s

/-- A round of group `g`, the `pair`-th, on the arrays `l`: the next blocks are read once their lines have come, then the stop
test (R298). -/
def attnRoundOf (s : State) (sl : Slot) (seqs : List AttnSeq) (groups : List AttnGroup) (pair : Nat) (l : List Nat) (g : AttnGroup)
    (q : AttnSeq) : State :=
  let sq := sl.seq
  let a := attnGeo s sl q g
  let s := askRound s sl a []
  match slotOf s sq with
  | none => s
  | some sl =>
    if !haveBounds s sl a then s
    else
      let us := boundsOf s sl a
      let (order, forced) := readOrder sl a us
      let bs := nextRound sl order forced g.read
      let s := askRound s sl a bs
      match slotOf s sq with
      | none => s
      | some sl =>
        if !haveBlocks s sl a bs then s
        else
          let rd := g.read ++ bs
          let on := g.on ++ blockArrays s l bs
          let s := { s with fresh := s.fresh + 1 }
          let unread := order.drop rd.length
          let eps := attnEps sl.d
          let stop := unread.isEmpty || (!isZero eps && ((List.range a.g).all fun j =>
            stopHead eps a (us.getD j []) unread (attnHead s sl a j forced (rd.zip on))))
          let groups := groups.mapIdx fun k x => if k = pair then { x with read := rd, on := on, done := stop } else x
          let s := bump s 0x0601 bs.length { occOf s sl with mst := some (1, l.headD 0), cls := none }
          attnGoOn (modSlot s sq fun x => { x with work := .attn seqs groups }) sq (l.headD 0) seqs groups

/-- The end of a round of group `pair` (R298, R302): the tile boundary of ATTN_DECODE on the arrays that run it. -/
def attnRoundEnd (s : State) (sq pair : Nat) : State :=
  match slotOf s sq with
  | none => s
  | some sl =>
    if opcode sl.d ≠ ocAttn ∨ sl.ph != .running ∨ (arraysOf s sq).all s.arr.waking.contains ∨ plumbBusy s sq then s
    else match sl.work with
      | .attn seqs groups =>
        let l := pairArrays s sl groups.length pair
        boundaryOn s sl l undefOut fun sl =>
          match hardErr sl with
          | some e => finish (if undefStatus e.1 then undefOut s sl else s) sq e.1 e.2 0
          | none => match groups[pair]? with
            | none => attnGoOn s sq (l.headD 0) seqs groups
            | some g => match g.done, seqs[g.sq]? with
              | true, _ => attnGoOn s sq (l.headD 0) seqs groups
              | false, some q => attnRoundOf s sl seqs groups pair l g q
              | false, none => s
      | _ => s

/-- ATTN_ROUND_END (R298, R302). -/
def execAttnRoundEnd (sq pair : Nat) (s : State) : Host.Outcome State Fault Refusal :=
  answer workParts s (whenLive s fun s => layerTick (attnRoundEnd s sq pair))

end Sys2Proof.Machine
end

