-- ==== Sys2Proof/Machine/Kv.lean ====
section
/-! DEFINITION. Kv.lean: KV_LEASE and KV_APPEND, the life of leases and the pool register (R276, R281 to R292). -/
namespace Sys2Proof.Machine

/-! ## KV_LEASE (Table ATT-2) -/

/-- A launched KV_LEASE with operation `op` begins. -/
def leaseGo (s : State) (op sq : Nat) (go : Slot → State) : State :=
  begins s ocKvLease sq fun sl => if subOp sl.d = op then go sl else s

/-- The lease that a KV_LEASE names, if it is still LIVE or IDLE. -/
def leaseNow (s : State) (sl : Slot) (go : Nat → State) : State :=
  let i := sl.leases.headD 0
  if lease s i LEASE.STATE = lsLive ∨ lease s i LEASE.STATE = lsIdle then go i else finish s sl.seq stAccess 0x0060 0

/-- A FREE lease record, whichever; record 0 is never used. -/
def freeLease (s : State) : Option Nat :=
  let used (i : Nat) : Bool := lease s i LEASE.STATE != lsFree
  let c := 1 + Config.pick s.fresh % 65535
  if !used c then some c
  else (firstFree 65535 fun i => used (i + 1)).map (· + 1)

/-- CREATE's arguments (Table ATT-2). -/
def crMaxblk (d : Desc) : Nat := par d 56 2
def crLayers (d : Desc) : Nat := par d 58 1
def crHkv (d : Desc) : Nat := par d 60 1
def crDim (d : Desc) : Nat := 64 * 2 ^ par d 61 1

/-- Map slots of a CREATE, none where its geometry does not fit (R282). -/
def crMaps (s : State) (t : Nat) (d : Desc) : Option Nat :=
  let lps := layersPerSlot s t (crMaxblk d)
  if kvSlot s t * 4096 < blockBytes (crHkv d) (crDim d) (fmBits (par d 59 1) / 8) then none
  else if lps = 0 then none
  else if 8 < ceilDiv (crLayers d + 1) lps then none
  else some (ceilDiv (crLayers d + 1) lps)

/-- The record of a new lease: its GEN stands, REFS 1, STATE LIVE (R281). -/
def newLease (old : Line) (t : Nat) (d : Desc) (maps : List Nat) : Line :=
  let r : Line := bset (bset (bset (bset 0 LEASE.GEN (bget old LEASE.GEN)) LEASE.STATE lsLive) LEASE.OWNER t) LEASE.REFS 1
  let r := bset (bset (bset (bset r LEASE.HKV (crHkv d)) LEASE.DCODE (par d 61 1)) LEASE.KFMT (par d 59 1)) LEASE.LAYERS (crLayers d)
  let r := bset (bset (bset r LEASE.MAXBLK (crMaxblk d)) LEASE.BLOCKS maps.length) LEASE.EXPIRY (par d 48 8)
  maps.zipIdx.foldl (fun r m => bset r ⟨LEASE.MAP.lo + 32 * m.2, 32⟩ m.1) r

/-- CREATE (R281, R282, R290). -/
def leaseCreate (s : State) (sl : Slot) : State :=
  let d := sl.d
  let t := qTen s sl.ctx
  match crMaps s t d with
  | none => finish s sl.seq stAccess 0x0064 0
  | some n =>
    if kvFree s t < n then finish s sl.seq stQuota 0x0010 0
    else if limitQ s TEN_KVLEASE.LIMIT t 65535 ≤ getF s TEN_KVLEASE.USED t then finish s sl.seq stQuota 0x0012 0
    else match freeLease s with
      | none => finish s sl.seq stQuota 0x0013 0
      | some i =>
        let (maps, s) := kvTake { s with fresh := s.fresh + 1 } t i n
        let s := sysPut s (leaseSa s i) (newLease (leaseRec s i) t d maps)
        let s := setF s TEN_KVLEASE.USED t (getF s TEN_KVLEASE.USED t + 1)
        let s := (List.range (crLayers d + 1)).foldl (fun s l => storeAt s sl.seq (layerSa s i l) (List.replicate 8 0)) s
        finish s sl.seq stOk 0 (lease s i LEASE.GEN * 65536 + i)

/-- KV_LEASE CREATE. -/
def execKvLeaseCreate (sq : Nat) (s : State) : Host.Outcome State Fault Refusal :=
  answer workParts s (whenLive s fun s => leaseGo s 0 sq fun sl => leaseCreate s sl)

/-- KV_LEASE ACQUIRE. -/
def execKvLeaseAcquire (sq : Nat) (s : State) : Host.Outcome State Fault Refusal :=
  answer coreParts s (whenLive s fun s => leaseGo s 1 sq fun sl => leaseNow s sl fun i =>
    let n := lease s i LEASE.REFS
    if n = 65535 then finish s sq stAccess 0x0023 0
    else finish (setLease (setLease s i LEASE.REFS (n + 1)) i LEASE.STATE lsLive) sq stOk 0 (n + 1))

/-- KV_LEASE RELEASE. -/
def execKvLeaseRelease (sq : Nat) (s : State) : Host.Outcome State Fault Refusal :=
  answer coreParts s (whenLive s fun s => leaseGo s 2 sq fun sl => leaseNow s sl fun i =>
    let n := lease s i LEASE.REFS
    if n = 0 then finish s sq stAccess 0x0065 0
    else
      let s := setLease s i LEASE.REFS (n - 1)
      let s := if n = 1 then setLease s i LEASE.STATE (if ops0 sl.d 4 1 = 1 then lsIdle else lsReclaiming) else s
      finish s sq stOk 0 (n - 1))

/-- KV_LEASE RENEW. -/
def execKvLeaseRenew (sq : Nat) (s : State) : Host.Outcome State Fault Refusal :=
  answer coreParts s (whenLive s fun s => leaseGo s 3 sq fun sl => leaseNow s sl fun i =>
    let e := par sl.d 48 8
    if e ≠ 0 ∧ e ≤ s.tim.now.toNat then finish s sq stAccess 0x0023 0
    else finish (setLease s i LEASE.EXPIRY e) sq stOk 0 (lease s i LEASE.REFS))

/-- Layers that a TRUNCATE names. -/
def trLayers (s : State) (d : Desc) (i : Nat) : List Nat :=
  if par d 72 1 = 0xFF then List.range (lease s i LEASE.LAYERS + 1) else [par d 72 1]

/-- Slots of one layer beyond `n` tokens. -/
def trSlots (s : State) (sl : Slot) (i l n : Nat) : List Nat :=
  let old := mapTokens s sl i l
  ((List.range (blocksFor old)).drop (blocksFor (min old n))).map (mapBlock s sl i l)

/-- Descriptors that pin a lease, other than `sq`. -/
def pinners (s : State) (i sq : Nat) : List Nat :=
  ((mvals s.que.slots).filter fun x => x.seq != sq && x.leases.contains i).map (·.seq)

/-- KV_LEASE TRUNCATE: given again while the layer maps are still to come (R292). -/
def leaseTruncate (s : State) (sl : Slot) (i : Nat) : State :=
  let d := sl.d
  let n := par d 68 4
  if par d 72 1 ≠ 0xFF ∧ lease s i LEASE.LAYERS < par d 72 1 then finish s sl.seq stAccess 0x0063 0
  else
    let ls := trLayers s d i
    let (ok, s) := ls.foldl (fun (a : Bool × State) l => let (b, s) := askMap a.2 sl.seq i l; (a.1 && b, s)) (true, s)
    match slotOf s sl.seq with
    | none => s
    | some sl =>
      match hardErr sl with
      | some e => finish s sl.seq e.1 e.2 0
      | none =>
        if !ok then s
        else
          let ks := (ls.map fun l => trSlots s sl i l n).flatten
          let s := ls.foldl (fun s l =>
            if n < mapTokens s sl i l then storeAt s sl.seq (layerSa s i l) (leBytes 4 n) else s) s
          let s := if ks.isEmpty then s else { s with kv := { s.kv with trunc := s.kv.trunc ++ [(i, ks, pinners s i sl.seq)] } }
          finish s sl.seq stOk 0 ks.length

def execKvLeaseTruncate (sq : Nat) (s : State) : Host.Outcome State Fault Refusal :=
  answer workParts s (whenLive s fun s => leaseGo s 4 sq fun sl => leaseNow s sl fun i => leaseTruncate s sl i)

/-! ## The life of leases -/

/-- A TRUNCATE's blocks of lease `i` may go: every descriptor that pinned the lease before it has completed. -/
def truncReady (s : State) (e : Nat × List Nat × List Nat) : Bool :=
  !(e.2.2.any fun q => match slotOf s q with | some sl => sl.leases.contains e.1 | none => false)

/-- TRUNCATE_BLOCK_RELEASE of lease `i` (R292). -/
def truncRelease (s : State) (i : Nat) : State :=
  let go := s.kv.trunc.filter fun e => e.1 == i && truncReady s e
  let ks := (go.map fun e => e.2.1).flatten
  let s := { s with kv := { s.kv with trunc := s.kv.trunc.filter fun e => !(e.1 == i && truncReady s e) } }
  if ks.isEmpty then s
  else setLease (kvGive s (lease s i LEASE.OWNER) ks) i LEASE.BLOCKS (lease s i LEASE.BLOCKS - ks.length)

def execTruncateBlockRelease (i : Nat) (s : State) : Host.Outcome State Fault Refusal := answer [.store, .kv, .red] s (whenLive s fun s => truncRelease s i)

/-- The slots that a lease holds. -/
def leaseSlots (s : State) (i : Nat) : List Nat :=
  let t := lease s i LEASE.OWNER
  (s.kv.slots.filter fun e => e.2 == i && e.1 / 2 ^ 32 == t).map fun e => e.1 % 2 ^ 32

/-- A lease becomes FREE: its slots return, GEN advances, USED falls (R285). -/
def leaseFree (s : State) (i : Nat) : State :=
  let t := lease s i LEASE.OWNER
  let s := kvGive s t (leaseSlots s i)
  let s := { s with kv := { s.kv with trunc := s.kv.trunc.filter fun e => e.1 != i } }
  let s := setLease (setLease (setLease s i LEASE.BLOCKS 0) i LEASE.GEN (lease s i LEASE.GEN + 1)) i LEASE.STATE lsFree
  setF s TEN_KVLEASE.USED t (getF s TEN_KVLEASE.USED t - 1)

/-- LEASE_RECLAIM (R285). -/
def execLeaseReclaim (i : Nat) (s : State) : Host.Outcome State Fault Refusal :=
  answer [.regs, .obs, .store, .kv, .red] s (whenLive s fun s =>
    if tstF s ARR_KVLTAB.EN && i != 0 && decide (i < 65536) && lease s i LEASE.STATE == lsReclaiming && lease s i LEASE.PINS == 0 then leaseFree s i else s)

/-- A tenant told of `n` leases reclaimed by a scan (R283). -/
def expiryNote (s : State) (t n : Nat) : State :=
  let s := setF (satF s TEN_KVEVT.EXPIRED t n) TEN_KVEVT.PEND t 1
  msix s (tenFn s t) (getF s TEN_KVEVT.VEC t)

/-- LEASE_EXPIRY_SCAN (R283). -/
def expiryScan (s : State) : State :=
  let gone := (leasesUsed s).filter fun i =>
    (lease s i LEASE.STATE == lsLive || lease s i LEASE.STATE == lsIdle) && leaseExpired s i
  let ts := (gone.map fun i => lease s i LEASE.OWNER).eraseDups
  let s' := gone.foldl leaseExpire s
  ts.foldl (fun s' t => expiryNote s' t (gone.filter fun i => lease s i LEASE.OWNER == t).length) s'

def execLeaseExpiryScan (s : State) : Host.Outcome State Fault Refusal := answer [.regs, .obs, .store, .red] s (whenLive s expiryScan)

/-! ## The pool register (R276) -/

/-- Every pool extent of a TEN_KVPOOL value may hold the tenant's pool. -/
def poolOk (s : State) (t : Nat) (v : W64) : Bool :=
  let n := bget v TEN_KVPOOL.COUNT.bf
  let tier := bget v TEN_KVPOOL.TIER.bf
  let first := bget v TEN_KVPOOL.FIRST.bf
  n != 0 && bget v TEN_KVPOOL.SLOT.bf != 0 && decide (bget v TEN_KVPOOL.SLOT.bf ≤ 1024)
    && (List.range n).all fun k =>
      let r := extRec s tier (first + k)
      btst r EXT.VALID && !btst r EXT.SYS && bget r EXT.ATTR == 1 && bget r EXT.OWNER == t
        && !(bget r EXT.RCLASS == 1 && bget r EXT.ROLE == 1)

/-- Some lease of the tenant is not FREE. -/
def hasLease (s : State) (t : Nat) : Bool := (leasesUsed s).any fun i => lease s i LEASE.OWNER == t

/-- A write of TEN_KVPOOL. -/
def kvPoolWrite (s : State) (t : Nat) (v : W64) : State :=
  let v := v &&& ~~~ (BitVec.ofNat 64 0x1FFFF)
  let en := bget v TEN_KVPOOL.EN.bf
  let off := (regPlace .TEN_KVPOOL).base
  if tstF s TEN_KVPOOL.EN t then
    if en = 1 then s
    else if hasLease s t then ledgerFF s 6 off (some t)
    else regSet s .TEN_KVPOOL t v
  else if en = 0 || poolOk s t v then regSet s .TEN_KVPOOL t v
  else ledgerFF (regSet s .TEN_KVPOOL t (bset v TEN_KVPOOL.EN.bf 0)) 6 off (some t)

/-- KV_POOL_ENABLE (R276). -/
def execKvPoolEnable (ten : Nat) (v : W64) (s : State) : Host.Outcome State Fault Refusal :=
  answer [.regs, .obs] s (whenFast s fun s => if ten < 512 then kvPoolWrite s ten v else s)

/-! ## KV_APPEND -/

def appLayer (d : Desc) : Nat := par d 116 1

/-- Tokens appended. -/
def appTok (s : State) (sl : Slot) : Nat :=
  let i := sl.leases.headD 0
  opLen sl.d 0 / (fmBits (opF sl.d 0 OPND.FMT) / 8 * lease s i LEASE.HKV * lsD s i)

/-- An earlier KV_APPEND of the same lease and layer has not completed (R291). -/
def appBlocked (s : State) (sl : Slot) : Bool :=
  (mvals s.que.slots).any fun x => opcode x.d == ocKvAppend && decide (x.lseq < sl.lseq) && x.seq != sl.seq
    && (x.ph == .launched || x.ph == .running || x.ph == .finishing)
    && x.leases == sl.leases && appLayer x.d == appLayer sl.d

/-- KV_APPEND begins: TOKENS is read and the slots it needs are taken (R289, R290). -/
def appendStart (s : State) (sq : Nat) : State :=
  begins s ocKvAppend sq fun sl =>
    if sl.work != .idle then kernelStart s sl sl.work
    else if appBlocked s sl then s
    else
      let i := sl.leases.headD 0
      let t := qTen s sl.ctx
      let (ok, s) := askMap s sq i (appLayer sl.d)
      match slotOf s sq with
      | none => s
      | some sl =>
        match sl.err with
        | some e => finish s sq e.1 e.2 0
        | none =>
          if !ok then s
          else
            let old := mapTokens s sl i (appLayer sl.d)
            let n := blocksFor (old + appTok s sl) - blocksFor old
            if lease s i LEASE.MAXBLK < blocksFor (old + appTok s sl) then finish s sq stQuota 0x0011 0
            else if kvFree s t < n then finish s sq stQuota 0x0010 0
            else
              let (ks, s) := kvTake s t i n
              kernelStart s sl (.append old ks 0)

/-- KV_APPEND (R289 to R291). -/
def execKvAppend (sq : Nat) (s : State) : Host.Outcome State Fault Refusal := answer workParts s (whenLive s fun s => appendStart s sq)

/-- The pool slot of block `b`, old or taken by this append. -/
def appSlot (s : State) (sl : Slot) (old : Nat) (taken : List Nat) (b : Nat) : Nat :=
  if b < blocksFor old then mapBlock s sl (sl.leases.headD 0) (appLayer sl.d) b else taken.getD (b - blocksFor old) 0

/-- Element `e` of slot `k` of a KV_APPEND in the lease's format (R246). -/
def appElem (kf f : Nat) (bs : List Byte) (e : Nat) : Nat :=
  if f = kf then rawElem f bs e
  else encodeF (ffOf kf) .rne (isFp8 kf || kf == fmFp16) (decodeF (ffOf f) (rawElem f bs e))

/-- The row of token `t`, head `h`, in the lease's format. -/
def appRow (kf f hkv dim : Nat) (bs : List Byte) (t h : Nat) : List Byte :=
  ((List.range dim).map fun d => leBytes (fmBits kf / 8) (appElem kf f bs ((t * hkv + h) * dim + d))).flatten

/-- A summary's kmin and kmax bytes widened by the keys of one dimension each (R287); `old`: none where the slot is new. -/
def widen (old : Option (Num × Num)) (ks : List Num) : Nat × Nat :=
  let bad := ks.any fun x => match x with | .fin _ _ _ => false | _ => true
  if bad then (0xFF80, 0x7F80)
  else
    let lo := (match old with | some o => o.1 :: ks | none => ks).foldl minN (.inf false)
    let hi := (match old with | some o => o.2 :: ks | none => ks).foldl maxN (.inf true)
    (encodeF ffBf16 .down false lo, encodeF ffBf16 .up false hi)

/-- Where the rows, summaries and map entries of a KV_APPEND go, with their bytes, in the order of R291. -/
def appWrites (s : State) (sl : Slot) (old : Nat) (taken : List Nat) : List (Nat × List Byte) :=
  let i := sl.leases.headD 0
  let t := qTen s sl.ctx
  let dim := lsD s i
  let hkv := lease s i LEASE.HKV
  let kf := lease s i LEASE.KFMT
  let e := fmBits kf / 8
  let f := opF sl.d 0 OPND.FMT
  let kb := gather sl 0 0 (opLen sl.d 0)
  let vb := gather sl 1 0 (opLen sl.d 1)
  let n := appTok s sl
  let sa (b : Nat) : Nat := kvSlotSa s t (appSlot s sl old taken b)
  let rows := ((List.range n).map fun k => ((List.range hkv).map fun h =>
    let p := old + k
    [(sa (p / 64) + keyOff hkv dim e h (p % 64), appRow kf f hkv dim kb k h),
     (sa (p / 64) + valOff hkv dim e h (p % 64), appRow kf f hkv dim vb k h)]).flatten).flatten
  let bs := (List.range (blocksFor (old + n))).drop (old / 64)
  let sums := (bs.map fun b => (List.range hkv).map fun h =>
    let toks := (List.range n).filter fun k => (old + k) / 64 == b
    let was := gatherAt sl (sa b + kminOff dim h) (4 * dim)
    let prev (d : Nat) : Option (Num × Num) :=
      if b < blocksFor old then some (decodeF ffBf16 (rawElem fmBf16 was d), decodeF ffBf16 (rawElem fmBf16 was (dim + d))) else none
    let mm := (List.range dim).map fun d => widen (prev d) (toks.map fun k => decodeF (ffOf kf) (appElem kf f kb ((k * hkv + h) * dim + d)))
    (sa b + kminOff dim h, (mm.map fun x => leBytes 2 x.1).flatten ++ (mm.map fun x => leBytes 2 x.2).flatten)).flatten
  let maps := taken.mapIdx fun j k => (layerSa s i (appLayer sl.d) + 8 + 4 * (blocksFor old + j), leBytes 4 k)
  rows ++ sums ++ maps

/-- The lines that a KV_APPEND reads: its operands, and the summaries of the tail block that it widens. -/
def appAsk (s : State) (sl : Slot) (old : Nat) (taken : List Nat) : Bool × State :=
  let i := sl.leases.headD 0
  let s := askAll s sl.seq [0, 1]
  let tail := if old % 64 = 0 then [] else (List.range (lease s i LEASE.HKV)).map fun h =>
    kvSlotSa s (qTen s sl.ctx) (appSlot s sl old taken (old / 64)) + kminOff (lsD s i) h
  let s := tail.foldl (fun s a => askAt s sl.seq a (4 * lsD s i)) s
  match slotOf s sl.seq with
  | none => (false, s)
  | some sl => (haveAll sl [0, 1] && tail.all fun a => haveAt sl a (4 * lsD s i), s)

/-- A pass of a KV_APPEND ends: first its rows, summaries and map entries are written, unless a line it read was poisoned, whose
keys no summary would bound (R287); once all of them are performed TOKENS is (R291). -/
def appendPass (s : State) (sl : Slot) : State :=
  match sl.work with
  | .append old taken wrote =>
    if wrote = 0 then
      let (ok, s) := appAsk s sl old taken
      match slotOf s sl.seq with
      | none => s
      | some sl =>
        if !ok then s
        else match sl.err with
          | some e => finish s sl.seq e.1 e.2 0
          | none =>
            let s := (appWrites s sl old taken).foldl (fun s w => storeAt s sl.seq w.1 w.2) s
            modSlot s sl.seq fun x => { x with work := .append old taken 1 }
    else if sl.owed ≠ 0 then s
    else match sl.err with
      | some e => finish s sl.seq e.1 e.2 0
      | none =>
        let i := sl.leases.headD 0
        let n := old + appTok s sl
        if s.arr.chosen.contains sl.seq then kernelEnd s sl.seq stOk 0 n [(opF sl.d 0 OPND.FMT, gather sl 0 0 (opLen sl.d 0))]
        else
          let s := modSlot s sl.seq fun x => { x with work := .append old taken 2 }
          kernelEnd (storeAt s sl.seq (layerSa s i (appLayer sl.d)) (leBytes 4 n)) sl.seq stOk 0 n []
  | _ => s

end Sys2Proof.Machine
end

