-- ==== Sys2Proof/Machine/Scribe.lean ====
section
/-! DEFINITION. Scribe.lean: scribes fed by registers (R408 to R411, R643). The writes of a scribe are applied as they
arrive, so its input buffer is always empty and SCR_STAT.BUSY reads 0 (R409). -/
namespace Sys2Proof.Machine

/-- The writer may reach scribe `n` (R406): firmware a FIRMWARE scribe, the physical function a DRIVER scribe. -/
def scrMine (s : State) (fw : Bool) (n : Nat) : Bool :=
  n < 32 && getF s SCR_CFG.OWNER n == (if fw then scFirmware else scDriver)

/-- A write that the scribe ignores, with its record (R643). -/
def scrIgnored (s : State) (r : Reg) (n : Nat) : State := ledgerFF s 9 ((regPlace r).base + (regPlace r).stride * n)

/-- POLY of the running computation. -/
def scrRunPoly (s : State) (n : Nat) : Poly := polyOf (bget (mgetD 0 s.nmo.cfg n) SCR_CFG.POLY.bf)

/-- One write of SCR_CTL whose one bit is START, FINISH or ABORT. -/
def scrStart (s : State) (n : Nat) : State :=
  let cfg := regGet s .SCR_CFG n
  let poly := bget cfg SCR_CFG.POLY.bf
  let fold := bget cfg SCR_CFG.FOLDSEL.bf
  if poly = 3 ∨ fold ≥ 2 then scrIgnored s .SCR_CTL n
  else
    let r := crcStart (polyOf poly) (if fold = 1 then some (getF s SCR_FOLD.FOLD n) else none)
    let s := setF (setF s SCR_VAL.VAL n r) SCR_CNT.COUNT n 0
    setF { s with nmo := { s.nmo with cfg := mput s.nmo.cfg n cfg } } SCR_STAT.ACTIVE n 1

def scrFinish (s : State) (n : Nat) : State :=
  if !tstF s SCR_STAT.ACTIVE n then scrIgnored s .SCR_CTL n
  else
    let v := crcEnd (scrRunPoly s n) (getF s SCR_VAL.VAL n)
    let s := setF (setF (setF s SCR_RES.RES n v) SCR_STAT.ACTIVE n 0) SCR_STAT.DONE n 1
    if btst (mgetD 0 s.nmo.cfg n) SCR_CFG.EXPEN.bf && v != getF s SCR_EXP.EXP n then
      ledger (setEvt (setF s SCR_STAT.MISMATCH n 1) SCR_EVT.REGMIS) 0x0901 2 none [getF s SCR_EXP.EXP n, v, n]
    else s

def scrAbort (s : State) (n : Nat) : State :=
  if !tstF s SCR_STAT.ACTIVE n then scrIgnored s .SCR_CTL n else setF s SCR_STAT.ACTIVE n 0

/-- A write of SCR_CTL: with more than one of START, FINISH and ABORT it is ignored. -/
def scrCtl (s : State) (n : Nat) (v : W64) : State :=
  match bget v ⟨0, 3⟩ with
  | 0 => s
  | 1 => scrStart s n
  | 2 => scrFinish s n
  | 4 => scrAbort s n
  | _ => scrIgnored s .SCR_CTL n

/-- `k` data bytes, low byte first. -/
def scrFeed (s : State) (n k : Nat) (v : W64) : State :=
  if !tstF s SCR_STAT.ACTIVE n then scrIgnored s (if k = 1 then .SCR_DATA8 else if k = 2 then .SCR_DATA16 else .SCR_DATA32) n
  else
    let r := crcFeed (scrRunPoly s n) (getF s SCR_VAL.VAL n) (leBytes k v.toNat)
    setF (setF s SCR_VAL.VAL n r) SCR_CNT.COUNT n (getF s SCR_CNT.COUNT n + k)

/-- SCR_VAL written: the register replaced whole, bits above its width ignored. -/
def scrVal (s : State) (n : Nat) (v : W64) : State :=
  if tstF s SCR_STAT.ACTIVE n then setF s SCR_VAL.VAL n (v.toNat % 2 ^ (scrRunPoly s n).w) else s

def scrCnt (s : State) (n : Nat) (v : W64) : State :=
  if tstF s SCR_STAT.ACTIVE n then setF s SCR_CNT.COUNT n v.toNat else s

/-- SCR_CFG written: POLY, FOLDSEL and EXPEN; OWNER is firmware's and locked once the settings are sealed (RWL). -/
def scrCfg (s : State) (fw : Bool) (n : Nat) (v : W64) : State :=
  let s := setF (setF (setF s SCR_CFG.POLY n (bget v SCR_CFG.POLY.bf)) SCR_CFG.FOLDSEL n (bget v SCR_CFG.FOLDSEL.bf))
    SCR_CFG.EXPEN n (bget v SCR_CFG.EXPEN.bf)
  if fw && !tstF s SEC_BOOT.SEALED then setF s SCR_CFG.OWNER n (bget v SCR_CFG.OWNER.bf) else s

def scrStat (s : State) (n : Nat) (v : W64) : State :=
  let s := if maskBit v 0 then setF s SCR_STAT.DONE n 0 else s
  if maskBit v 1 then setF s SCR_STAT.MISMATCH n 0 else s

/-- A register write to scribe `n` by a writer that may reach it. -/
def scrWrite (s : State) (fw : Bool) (n : Nat) (f : State → State) : State :=
  whenLive s fun s => if scrMine s fw n then f s else s

/-- SCR_START (R405, R408, R643). -/
def execScrStart (fw : Bool) (n : Nat) (v : W64) (s : State) : Host.Outcome State Fault Refusal :=
  answer [.regs, .obs, .nmo] s (scrWrite s fw n fun s => scrCtl s n (v ||| 1))

/-- SCR_FINISH (R410). -/
def execScrFinish (fw : Bool) (n : Nat) (v : W64) (s : State) : Host.Outcome State Fault Refusal :=
  answer [.regs, .obs, .nmo] s (scrWrite s fw n fun s => scrCtl s n (v ||| 2))

/-- SCR_ABORT (R411, Table NMO-5 step 5). -/
def execScrAbort (fw : Bool) (n : Nat) (v : W64) (s : State) : Host.Outcome State Fault Refusal :=
  answer [.regs, .obs, .nmo] s (scrWrite s fw n fun s => scrCtl s n (v ||| 4))

/-- SCR_DATA8 (R408). -/
def execScrData8 (fw : Bool) (n : Nat) (v : W64) (s : State) : Host.Outcome State Fault Refusal :=
  answer [.regs, .obs] s (scrWrite s fw n fun s => scrFeed s n 1 v)

/-- SCR_DATA16 (R408). -/
def execScrData16 (fw : Bool) (n : Nat) (v : W64) (s : State) : Host.Outcome State Fault Refusal :=
  answer [.regs, .obs] s (scrWrite s fw n fun s => scrFeed s n 2 v)

/-- SCR_DATA32 (R408). -/
def execScrData32 (fw : Bool) (n : Nat) (v : W64) (s : State) : Host.Outcome State Fault Refusal :=
  answer [.regs, .obs] s (scrWrite s fw n fun s => scrFeed s n 4 v)

/-- SCR_VAL_WRITE (R411). -/
def execScrValWrite (fw : Bool) (n : Nat) (v : W64) (s : State) : Host.Outcome State Fault Refusal :=
  answer [.regs, .obs] s (scrWrite s fw n fun s => scrVal s n v)

/-- SCR_CNT_WRITE (R411). -/
def execScrCntWrite (fw : Bool) (n : Nat) (v : W64) (s : State) : Host.Outcome State Fault Refusal :=
  answer [.regs, .obs] s (scrWrite s fw n fun s => scrCnt s n v)

/-- SCR_CFG_WRITE (R408, Table NMO-5 step 3). -/
def execScrCfgWrite (fw : Bool) (n : Nat) (v : W64) (s : State) : Host.Outcome State Fault Refusal :=
  answer [.regs, .obs] s (whenLive s fun s => if scrMine s fw n || (fw && n < 32) then scrCfg s fw n v else s)

/-- SCR_FOLD_WRITE (R408). -/
def execScrFoldWrite (fw : Bool) (n : Nat) (v : W64) (s : State) : Host.Outcome State Fault Refusal :=
  answer [.regs, .obs] s (scrWrite s fw n fun s => setF s SCR_FOLD.FOLD n v.toNat)

/-- SCR_EXP_WRITE (R408). -/
def execScrExpWrite (fw : Bool) (n : Nat) (v : W64) (s : State) : Host.Outcome State Fault Refusal :=
  answer [.regs, .obs] s (scrWrite s fw n fun s => setF s SCR_EXP.EXP n v.toNat)

/-- SCR_STAT_CLEAR (R408): DONE and MISMATCH are cleared by writing 1. -/
def execScrStatClear (fw : Bool) (n : Nat) (v : W64) (s : State) : Host.Outcome State Fault Refusal :=
  answer [.regs, .obs] s (scrWrite s fw n fun s => scrStat s n v)

end Sys2Proof.Machine
end

