-- ==== Sys2Proof/Machine/Reset.lean ====
section
/-! DEFINITION. Reset.lean: what each kind of reset clears (Table HST-3, R576 to R578, R614 and the reset clauses of every
chapter). -/
namespace Sys2Proof.Machine

/-! ## Registers (R614) -/

/-- The register of a key of the register file. -/
def regOfKey (key : Nat) : Option Reg := allRegs[key / 65536]?

/-- What register `r`, holding `v`, holds after a reset of kind `k` that clears it. -/
def clearedTo (k : ResetKind) (r : Reg) (v : W64) : W64 :=
  match r with
  | .PWR_EVT => if k = .sill then regReset r else bset (regReset r) PWR_EVT.THERMTRIP.bf (bget v PWR_EVT.THERMTRIP.bf)
  | .TEN_QUOTA_NEAR | .TEN_QUOTA_FAR | .TEN_QUOTA_STG =>
    if k = .pf then bset 0 TEN_QUOTA_NEAR.USED.bf (bget v TEN_QUOTA_NEAR.USED.bf) else regReset r
  | _ => regReset r

/-- One entry of a register map after a reset of kind `k`. -/
def clearEntry (k : ResetKind) (r : Option Reg) (e : Nat × W64) : Option (Nat × W64) :=
  match r with
  | some r =>
    if (clearedBy r).contains k then
      let v := clearedTo k r e.2
      if v = regReset r then none else some (e.1, v)
    else some e
  | none => some e

/-- The registers that a reset of kind `k` clears. -/
def clearRegs (s : State) (k : ResetKind) : State :=
  alertEdge s { s with
    regs := s.regs.filterMap fun e => clearEntry k (regOfKey e.1) e
    obs := { s.obs with evt := s.obs.evt.filterMap fun e => clearEntry k allRegs[e.1]? e } }

/-- Counters, sampler and dumps stop and are cleared (R605). -/
def clearCounters (o : Obs) : Obs := { o with cval := [], countdown := 0, ddue := none, sbuf := [], sdropped := 0 }

/-- The first record after a reset (R601). -/
def resetRecord (s : State) (cause : Nat) : State := ledger s 0x0001 0 none [cause]

/-! ## Cold and warm reset -/

/-- Every fast domain stops and loses what it holds; flash, its durable records, boot flash and the sill domain keep theirs. -/
def fastClear (s : State) : State :=
  { s with
    obs := { clearCounters s.obs with dseq := 0 }
    txq := []
    store := { far := s.store.far
               retiredPc := s.store.failedPc.foldl insRising s.store.retiredPc
               sledRetired := s.store.sledRetired
               sledFailCh := s.store.sledFailCh
               sledExtents := s.store.sledExtents }
    home := {}
    xlt := {}
    que := { nextSeq := s.que.nextSeq, nextLaunch := s.que.nextLaunch, nextHtag := s.que.nextHtag }
    eng := {}
    arr := {}
    kv := {}
    nmo := {}
    emb := {}
    vsc := {}
    tim := {}
    lnk := {}
    sec := { vFsid := s.sec.vFsid, vOwner := s.sec.vOwner, vKgen := s.sec.vKgen, manifest := s.sec.manifest, tcount := s.sec.tcount
             dbg := s.sec.dbg, ideKeys := s.sec.ideKeys, ideGo := s.sec.ideGo }
    red := { slots := s.red.slots, newest := s.red.newest }
    pwr := { s.pwr with fast := false, parking := false, mirrors := [], flush := [] }
    hst := { s.hst with only := false } }

/-- Bring-up starts at stage 1 once the sill domain is powered, every rail is within tolerance and PERST# is high (R579,
Table PKG-4). -/
def startBringup (s : State) : State :=
  if s.pwr.sill && decide (s.pwr.rails.length = 6) && !s.pwr.perst && s.pwr.lref && getF s GLB_STAT.STAGE == 0 then
    setF s GLB_STAT.STAGE 0 1
  else s

/-- Cold reset: the host port and configuration space too. -/
def coldReset (s : State) : State :=
  let s := clearRegs (fastClear s) .cold
  let s := { s with
    obs := { s.obs with fns := [] }
    hst := {}
    sec := { s.sec with dbg := false, ideKeys := [], ideGo := [] }
    pwr := { s.pwr with over8 := 0, clear := 0, sum := 0, cnt := 0, hot12 := 0 } }
  resetRecord s 0

/-- Warm reset: bring-up goes on from stage 2, since stage 1 is passed at once (R580). -/
def warmReset (s : State) : State :=
  let s := clearRegs (fastClear s) .warm
  resetRecord (setF (setF s GLB_STAT.CAUSE 0 1) GLB_STAT.STAGE 0 2) 1

/-- The board's rails and the RAILEN lines: what is lowered on entering SILL (R627). -/
def railsDown (s : State) : State :=
  let s := [2, 1, 0].foldl (fun s k => emit s (.pin "RAILEN" k false)) s
  { s with pwr := { s.pwr with railen := 0, rails := [] } }

/-- The chip enters SILL: every fast domain loses its power (Table PWR-3). Their registers answer nothing there, and leaving
SILL clears them. -/
def enterSill (s : State) : State := setF (regSet (railsDown (fastClear s)) .GLB_STAT 0 0) PWR_STATE.CUR 0 3

/-- RAILEN0 rises: power-up of the fast domains begins (Table PKG-4, step 3). -/
def railsUp (s : State) : State := emit { s with pwr := { s.pwr with railen := 1, rails := [] } } (.pin "RAILEN" 0 true)

/-! ## Tenant reset (R516) -/

/-- Queue contexts of tenant `t`. -/
def tenCtxs (s : State) (t : Nat) : List Nat := (mkeys s.que.ctx).filter fun n => !qPrv s n && qTen s n == t

/-- The tenant's descriptors are discarded without completions (R92, R76). -/
def tenDiscard (s : State) (t : Nat) : State :=
  let mine (n : Nat) : Bool := !qPrv s n && qTen s n == t
  let gone := (mvals s.que.slots).filter fun sl => mine sl.ctx
  let parked := (s.que.park.filter fun e => mine e.2.slot.ctx).map (·.1)
  let s := { s with que := { s.que with retryWait := s.que.retryWait.filter fun sl => !mine sl.ctx
                                        reads := s.que.reads.filter fun r => !mine r.ctx
                                        hreads := s.que.hreads.filter fun h => !(gone.any fun sl => sl.seq == h.2.1)
                                        lost := s.que.lost.filter fun x => !mine x.1 } }
  let s := parked.foldl freePark s
  gone.foldl dropSlot s

/-- EN, the four indices, INFL and BADDB of a context are cleared; with INFL 0 its STATE reads DISABLED (R91, R92). -/
def ctxReset (s : State) (n : Nat) : State :=
  let charged := cq s n QCTX.EN == 1 || cq s n QCTX.STATE == qDraining
  let s := [QCTX.EN, QCTX.SQHEAD, QCTX.SQTAIL, QCTX.CQHEAD, QCTX.CQTAIL, QCTX.INFL, QCTX.BADDB].foldl (fun s f => setQ s n f 0) s
  let s := setQ s n QCTX.STATE qDisabled
  let s := { s with que := { s.que with stopped := mdel s.que.stopped n, signal := mdel s.que.signal n } }
  if charged && !qPrv s n then chargeQ s TEN_QUOTA_QUEUE.USED (qTen s n) false else s

/-- Tallies of the tenant count from zero (R185). -/
def tenTallies (s : State) (t : Nat) : State :=
  let zero (e : Nat × BitVec 128) : Option (Nat × BitVec 128) :=
    let v := if bget e.2 TALLY.OWNER = t then bset e.2 TALLY.COUNT 0 else e.2
    if v = 0 then none else some (e.1, v)
  { s with store := { s.store with tally := s.store.tally.filterMap zero } }

/-- Registers of the window that tenant reset clears. -/
def tenRegs : List Reg := allRegs.filter fun r => (clearedBy r).contains .tenant && r != .TEN_CNT

/-- Counters of the groups that the tenant owns are set to zero (Table CNT-4, step 4). -/
def tenCounters (s : State) (t : Nat) : State :=
  let mine (n : Nat) : Bool := tstF s CNT_GCFG.TOWN (n / 8) && getF s CNT_GCFG.TENANT (n / 8) == t
  { s with obs := { s.obs with cval := s.obs.cval.filter fun e => !mine e.1 } }

/-- Tenant reset begins; one that runs already goes on (Table HST-5, step 1). Its dirty pages are written back (R199). -/
def tenantReset (s : State) (t : Nat) : State :=
  if 512 ≤ t || s.sec.resetting.contains t then s else
  let s := setF s TEN_SECCTL.EN t 0
  let s := { s with sec := { s.sec with enabling := s.sec.enabling.filter (· != t), resetting := insRising s.sec.resetting t } }
  let s := (tenCtxs s t).foldl ctxReset (tenDiscard s t)
  let s := ((leasesUsed s).filter fun i => lease s i LEASE.OWNER == t).foldl leaseFree s
  let s := tenCounters (tenTallies s t) t
  let s := tenRegs.foldl (fun s r => regSet s r t (regReset r)) s
  { s with xlt := { s.xlt with batch := mdel s.xlt.batch t } }

/-- Pages of the tenant. -/
def tenPages (s : State) (t : Nat) : List (Nat × Page) :=
  s.store.pages.filter fun e => !btst e.2.entry PAGE.SYSX && pg e.2 PAGE.TENANT == t

/-- No page of the tenant holds data that is still to be written back. -/
def tenClean (s : State) (t : Nat) : Bool :=
  (tenPages s t).all fun e =>
    !([pgDirty, pgPartial, pgWriting].contains (pg e.2 PAGE.STATE)) && pg e.2 PAGE.DMASK == 0 && e.2.wbCopy.isNone

/-- The tenant's pages are freed; one that edge agents still hold is evicted first. -/
def tenFree (s : State) (t : Nat) : State :=
  pageWaitRun ((tenPages s t).foldl (fun s e => if (heldLines s e.2).isEmpty then freePage s e.1 else evict s e.1 e.2) s)

/-- TENANT_RESET_DONE (R516, R233): no dirty page is left; pages are freed, and once the last is, keys are zeroised and RSTDONE
is set. While a page is still recalled from its holders, the reset goes on. -/
def tenantResetDone (s : State) (t : Nat) : State :=
  if !s.sec.resetting.contains t || !tenClean s t then s else
  let s := tenFree s t
  if !(tenPages s t).isEmpty then s else
  let s := { s with sec := { s.sec with resetting := s.sec.resetting.filter (· != t), keys := s.sec.keys.filter (· != t) } }
  setF s TEN_SECCTL.RSTDONE t 1

/-- TENANT_RESET (R516): a write of TEN_SECCTL with RESET = 1 acts so. -/
def execTenantReset (t : Nat) (s : State) : Host.Outcome State Fault Refusal := answer [.regs, .obs, .store, .xlt, .que, .eng, .arr, .kv, .nmo, .vsc, .sec, .red] s (whenFast s fun s => tenantReset s t)

/-- TENANT_RESET_DONE. -/
def execTenantResetDone (t : Nat) (s : State) : Host.Outcome State Fault Refusal := answer (workParts ++ [.sec]) s (whenFast s fun s => tenantResetDone s t)

/-! ## Function-level resets (R568, R576, R577, R610) -/

/-- Records of a table of 128-byte records that were written: index below `n`. -/
def tabUsed (s : State) (base n : Nat) : List Nat :=
  let lo := saOff base / 64
  (mkeys s.store.near).filterMap fun l => if lo ≤ l ∧ l < lo + 2 * n ∧ (l - lo) % 2 = 0 then some ((l - lo) / 2) else none

/-- Collections and tables become inactive, sketches are freed (R358, R388). -/
def tabsOff (s : State) : State :=
  let s := if tstF s EMB_TTAB.EN then (tabUsed s (adrF s EMB_TTAB.BASE) 4096).foldl (fun s t => setEtab s t ETAB.ACTIVE 0) s else s
  let s := if tstF s VSC_CTAB.EN then (tabUsed s (adrF s VSC_CTAB.BASE) 4096).foldl (fun s c => setColl s c VCOLL.ACTIVE 0) s else s
  { s with emb := {} }

/-- Scribes of the driver stop, and their registers other than OWNER are cleared (R417). -/
def scribesOff (s : State) : State :=
  let s := { s with nmo := {} }
  ((List.range 32).filter fun n => getF s SCR_CFG.OWNER n == scDriver).foldl (fun s n =>
    let o := getF s SCR_CFG.OWNER n
    let s := [Reg.SCR_CFG, .SCR_FOLD, .SCR_VAL, .SCR_EXP, .SCR_STAT, .SCR_CNT, .SCR_RES].foldl (fun s r => regSet s r n (regReset r)) s
    setF s SCR_CFG.OWNER n o) s

/-- Function-level reset of virtual function `n`: tenant reset of tenant n − 1, its configuration space reset. -/
def vfReset (s : State) (n : Nat) : State :=
  if n = 0 then s else tenantReset { s with obs := { s.obs with fns := mdel s.obs.fns n } } (n - 1)

/-- Every virtual function that is enabled leaves. -/
def vfsLeave (s : State) (from_ : Nat) : State :=
  if s.hst.vfEn then
    confine [.regs, .obs, .store, .xlt, .que, .eng, .arr, .kv, .nmo, .vsc, .sec, .red] s
      (((List.range s.hst.numVfs).filter fun n => decide (from_ ≤ n)).foldl (fun s n => vfReset s (n + 1)) s)
  else s

/-- EN of every TEN_SECCTL cleared (R541). -/
def enOff (m : AMap W64) : AMap W64 :=
  m.filterMap fun e =>
    if regOfKey e.1 = some .TEN_SECCTL then
      let v := bset e.2 TEN_SECCTL.EN.bf 0
      if v = 0 then none else some (e.1, v)
    else some e

/-- What the fast domains forget at a function-level reset of the physical function (Table HST-3). -/
def pfForget (s : State) : State :=
  { s with
    obs := { clearCounters s.obs with fns := [] }
    que := { nextSeq := s.que.nextSeq, nextLaunch := s.que.nextLaunch, nextHtag := s.que.nextHtag
             parkGen := s.que.park.foldl (fun m e => mputD 0 m e.1 ((mgetD 0 m e.1 + 1) % 32)) s.que.parkGen }
    eng := {}
    arr := { last := s.arr.last, gated := s.arr.gated, waking := s.arr.waking }
    vsc := { up := [] }
    xlt := {}
    kv := {}
    store := { s.store with tally := [], pageWait := []
                            pages := mmap s.store.pages fun _ g => { g with pins := [], deferred := [] } }
    home := { s.home with dir := [], alc := [], htx := [], retry := [], quarantine := [], sweep := [], rem := [] }
    sec := { s.sec with keys := [], sysKeys := false, seed := false, enabling := [] }
    hst := { s.hst with vfEn := false, numVfs := 0 }
    regs := enOff s.regs }

/-- What a function-level reset of the physical function clears on a chip that runs (Table HST-3). -/
def pfClear (s : State) : State :=
  let s := vfsLeave s 0
  let s := confine workParts s (scribesOff (tabsOff ((leasesUsed s).foldl leaseFree s)))
  [Reg.XLT_SPILL, .HOME_DIRCFG, .ARR_KVLTAB, .VSC_CTAB, .EMB_TTAB].foldl rwlReload (clearRegs (pfForget s) .pf)

/-- Function-level reset of the physical function; `cause` 2 FLR, 3 hot reset. A chip that has joined a store fences itself
first, and then serves configuration requests, DOE and GLB registers alone (R577). -/
def pfReset (s : State) (cause : Nat) : State :=
  let joined := tstF s HOME_DIRCFG.EN
  let s := if joined then selfFence s else s
  let s := pfClear s
  let s := { s with hst := { s.hst with only := s.hst.only || joined } }
  resetRecord (setF s GLB_STAT.CAUSE 0 cause) cause

/-- `f s` once configuration space answers: stage 1 of bring-up has ended (R580). -/
def whenHost (s : State) (f : State → State) : State := if s.pwr.sill && decide (2 ≤ getF s GLB_STAT.STAGE) then f s else s

/-- PF_FUNCTION_RESET (R577): `hot` for a hot reset; FLR and DL_Down otherwise. -/
def execPfFunctionReset (hot : Bool) (s : State) : Host.Outcome State Fault Refusal :=
  answer (workParts ++ [.lnk, .sec, .hst]) s (whenHost s fun s => pfReset s (if hot then 3 else 2))

/-- VF_FUNCTION_RESET (R576): Initiate FLR of virtual function `n`. -/
def execVfFunctionReset (n : Nat) (s : State) : Host.Outcome State Fault Refusal :=
  answer [.regs, .obs, .store, .xlt, .que, .eng, .arr, .kv, .nmo, .vsc, .sec, .red] s (whenHost s fun s => if s.hst.vfEn ∧ 1 ≤ n ∧ n ≤ s.hst.numVfs then vfReset s n else s)

/-- VF_ENABLE_CLEAR (R568): the SR-IOV capability is written with VF Enable `en` and NumVFs `numVfs`; each virtual function
that leaves is reset. -/
def execVfEnableClear (en : Bool) (numVfs : Nat) (s : State) : Host.Outcome State Fault Refusal :=
  answer [.regs, .obs, .store, .xlt, .que, .eng, .arr, .kv, .nmo, .vsc, .sec, .red, .hst] s (whenHost s fun s =>
    let t := vfsLeave s (if en then numVfs else 0)
    { t with hst := { t.hst with vfEn := en, numVfs := min numVfs 512 } })

/-! ## Warm and cold reset commands (R578) -/

/-- GLB_RST_WARM (R578): accepted through PF BAR0 and over MCTP. -/
def execGlbRstWarm (s : State) : Host.Outcome State Fault Refusal :=
  answer allParts s (if s.pwr.sill && decide (1 ≤ getF s GLB_STAT.STAGE) then warmReset s else s)

/-- GLB_RST_COLD (R578): over MCTP only. -/
def execGlbRstCold (mctp : Bool) (s : State) : Host.Outcome State Fault Refusal :=
  answer allParts s (if mctp && s.pwr.sill && getF s PWR_STATE.CUR != 3 then startBringup (coldReset s) else s)

/-- PERST_ASSERT (R576): cold reset. -/
def execPerstAssert (s : State) : Host.Outcome State Fault Refusal :=
  answer allParts s (
    let s := { s with pwr := { s.pwr with perst := true } }
    if s.pwr.sill && getF s PWR_STATE.CUR != 3 then coldReset s else s)

/-- PERST_DEASSERT (R548, R580): bring-up begins; a chip in SILL leaves it as with a cold reset, after a rail fault too. -/
def execPerstDeassert (s : State) : Host.Outcome State Fault Refusal :=
  answer allParts s (
    let s := { s with pwr := { s.pwr with perst := false } }
    if !s.pwr.sill then s
    else if getF s PWR_STATE.CUR = 3 then railsUp (coldReset { s with pwr := { s.pwr with railFault := false } })
    else startBringup s)

end Sys2Proof.Machine
end

