-- ==== Sys2Proof/Machine/HostOps.lean ====
section
/-! DEFINITION. HostOps.lean: what a PCIe function may send, and what it holds back (R563, R569, R571, R575). -/
namespace Sys2Proof.Machine

/-- Pending messages of function `n` whose vectors may signal are sent (R571). -/
def msixFlush (s : State) (n : Nat) : State :=
  let f := fnOf s n
  if f.msixEn && !f.fmask && canIssue s n then
    let go := f.pend.filter f.unmasked.contains
    go.foldl (fun s v => emit s (.msix n v)) (setFn s n { f with pend := f.pend.filter fun v => !f.unmasked.contains v })
  else s

/-- What function `n` held is issued in its original order, then its pending messages (R569). -/
def fnFlush (s : State) (n : Nat) : State :=
  if canIssue s n then
    let h := (fnOf s n).held
    msixFlush (h.foldl emit (setFn s n { fnOf s n with held := [] })) n
  else s

/-- Every function that may issue again does. -/
def allFlush (s : State) : State := (mkeys s.obs.fns).foldl fnFlush s

/-- A function that exists: the physical one, or an enabled virtual one. -/
def fnExists (s : State) (n : Nat) : Bool := n == 0 || (s.hst.vfEn && decide (n ≤ s.hst.numVfs))

/-- BUS_MASTER_ENABLE_CLEAR (R569). -/
def execBusMasterEnableClear (fn : Nat) (s : State) : Host.Outcome State Fault Refusal :=
  answer [.obs] s (whenHost s fun s => if fnExists s fn then setFn s fn { fnOf s fn with bme := false } else s)

/-- BUS_MASTER_ENABLE_SET (R569). -/
def execBusMasterEnableSet (fn : Nat) (s : State) : Host.Outcome State Fault Refusal :=
  answer [.obs] s (whenHost s fun s => if fnExists s fn then fnFlush (setFn s fn { fnOf s fn with bme := true }) fn else s)

/-- D3HOT_TRANSITION (R563): the function enters D3hot, or returns to D0. -/
def execD3hotTransition (fn : Nat) (enter : Bool) (s : State) : Host.Outcome State Fault Refusal :=
  answer [.obs] s (whenHost s fun s => if fnExists s fn then fnFlush (setFn s fn { fnOf s fn with d3hot := enter }) fn else s)

/-- MSIX_UNMASK (R571): vector `vec` of a function is unmasked; with none, MSI-X is enabled and the Function Mask cleared. -/
def execMsixUnmask (fn : Nat) (vec : Option Nat) (s : State) : Host.Outcome State Fault Refusal :=
  answer [.obs] s (whenHost s fun s =>
    if !fnExists s fn then s
    else
      let f := fnOf s fn
      match vec with
      | none => msixFlush (setFn s fn { f with msixEn := true, fmask := false }) fn
      | some v => if v < (if fn = 0 then 2048 else 128) then msixFlush (setFn s fn { f with unmasked := insRising f.unmasked v }) fn else s)

/-- HST_LINK after training, and DOWNGRADE below x8 or 64 GT/s (R561). FLIT mode is the only mode at 64 GT/s. -/
def linkTrained (s : State) (speed width : Nat) (flit : Bool) : State :=
  let s := setF (setF (setF s HST_LINK.SPEED 0 speed) HST_LINK.WIDTH 0 width) HST_LINK.FLIT 0 (if flit || speed == 6 then 1 else 0)
  if speed < 6 ∨ width < 8 then setEvt s HST_EVT.DOWNGRADE else s

/-- Rates and widths of Table HST-8. -/
def linkOk (speed width : Nat) : Bool := decide (1 ≤ speed ∧ speed ≤ 6) && [1, 2, 4, 8].contains width

/-- HOST_LINK_RETRAIN (R561). -/
def execHostLinkRetrain (speed width : Nat) (flit : Bool) (s : State) : Host.Outcome State Fault Refusal :=
  answer [.regs, .obs] s (whenHost s fun s => if linkOk speed width then linkTrained (satF s HST_LINK.RETRAINS 0) speed width flit else s)

end Sys2Proof.Machine
end

