-- ==== Sys2Proof/Machine/LinkKeys.lean ====
section
/-! DEFINITION. LinkKeys.lean: training of ports, the link exchange and the frame seed's transfer (R442 to R444, R450, R534 to
R536). -/
namespace Sys2Proof.Machine

/-! ## Training (R442) -/

/-- The manifest assigned the SLOT of edge port `p` twice: only the first port may run (R441). -/
def slotTaken (s : State) (p : Nat) : Bool :=
  isEdge s p && (List.range p).any fun q => isEdge s q && getF s LNK_CFG.SLOT q == getF s LNK_CFG.SLOT p

/-- A port starts anew at DETECT. -/
def toDetect (s : State) (p : Nat) : State := setPortSt (modPort s p fun x => { ({} : Port) with fails := x.fails, keyNo := x.keyNo }) p psDetect

/-- A training limit expires, or a check of PARAM or SECURE fails: DETECT again, or DOWN after 16 failures in a row. -/
def trainFail (s : State) (p : Nat) : State :=
  let n := (portOf s p).fails + 1
  let s := modPort (satF s LNK_ERRRTY.TRAINFAIL p) p fun x => { x with fails := n }
  if 16 ≤ n then portDown s p 3 else toDetect s p

/-- PORT_ENABLE (R442): a write of LNK_CFG. MODE and SLOT are RWL. -/
def execPortEnable (p : Nat) (v : W64) (s : State) : Host.Outcome State Fault Refusal :=
  answer [.regs, .obs, .lnk] s (whenFast s fun s =>
    if 12 ≤ p then s else
    let was := tstF s LNK_CFG.EN p
    let s := if tstF s SEC_BOOT.SEALED then s
      else setF (setF s LNK_CFG.SLOT p (bget v LNK_CFG.SLOT.bf)) LNK_CFG.MODE p (bget v LNK_CFG.MODE.bf)
    let en := btst v LNK_CFG.EN.bf
    let s := setF s LNK_CFG.EN p (if en then 1 else 0)
    if !en then setPortSt (setPort s p { keyNo := (portOf s p).keyNo }) p psDisabled
    else if was || !(isPeer s p || isEdge s p) then s
    else if slotTaken s p then ledgerFF s 0xB ((regPlace .LNK_CFG).base + 256 * p)
    else setPortSt (setPort s p { keyNo := (portOf s p).keyNo }) p psDetect)

/-- DETECT_POLL (R442). -/
def execDetectPoll (p : Nat) (present : Bool) (s : State) : Host.Outcome State Fault Refusal :=
  answer [.regs, .obs] s (whenLive s fun s => if p < 12 && portSt s p == psDetect && present then setPortSt s p psPhy else s)

/-- Receive credits that the chip advertises, by VC (Table LNK-4). -/
def ownCredits (peer : Bool) : List Nat := if peer then [512, 512, 512, 5120, 5120, 128] else [512, 0, 512, 5120, 0, 128]

/-- The chip's PARAM message (R443). -/
def sendParam (s : State) (p : Nat) : State :=
  let h := ctlHdr ctParam [(⟨112, 8⟩, 1), (⟨110, 2⟩, if isPeer s p then 1 else 0), (⟨100, 10⟩, own s), (⟨97, 3⟩, getF s LNK_CFG.SLOT p),
    (⟨92, 4⟩, p), (⟨76, 16⟩, getF s LNK_RANK.RANK)]
  portSend s p h (((ownCredits (isPeer s p)).map (leBytes 2)).flatten ++ List.replicate 4 0)

/-- PORT_TRAINING_STAGE_DONE (R442): PHYTRAIN, then FECLOCK. -/
def execPortTrainingStageDone (p : Nat) (s : State) : Host.Outcome State Fault Refusal :=
  answer [.regs, .obs, .lnk] s (whenLive s fun s =>
    if 12 ≤ p then s
    else if portSt s p = psPhy then setPortSt s p psFec
    else if portSt s p = psFec then sendParam (setPortSt s p psParam) p
    else s)

/-- TRAINING_LIMIT_EXPIRE (R442). -/
def execTrainingLimitExpire (p : Nat) (s : State) : Host.Outcome State Fault Refusal :=
  answer (workParts ++ [.tim, .lnk]) s (whenLive s fun s => if p < 12 && decide (psPhy ≤ portSt s p ∧ portSt s p ≤ psSecure) then trainFail s p else s)

/-! ## The link exchange (R534, R535) -/

/-- OWNERHASH of the manifest in force (Table SEC-5). -/
def ownerHash (s : State) : List Byte := let b := (s.sec.manifest.drop 112).take 48; b ++ List.replicate (48 - b.length) 0

/-- `n` bytes that the spec leaves to chance: nonces, keys, ciphertexts and signatures. -/
def freeBytes (s : State) (n : Nat) : List Byte × State :=
  ((List.range n).map fun i => Config.freeByte (s.fresh + i), { s with fresh := s.fresh + n })

/-- A body with its own length in front. -/
def secBody (b : List Byte) : List Byte := leBytes 4 (b.length + 4) ++ b

def secHello : Nat := 1
def secEncap : Nat := 2
def secFinish : Nat := 3

/-- A body sent in fragments of at most 336 bytes. -/
def sendSec (s : State) (p ty : Nat) (body : List Byte) : State :=
  let n := ceilDiv body.length 336
  let s := modPort s p fun x => { x with sent := mput x.sent ty body }
  (List.range n).foldl (fun s k =>
    let b := (body.drop (336 * k)).take 336
    let sl := ceilDiv b.length 16
    portSend s p (ctlHdr ctSec [(⟨112, 8⟩, ty), (⟨96, 16⟩, k), (⟨86, 10⟩, n), (⟨77, 9⟩, sl)]) (b ++ List.replicate (16 * sl - b.length) 0)) s

/-- The chip's HELLO: nonce, encapsulation key, FSID, OWNERHASH, alias and device certificates. -/
def sendHello (s : State) (p : Nat) : State :=
  let (r, s) := freeBytes s (32 + 1184)
  let cert (i : Nat) : List Byte := leBytes 4 (Config.certificate i).length ++ Config.certificate i
  sendSec s p secHello (secBody (r ++ leBytes 8 (getF s SEC_FSID.FSID) ++ ownerHash s ++ leBytes 2 2 ++ cert 0 ++ cert 1))

def sendEncap (s : State) (p : Nat) : State := let (r, s) := freeBytes s 1088; sendSec s p secEncap (secBody r)
def sendFinish (s : State) (p : Nat) : State := let (r, s) := freeBytes s 3309; sendSec s p secFinish (secBody r)

/-- An exchange begins: HELLO goes out. -/
def secStart (s : State) (p : Nat) : State := sendHello (modPort s p fun x => { x with sent := [], got := [], frag := [] }) p

/-- A check of the exchange fails: SECURE fails; a re-key leaves the old key in use. -/
def secFail (s : State) (p : Nat) : State :=
  let s := setEvt (modPort s p fun x => { x with sent := [], got := [], frag := [] }) SEC_EVT.LINKAUTH
  if portSt s p = psSecure then trainFail s p else s

/-- The port may take part in an exchange. -/
def secOpen (s : State) (p : Nat) : Bool := p < 12 && (portSt s p == psSecure || portSt s p == psActive)

/-- FSID in a HELLO body. -/
def helloFsid (b : List Byte) : Nat := leNat ((b.drop 1220).take 8)

/-- A HELLO body comes: it answers the chip's own, or starts a re-key that the other end began. -/
def takeHello (s : State) (p : Nat) (b : List Byte) : State :=
  if !secOpen s p then s
  else
    let s := if (mget (portOf s p).sent secHello).isSome then s else secStart s p
    if !Config.chainOk b || leNat (b.take 4) != b.length || decide (b.length < 1278) then secFail s p
    else sendEncap (modPort s p fun x => { x with got := mput x.got secHello b }) p

/-- An ENCAP body. -/
def takeEncap (s : State) (p : Nat) (b : List Byte) : State :=
  if !secOpen s p then s
  else if (mget (portOf s p).got secHello).isNone || b.length != 1092 || !Config.encapOk b then secFail s p
  else sendFinish (modPort s p fun x => { x with got := mput x.got secEncap b }) p

/-- The port enters ACTIVE from SECURE: first key, credits as advertised (R456), the round trip as measured (a free value); an
edge agent that declared caching is one. -/
def portActive (s : State) (p : Nat) : State :=
  let s := modPort s p fun x => { x with
    fails := 0, keyNo := x.keyNo + 1, txKey := x.keyNo + 1, txCnt := 0, rxSel := 0, rxCnt := 0, rxNew := false, credit := x.adv, owed := [] }
  let s := setF (setF (setPortSt s p psActive) LNK_KEYCFG.KEYSEL p 0) LNK_KEYCFG.NEWKEY p 0
  let (n, s) := takeFresh s
  let s := setF s LNK_STAT.RTT p (Config.pick n % 4096)
  let a := neighbour s p
  if isEdge s p && tstF s LNK_STAT.CACHING p && !s.home.dead.contains a then
    { s with home := { s.home with caching := insRising s.home.caching a } }
  else s

/-- A new key is installed beside the old one (R450). -/
def keyReady (s : State) (p : Nat) : State :=
  setF (modPort s p fun x => { x with keyNo := x.keyNo + 1, rxNew := true }) LNK_KEYCFG.NEWKEY p 1

/-- The frame seed offered to a peer whose HELLO showed none (R536). -/
def offerSeed (s : State) (p : Nat) (fsid : Nat) : State :=
  if isPeer s p && tstF s SEC_BOOT.VAULT && fsid == 0 then
    let f := getF s SEC_FSID.FSID
    portSend s p (ctlHdr ctSeed [(⟨56, 64⟩, f)]) ((Config.seedOf (BitVec.ofNat 64 f) ++ List.replicate 32 0).take 32)
  else s

/-- A FINISH body: signature, OWNERHASH and FSID are checked, and the keys installed. -/
def takeFinish (s : State) (p : Nat) (b : List Byte) : State :=
  if !secOpen s p then s
  else
    let x := portOf s p
    match mget x.got secHello, mget x.got secEncap with
    | some h, some e =>
      let f := helloFsid h
      let mine := getF s SEC_FSID.FSID
      let all := [h, e] ++ x.sent.map (·.2)
      if b.length != 3313 || !Config.finishOk b all
          || (isPeer s p && ((h.drop 1228).take 48 != ownerHash s || (f != 0 && mine != 0 && f != mine))) then secFail s p
      else
        let rekey := portSt s p == psActive
        let s := if rekey then keyReady s p else portActive s p
        let s := modPort s p fun x => { x with sent := [], frag := [] }
        if rekey then s else offerSeed s p f
    | _, _ => secFail s p

/-- HELLO (R534, R535): the whole body. -/
def execHello (p : Nat) (body : List Byte) (s : State) : Host.Outcome State Fault Refusal := answer (workParts ++ [.tim, .lnk]) s (whenLive s fun s => takeHello s p body)

/-- ENCAP (R534, R535). -/
def execEncap (p : Nat) (body : List Byte) (s : State) : Host.Outcome State Fault Refusal := answer (workParts ++ [.tim, .lnk]) s (whenLive s fun s => takeEncap s p body)

/-- FINISH (R534, R535). -/
def execLinkFinish (p : Nat) (body : List Byte) (s : State) : Host.Outcome State Fault Refusal := answer (workParts ++ [.tim, .lnk]) s (whenLive s fun s => takeFinish s p body)

/-- One SECMSG: fragments are put together in order; a reserved TYPE fails SECURE. -/
def takeSecMsg (s : State) (p : Nat) (hdr : BitVec 128) (data : List Byte) : State :=
  let ty := bget hdr ⟨112, 8⟩
  let k := bget hdr ⟨96, 16⟩
  let n := bget hdr ⟨86, 10⟩
  if ty < 1 ∨ 3 < ty then secFail s p
  else
    let b := if k = 0 then data else mgetD [] (portOf s p).frag ty ++ data
    let s := modPort s p fun x => { x with frag := mput x.frag ty b }
    if k + 1 < n then s
    else
      let body := b.take (leNat (b.take 4))
      let s := modPort s p fun x => { x with frag := mdel x.frag ty }
      if ty = secHello then takeHello s p body else if ty = secEncap then takeEncap s p body else takeFinish s p body

/-- PARAM (R443, R444): the two slots as they came. -/
def execParam (p : Nat) (w0 w1 : BitVec 128) (s : State) : Host.Outcome State Fault Refusal :=
  answer (workParts ++ [.tim, .lnk]) s (whenLive s fun s =>
    if 12 ≤ p || portSt s p != psParam then s
    else
      let mode := bget w0 ⟨110, 2⟩
      let chip := bget w0 ⟨100, 10⟩
      let cr := (List.range 6).map fun i => bget w1 ⟨16 * i, 16⟩
      let must := if isPeer s p then [0, 1, 2, 3, 4, 5] else [1, 2, 3, 5]
      let bad := bget w0 ⟨112, 8⟩ != 1 || (isEdge s p && mode != 2) || (isPeer s p && (mode != 1 || chip == own s))
        || must.any (fun i => decide (cr.getD i 0 < 22)) || (isEdge s p && cr.getD 4 0 != 0)
      if bad then trainFail (setEvt (ledger s 0x0B02 2 none [p, chip]) LNK_EVT.BADPARAM) p
      else
        let s := if isPeer s p then setF (setF s LNK_STAT.PEER p chip) LNK_STAT.NRANK p (bget w0 ⟨76, 16⟩)
          else setF s LNK_STAT.CACHING p (bget w0 ⟨96, 1⟩)
        let adv := (List.range 6).foldl (fun m i => mputD 0 m i (cr.getD i 0)) []
        secStart (setPortSt (modPort s p fun x => { x with adv := adv }) p psSecure) p)

/-- REKEY_INTERVAL (R450). -/
def execRekeyInterval (p : Nat) (s : State) : Host.Outcome State Fault Refusal :=
  answer [.lnk, .fresh] s (whenLive s fun s => if p < 12 && portSt s p == psActive && !tstF s LNK_KEYCFG.NEWKEY p then secStart s p else s)

/-- A frame seed enters the vault: FSID and VAULT read it (R524, R536). -/
def takeSeed (s : State) (f : W64) : State :=
  let s := { s with sec := { s.sec with vFsid := f, seed := true, sysKeys := true } }
  setF (regSet s .SEC_FSID 0 f) SEC_BOOT.VAULT 0 1

/-- SEEDXFER (R536). -/
def execSeedxfer (p : Nat) (fsid : W64) (seed : List Byte) (s : State) : Host.Outcome State Fault Refusal :=
  answer [.regs, .obs, .sec] s (whenLive s fun s =>
    let shown := ((mget (portOf s p).got secHello).map helloFsid).getD 0
    if 12 ≤ p || portSt s p != psActive || !isPeer s p || tstF s SEC_BOOT.VAULT then s
    else if Config.fsidOf seed = fsid ∧ fsid.toNat = shown ∧ fsid ≠ 0 then takeSeed s fsid
    else s)

end Sys2Proof.Machine
end

