-- ==== Sys2Proof/Machine/Tenancy.lean ====
section
/-! DEFINITION. Tenancy.lean: enabling and erasing tenants, and the frame seed (R515, R520, R527, R536). -/
namespace Sys2Proof.Machine

/-! ## Enabling (R515, R520, R583) -/

/-- Another tenant is enabled, or is being enabled. -/
def holdsPart (s : State) (t u : Nat) : Bool := u != t && (tstF s TEN_SECCTL.EN u || s.sec.enabling.contains u)

/-- Partitioned mode refuses the tenant: its PART is taken, or its WAYS overlap another's (R520). -/
def partTaken (s : State) (t : Nat) : Bool :=
  (List.range 512).any fun u => holdsPart s t u &&
    (getF s TEN_SECCTL.PART u == getF s TEN_SECCTL.PART t || getF s TEN_DIRQ.WAYS u &&& getF s TEN_DIRQ.WAYS t != 0)

/-- EN written 1: key derivation starts, or the write is refused. -/
def tenantEnable (s : State) (t : Nat) : State :=
  if tstF s TEN_SECCTL.EN t || s.sec.enabling.contains t then s
  else if !tstF s GLB_STAT.READY || (partitioned s && partTaken s t) then setEvt s SEC_EVT.REFUSED
  else { s with sec := { s.sec with enabling := insRising s.sec.enabling t } }

/-- EN written 0. -/
def tenantDisable (s : State) (t : Nat) : State :=
  { setF s TEN_SECCTL.EN t 0 with sec := { (setF s TEN_SECCTL.EN t 0).sec with enabling := s.sec.enabling.filter (· != t) } }

/-- A frame seed can be had: it is held, or the vault unwraps (R523, R524, R540). -/
def seedHeld (s : State) : Bool := s.sec.seed || (tstF s SEC_BOOT.VAULT && !s.sec.dbg)

/-- TENANT_KEYS_INSTALLED (R515). -/
def tenantInstalled (s : State) (t : Nat) : State :=
  if !s.sec.enabling.contains t || s.sec.resetting.contains t || !seedHeld s then s
  else setF { s with sec := { s.sec with
    enabling := s.sec.enabling.filter (· != t)
    keys := insRising s.sec.keys t
    seed := true
    sysKeys := true } } TEN_SECCTL.EN t 1

/-! ## Erasing (R527) -/

/-- What the tenant still owns on this chip: VALID extents, staging pages, leases, active tables or collections. -/
def owns (s : State) (t : Nat) : Bool :=
  (s.store.ext.any fun e => btst e.2 EXT.VALID && !btst e.2 EXT.SYS && bget e.2 EXT.OWNER == t)
  || !(tenPages s t).isEmpty
  || ((leasesUsed s).any fun i => lease s i LEASE.OWNER == t)
  || (tstF s EMB_TTAB.EN && (tabUsed s (adrF s EMB_TTAB.BASE) 4096).any fun k => etab s k ETAB.ACTIVE == 1 && etab s k ETAB.OWNER == t)
  || (tstF s VSC_CTAB.EN && (tabUsed s (adrF s VSC_CTAB.BASE) 4096).any fun k => coll s k VCOLL.ACTIVE == 1 && coll s k VCOLL.OWNER == t)

/-- ERASE: KGEN advances in the register and in the vault, or the write is refused. -/
def tenantErase (s : State) (t : Nat) : State :=
  if tstF s TEN_SECCTL.EN t || s.sec.enabling.contains t || owns s t then setEvt s SEC_EVT.REFUSED
  else
    let g := (getF s TEN_SECCTL.KGEN t + 1) % 65536
    let s := setF s TEN_SECCTL.KGEN t g
    { s with sec := { s.sec with vKgen := mputD 0 s.sec.vKgen t g, erasing := insRising s.sec.erasing t } }

/-- TENANT_ERASE_DONE. -/
def tenantErased (s : State) (t : Nat) : State :=
  if s.sec.erasing.contains t then
    setF { s with sec := { s.sec with erasing := s.sec.erasing.filter (· != t) } } TEN_SECCTL.EDONE t 1
  else s

/-! ## TEN_SECCTL (Table SEC-12) -/

/-- A write of TEN_SECCTL. A RESET comes first, and EN of that write then has no effect; ERASE comes last. -/
def secctlWrite (s : State) (t : Nat) (v : W64) : State :=
  if 512 ≤ t then s else
  let s := plainWrite s .TEN_SECCTL t (bset v TEN_SECCTL.EN.bf (getF s TEN_SECCTL.EN t))
  let s := if btst v TEN_SECCTL.RESET.bf then tenantReset s t
    else if btst v TEN_SECCTL.EN.bf then tenantEnable s t else tenantDisable s t
  if btst v TEN_SECCTL.ERASE.bf then tenantErase s t else s

/-- TENANT_ENABLE (R515): a write of TEN_SECCTL with EN = 1. -/
def execTenantEnable (t : Nat) (v : W64) (s : State) : Host.Outcome State Fault Refusal :=
  answer [.regs, .obs, .store, .xlt, .que, .eng, .arr, .kv, .nmo, .vsc, .sec, .red] s (whenFast s fun s => secctlWrite s t (bset v TEN_SECCTL.EN.bf 1))

/-- TENANT_KEYS_INSTALLED (R515). -/
def execTenantKeysInstalled (t : Nat) (s : State) : Host.Outcome State Fault Refusal :=
  answer [.regs, .obs, .sec] s (whenFast s fun s => tenantInstalled s t)

/-- TENANT_ERASE (R527): a write of TEN_SECCTL with ERASE = 1. -/
def execTenantErase (t : Nat) (v : W64) (s : State) : Host.Outcome State Fault Refusal :=
  answer [.regs, .obs, .store, .xlt, .que, .eng, .arr, .kv, .nmo, .vsc, .sec, .red] s (whenFast s fun s => secctlWrite s t (bset v TEN_SECCTL.ERASE.bf 1))

/-- TENANT_ERASE_DONE (R527). -/
def execTenantEraseDone (t : Nat) (s : State) : Host.Outcome State Fault Refusal := answer [.regs, .obs, .sec] s (whenFast s fun s => tenantErased s t)

/-! ## The frame seed (R536) -/

/-- A new frame seed from the DRBG, on a chip that holds none. -/
def seedCreate (s : State) : State :=
  if tstF s SEC_BOOT.VAULT then s
  else
    let (b, s) := freeBytes s 32
    takeSeed s (Config.fsidOf b)

/-- FRAME_SEED_CREATE (R536): a write of SEC_FSCMD. -/
def execFrameSeedCreate (v : W64) (s : State) : Host.Outcome State Fault Refusal :=
  answer [.regs, .obs, .sec, .fresh] s (whenFast s fun s => if btst v SEC_FSCMD.CREATE.bf then seedCreate s else s)

end Sys2Proof.Machine
end

