-- ==== Sys2Proof/Machine/Attest.lean ====
section
/-! DEFINITION. Attest.lean: debug unlock, SPDM attestation, the DOE mailbox and IDE key management (R538 to R540, R573 to
R575, R616 to R618). -/
namespace Sys2Proof.Machine

/-! ## MCTP (R616, R617) -/

/-- Registers outside the PWR and LDG blocks answer: not in SILL and not during a cold reset. -/
def mctpFast (s : State) : Bool := s.pwr.sill && decide (1 ≤ getF s GLB_STAT.STAGE)

def mctpAnswer (s : State) (code : Nat) (v : Option W64) : State := emit s (.mctp code v)

/-! ## Debug unlock (R540, R618) -/

/-- A new nonce of 32 bytes. -/
def nonceDraw (s : State) : State :=
  let (b, s) := freeBytes s 32
  { s with sec := { s.sec with nonce := some b } }

/-- Word `w` of SEC_DBGNONCE: a read of word 0 draws a new nonce. -/
def nonceWord (s : State) (w : Nat) : W64 × State :=
  let s := if w = 0 then nonceDraw s else s
  (BitVec.ofNat 64 (leNat (((s.sec.nonce.getD []).drop (8 * w)).take 8)), s)

/-- The bytes of the token mailbox from word 1 on. -/
def tokenBytes (s : State) : List Byte := ((List.range 511).map fun i => leBytes 8 (mgetD 0 s.sec.token (i + 1)).toNat).flatten

/-- The token is addressed to this chip, answers its nonce and verifies (R618). -/
def tokenGood (s : State) (len : Nat) : Bool :=
  let b := (tokenBytes s).take 3361
  let lvl := leNat ((b.drop 48).take 1)
  let signer := leNat ((b.drop 49).take 1)
  len == 3361 && b.take 16 == Config.deviceId && some ((b.drop 16).take 32) == s.sec.nonce && decide (1 ≤ lvl ∧ lvl ≤ 7)
    && decide (signer ≤ 1) && leNat ((b.drop 50).take 2) == 0 && Config.tokenOk signer b

/-- Every key is zeroised (R523). -/
def zeroise (s : State) : State := { s with sec := { s.sec with keys := [], sysKeys := false, seed := false, ideSess := 0 } }

/-- The check of a token of `len` bytes; a new nonce is drawn whatever its outcome. -/
def tokenCheck (s : State) (len : Nat) : State :=
  let lvl := leNat (((tokenBytes s).drop 48).take 1)
  let s := if tokenGood s len then
      let s := zeroise (selfFence s)
      let s := setF (setF s SEC_DBG.UNLOCKED 0 1) SEC_DBG.LEVEL 0 lvl
      { s with sec := { s.sec with dbg := true } }
    else s
  nonceDraw s

/-- DEBUG_NONCE_READ (R618). -/
def execDebugNonceRead (s : State) : Host.Outcome State Fault Refusal :=
  answer [.obs, .sec, .fresh] s (whenSill s fun s =>
    if mctpFast s then let (v, s) := nonceWord s 0; mctpAnswer s 0 (some v) else mctpAnswer s 2 none)

/-- DEBUG_TOKEN_CHECK (R540): a write of `len` to word 0 of SEC_DBGTOKEN. -/
def execDebugTokenCheck (len : Nat) (s : State) : Host.Outcome State Fault Refusal :=
  answer [.regs, .obs, .txq, .home, .lnk, .sec, .red, .fresh] s (whenSill s fun s => if mctpFast s then mctpAnswer (tokenCheck s len) 0 none else mctpAnswer s 2 none)

/-! ## SPDM (R538, R539) -/

/-- SPDM transports: MCTP and DOE. -/
def spdmTp (doe : Bool) : Nat := if doe then 1 else 0

/-- The responder is reached over the transport, and has the alias key; without it GET_VERSION alone is answered (R528). -/
def spdmReach (s : State) (doe : Bool) : Bool := if doe then s.pwr.sill && decide (2 ≤ getF s GLB_STAT.STAGE) else mctpFast s
def spdmUp (s : State) : Bool := decide (4 ≤ getF s SEC_BOOT.STAGE)

def spdmSt (s : State) (doe : Bool) : Nat := mgetD 0 s.sec.spdm (spdmTp doe)

def setSpdm (s : State) (doe : Bool) (x : Nat) : State := { s with sec := { s.sec with spdm := mputD 0 s.sec.spdm (spdmTp doe) x } }

def spdmSay (s : State) (doe : Bool) (code : Nat) (data : List Byte) : State := emit s (.spdm (spdmTp doe) code data)

/-- ERROR with a code: 1 invalid request, 4 unexpected request (DMTF SPDM 1.3; PRESUMED). -/
def spdmError (s : State) (doe : Bool) (e : Nat) : State := spdmSay s doe 0x7F (leBytes 1 e)

/-- A request other than GET_VERSION that needs connection state `need`. -/
def spdmReq (s : State) (doe : Bool) (need : Nat) (go : State → State) : State :=
  if !spdmReach s doe || !spdmUp s then s
  else if spdmSt s doe < need then spdmError s doe 4
  else go s

/-- The chain of slot 0: Kilori's root, device certificate, alias certificate. -/
def chain0 : List Byte := Config.certificate 2 ++ Config.certificate 1 ++ Config.certificate 0

/-- GET_VERSION: version 1.3; the connection starts anew. -/
def execGetVersion (doe : Bool) (s : State) : Host.Outcome State Fault Refusal :=
  answer [.obs, .sec] s (if spdmReach s doe && (spdmUp s || tstF s SEC_BOOT.ERR) then spdmSay (setSpdm s doe 1) doe 0x04 (leBytes 2 0x1300) else s)

/-- GET_CAPABILITIES: certificates, challenge and signed measurements. -/
def execGetCapabilities (doe : Bool) (s : State) : Host.Outcome State Fault Refusal :=
  answer [.obs, .sec] s (spdmReq s doe 1 fun s => spdmSay (setSpdm s doe 2) doe 0x61 (leBytes 4 0x16))

/-- NEGOTIATE_ALGORITHMS: SHA3_384 and ML-DSA-65, where the requester offers them. -/
def execNegotiateAlgorithms (doe hash asym : Bool) (s : State) : Host.Outcome State Fault Refusal :=
  answer [.obs, .sec] s (spdmReq s doe 2 fun s =>
    let s := if hash && asym then setSpdm s doe 3 else s
    spdmSay s doe 0x63 (leBytes 4 (if hash then 0x10 else 0) ++ (if asym then leBytes 2 0x1F4C ++ leBytes 2 1 else [])))

/-- GET_DIGESTS: the digest of the chain of slot 0. -/
def execGetDigests (doe : Bool) (s : State) : Host.Outcome State Fault Refusal :=
  answer [.obs] s (spdmReq s doe 3 fun s => spdmSay s doe 0x01 (Config.sha3 chain0))

/-- GET_CERTIFICATE: bytes `off` to `off + len - 1` of the chain. -/
def execGetCertificate (doe : Bool) (slot off len : Nat) (s : State) : Host.Outcome State Fault Refusal :=
  answer [.obs] s (spdmReq s doe 3 fun s =>
    if slot ≠ 0 ∨ chain0.length ≤ off then spdmError s doe 1 else spdmSay s doe 0x02 ((chain0.drop off).take len))

/-- CHALLENGE: chain digest, a nonce and a signature with AK. -/
def execChallenge (doe : Bool) (slot : Nat) (s : State) : Host.Outcome State Fault Refusal :=
  answer [.obs, .fresh] s (spdmReq s doe 3 fun s =>
    if slot ≠ 0 then spdmError s doe 1
    else
      let (b, s) := freeBytes s (32 + 3309)
      spdmSay s doe 0x03 (Config.sha3 chain0 ++ b))

/-- The content of measurement block `i` (Table SEC-6). -/
def measurement (s : State) (i : Nat) : List Byte :=
  let m := s.sec.manifest
  match i with
  | 1 => Config.romId
  | 2 => (m.drop 64).take 48
  | 3 => Config.sha3 m
  | 4 => leBytes 2 Config.romSvn ++ leBytes 2 Config.fwSvn ++ (m.drop 6).take 2 ++ (m.drop 8).take 8
  | 5 => ownerHash s ++ leBytes 4 s.sec.tcount
  | 6 => leBytes 1 (if s.sec.dbg then 1 else 0)
  | 7 => leBytes 8 (regGet s .SEC_MODE 0).toNat ++ leBytes 8 (regGet s .SEC_FSID 0).toNat
      ++ Config.sha3 ((List.range 512).map fun t => leBytes 2 (getF s TEN_SECCTL.KGEN t)).flatten
  | 8 => leBytes 2 (own s) ++ leBytes 8 (regGet s .SEC_BOOT 0).toNat
  | _ => []

/-- A block as it is reported: raw, or its digest. Blocks 2 and 3 are digests already; block 2 has no other form (R539). -/
def measured (s : State) (raw : Bool) (i : Nat) : List Byte :=
  if i = 2 ∨ i = 3 ∨ raw then measurement s i else Config.sha3 (measurement s i)

/-- GET_MEASUREMENTS: block `idx`, 0 their number, 255 all of them; `sig` asks for a signature with AK. -/
def execGetMeasurements (doe : Bool) (idx : Nat) (raw sig : Bool) (s : State) : Host.Outcome State Fault Refusal :=
  answer [.obs, .fresh] s (spdmReq s doe 3 fun s =>
    if 8 < idx ∧ idx ≠ 255 then spdmError s doe 1
    else
      let body := if idx = 0 then leBytes 1 8
        else if idx = 255 then ((List.range 8).map fun k => measured s raw (k + 1)).flatten
        else measured s raw idx
      let (b, s) := freeBytes s (if sig then 32 + 3309 else 0)
      spdmSay s doe 0x60 (body ++ b))

/-! ## DOE (R573) -/

/-- DOE_DISCOVERY: protocol `idx` of the mailbox, and the next index; a vendor ID of all ones past the last (PCIe; PRESUMED). -/
def execDoeDiscovery (idx : Nat) (s : State) : Host.Outcome State Fault Refusal :=
  answer [.obs] s (whenHost s fun s =>
    let e (v t n : Nat) : List Byte := leBytes 2 v ++ leBytes 1 t ++ leBytes 1 n
    emit s (.doe 0 (match idx with
      | 0 => e 0x0001 0x00 1
      | 1 => e 0x0001 0x01 2
      | 2 => e 0x1F4C 0x01 0
      | _ => e 0xFFFF 0 0)))

/-! ## IDE (R574, R575) -/

/-- IDEKM_KEY_EXCHANGE (R574): a new session; the chip answers with a ciphertext and a signature with AK. -/
def execIdekmKeyExchange (nonce ek : List Byte) (s : State) : Host.Outcome State Fault Refusal :=
  answer [.obs, .sec, .fresh] s (whenHost s fun s =>
    if nonce.length ≠ 32 ∨ ek.length ≠ 1184 ∨ !spdmUp s then s
    else
      let (b, s) := freeBytes s (1088 + 3309)
      emit { s with sec := { s.sec with ideSess := s.sec.ideSess + 1, ideN := 0 } } (.doe 2 b))

/-- An encrypted object of the session: a tag that fails ends it. `tag`: the tag verifies under the session's key. -/
def ideObject (s : State) (tag : Bool) (go : State → State) : State :=
  if !tag || s.sec.ideSess == 0 then setEvt { s with sec := { s.sec with ideSess := 0 } } HST_EVT.IDEFAIL
  else
    let s := go s
    { s with sec := { s.sec with ideN := s.sec.ideN + 1 } }

/-- A key's place: stream (0 the link stream, 1 to 4 selective), key set, direction, substream. -/
def ideKey (stream set dir sub : Nat) : Nat := ((stream * 2 + set) * 2 + dir) * 3 + sub

def ideKeyOk (stream set dir sub : Nat) : Bool := decide (stream ≤ 4 ∧ set ≤ 1 ∧ dir ≤ 1 ∧ sub ≤ 2)

/-- Streams in the secure state: one key set in use on every substream of both directions. -/
def ideSecure (s : State) (stream : Nat) : Bool :=
  [0, 1].any fun set => [0, 1].all fun dir => [0, 1, 2].all fun sub => s.sec.ideGo.contains (ideKey stream set dir sub)

/-- HST_IDECFG.ACTIVE follows the key sets in use; what waited for a secure stream is issued (R575). -/
def ideActive (s : State) : State :=
  allFlush (setF s HST_IDECFG.ACTIVE 0 ((List.range 5).filter (ideSecure s)).length)

/-- An IDE_KM answer: object, and what it names (PCIe IDE_KM; PRESUMED). -/
def ideAnswer (s : State) (obj : Nat) (fs : List Nat) : State := emit s (.doe 2 ((obj :: fs).map (BitVec.ofNat 8)))

/-- QUERY. -/
def execQuery (tag : Bool) (port : Nat) (s : State) : Host.Outcome State Fault Refusal :=
  answer [.regs, .obs, .sec] s (whenHost s fun s => ideObject s tag fun s => ideAnswer s 1 [port])

/-- KEY_PROG: a key of a stream; status 3 for a place that does not exist. -/
def execKeyProg (tag : Bool) (stream set dir sub : Nat) (s : State) : Host.Outcome State Fault Refusal :=
  answer [.regs, .obs, .sec] s (whenHost s fun s => ideObject s tag fun s =>
    if ideKeyOk stream set dir sub then
      ideAnswer { s with sec := { s.sec with ideKeys := insRising s.sec.ideKeys (ideKey stream set dir sub) } } 3 [stream, 0, set, dir, sub]
    else ideAnswer s 3 [stream, 3, set, dir, sub])

/-- K_SET_GO: the key set comes into use, where its key was programmed. -/
def execKSetGo (tag : Bool) (stream set dir sub : Nat) (s : State) : Host.Outcome State Fault Refusal :=
  answer [.regs, .obs, .sec] s (whenHost s fun s => ideObject s tag fun s =>
    let s := if s.sec.ideKeys.contains (ideKey stream set dir sub) then
        { s with sec := { s.sec with ideGo := insRising s.sec.ideGo (ideKey stream set dir sub) } } else s
    ideAnswer (ideActive s) 6 [stream, set, dir, sub])

/-- K_SET_STOP: the key set leaves use. -/
def execKSetStop (tag : Bool) (stream set dir sub : Nat) (s : State) : Host.Outcome State Fault Refusal :=
  answer [.regs, .obs, .sec] s (whenHost s fun s => ideObject s tag fun s =>
    let s := { s with sec := { s.sec with ideGo := s.sec.ideGo.filter (· != ideKey stream set dir sub) } }
    ideAnswer (ideActive s) 6 [stream, set, dir, sub])

end Sys2Proof.Machine
end

