-- ==== Sys2Proof/Machine/Power.lean ====
section
/-! DEFINITION. Power.lean: power states, limits and gating, rails and reference clocks (R542 to R553, R626 to R628, R635). -/
namespace Sys2Proof.Machine

/-! ## Power states (R547, R548, Table PWR-3) -/

def psRun : Nat := 0
def psIdle : Nat := 1
def psParked : Nat := 2
def psSill : Nat := 3

def powerSt (s : State) : Nat := getF s PWR_STATE.CUR

/-- Every fetched descriptor is cancelled with substatus 0x0002, running ones at their next tile boundary. -/
def cancelAll (s : State) : State :=
  confine coreParts s (
    let s := (mvals s.que.slots).foldl (fun s sl =>
      if !unlaunched sl && sl.ph != .finishing && !unstoppable sl then stopRunning s sl.seq stCancelled 2 else s) s
    (mkeys s.que.ctx).foldl (fun s n => cancelUnlaunched s n 2 fun _ => true) s)

/-- The chip that goes into PARKED enters it once no descriptor is left: its ports become DISABLED. -/
def parkCheck (s : State) : State :=
  if !s.pwr.parking then s
  else
    let s := cancelAll s
    if s.que.slots.isEmpty && s.que.park.isEmpty && s.que.retryWait.isEmpty then
      let s := confine [.regs, .obs, .lnk] s
        (portNums.foldl (fun s p => setPortSt (setPort s p { keyNo := (portOf s p).keyNo }) p psDisabled) s)
      setF { s with pwr := { s.pwr with parking := false } } PWR_STATE.CUR 0 psParked
    else s

/-- A REQ that Table PWR-3 does not admit. -/
def badReq (s : State) : State := setEvt s PWR_EVT.BADREQ

/-- Leaving PARKED: the links train again; the store is joined at the next frame restart alone. -/
def leaveParked (s : State) : State :=
  confine [.regs, .obs, .lnk] s
    ((portNums.filter fun p => tstF s LNK_CFG.EN p && (isPeer s p || isEdge s p)).foldl toDetect (setF s PWR_STATE.CUR 0 psRun))

/-- A write of PWR_STATE.REQ; SILL is left over MCTP, and after a rail fault not so. -/
def pwrReq (s : State) (mctp : Bool) (req : Nat) : State :=
  let cur := powerSt s
  if req = psRun then
    if cur = psParked then leaveParked s
    else if cur = psSill ∧ mctp ∧ !s.pwr.railFault then railsUp (coldReset { s with pwr := { s.pwr with lref := true } })
    else badReq s
  else if req = psParked then
    if cur ≤ psIdle ∧ !tstF s HOME_DIRCFG.EN ∧ !s.pwr.parking then parkCheck { s with pwr := { s.pwr with parking := true } } else badReq s
  else if req = psSill ∧ cur = psParked then enterSill s
  else badReq s

/-- The host port reaches PWR_STATE while the fast domain runs; MCTP reaches it in every state. -/
def pwrReach (s : State) (mctp : Bool) : Bool := s.pwr.sill && (mctp || (s.pwr.fast && !s.hst.only))

/-- The chip's static address on I3C (R622), over which MCTP reaches it. -/
def i3cAddr : Nat := if Config.addrSel then 0x31 else 0x30

/-- PWR_REQ_RUN (R548). -/
def execPwrReqRun (mctp : Bool) (s : State) : Host.Outcome State Fault Refusal :=
  answer allParts s (if pwrReach s mctp then pwrReq s mctp 0 else s)

/-- PWR_REQ_PARKED (R547). -/
def execPwrReqParked (mctp : Bool) (s : State) : Host.Outcome State Fault Refusal :=
  answer allParts s (if pwrReach s mctp then pwrReq s mctp 2 else s)

/-- PWR_REQ_SILL (R547). -/
def execPwrReqSill (mctp : Bool) (s : State) : Host.Outcome State Fault Refusal :=
  answer allParts s (if pwrReach s mctp then pwrReq s mctp 3 else s)

/-- Arrays and plane engines are power-gated, or cannot be (R546). -/
def allGated (s : State) : Bool :=
  s.vsc.up.isEmpty && (partitioned s || !tstF s PWR_CFG.AGATE ||
    (List.range 32).all fun a => s.arr.gated.contains a || (regGet s .ARR_FENCED 0).getLsbD a)

/-- IDLE_ENTER (R547): 100 µs without work. -/
def execIdleEnter (s : State) : Host.Outcome State Fault Refusal :=
  answer [.regs, .obs] s (whenClock s fun s =>
    if powerSt s = psRun ∧ s.que.slots.isEmpty ∧ s.arr.held.isEmpty ∧ s.arr.waiting.isEmpty ∧ allGated s then
      setF s PWR_STATE.CUR 0 psIdle
    else s)

/-- ARRAY_POWER_GATE (R544, R546): array `a` has been idle for AIDLE µs. -/
def execArrayPowerGate (a : Nat) (s : State) : Host.Outcome State Fault Refusal :=
  answer [.arr] s (whenClock s fun s =>
    if tstF s PWR_CFG.AGATE ∧ !partitioned s ∧ arrayFree s a then { s with arr := { s.arr with gated := insRising s.arr.gated a } } else s)

/-- ARRAY_WAKE_DONE (R545). -/
def execArrayWakeDone (a : Nat) (s : State) : Host.Outcome State Fault Refusal :=
  answer [.arr] s (whenClock s fun s => { s with arr := { s.arr with waking := s.arr.waking.filter (· != a) } })

/-! ## Limits (R549 to R552) -/

def peakLimit (s : State) : Nat := min 1300 (getF s PWR_LIMIT.PEAK)
def sustLimit (s : State) : Nat := min 1100 (getF s PWR_LIMIT.SUST)

/-- One of the causes of R550 holds at the last sample. -/
def throttleCause (s : State) : Bool :=
  decide (peakLimit s < getF s PWR_MON.LAST) || decide (8000 ≤ s.pwr.over8) || decide (sustLimit s < getF s PWR_MON.MEAN)
    || decide (100 ≤ getF s PWR_MON.TMAX)

/-- The package trips (R552, R635). -/
def thermTrip (s : State) (sensor temp : Nat) : State :=
  let s := if s.pwr.fast then selfFence s else s
  let s := setEvt (ledger s 0x0E01 3 none [sensor, temp]) PWR_EVT.THERMTRIP
  emit (if powerSt s = psSill then s else enterSill s) (.pin "THERMTRIP#" 0 false)

/-- The counts of the power manager after a sample of `w` watts, with `temp` °C at the hottest sensor. -/
def sampled (s : State) (w temp : Nat) : State :=
  let s := setF (setF s PWR_MON.LAST 0 (min w 65535)) PWR_MON.TMAX 0 (min temp 65535)
  let sum := s.pwr.sum + w
  let cnt := s.pwr.cnt + 1
  let full := decide (100000 ≤ cnt)
  let s := if full then setF s PWR_MON.MEAN 0 (min (sum / cnt) 65535) else s
  let s := { s with pwr := { s.pwr with
    sum := if full then 0 else sum
    cnt := if full then 0 else cnt
    over8 := if sustLimit s < w then s.pwr.over8 + 1 else 0
    hot12 := if getF s PWR_MON.STEP = 12 ∧ 105 ≤ temp then s.pwr.hot12 + 1 else 0 } }
  { s with pwr := { s.pwr with clear := if throttleCause s then 0 else s.pwr.clear + 1 } }

/-- The package trips at `temp` °C: at 115, or after 10 ms at STEP 12 with 105 or more (R552). -/
def trips (s : State) (temp : Nat) : Bool :=
  (decide (115 ≤ temp) || decide (10000 ≤ s.pwr.hot12)) && !tstF s PWR_EVT.THERMTRIP

/-- A sample taken, and what follows from it. -/
def powerSample (s : State) (w temp sensor : Nat) : State :=
  let s := sampled s w temp
  parkCheck (if trips s temp then thermTrip s sensor temp else s)

/-- POWER_SAMPLE (R549). -/
def execPowerSample (w temp sensor : Nat) (s : State) : Host.Outcome State Fault Refusal :=
  answer allParts s (whenSill s fun s => powerSample s w temp sensor)

/-- A 2 µs mark (R550): STEP rises by one, or falls by one after 100 µs without a cause. -/
def throttleMark (s : State) : State :=
  let k := getF s PWR_MON.STEP
  if throttleCause s then
    let s := setF s PWR_MON.STEP 0 (min 12 (k + 1))
    if k = 0 then setEvt s PWR_EVT.THROT else s
  else if 0 < k ∧ 100 ≤ s.pwr.clear ∧ getF s PWR_MON.LAST * 100 ≤ sustLimit s * 95 then
    setF { s with pwr := { s.pwr with clear := 0 } } PWR_MON.STEP 0 (k - 1)
  else s

/-- THROTTLE_MARK (R550). -/
def execThrottleMark (s : State) : Host.Outcome State Fault Refusal := answer [.regs, .obs, .pwr] s (whenSill s throttleMark)

/-! ## Rails and references (R626 to R628) -/

/-- The RAILEN line that a rail follows: VIN 1, stack rails 2, VFIO and VPCIE 3 lines high. -/
def railNeeds (rail : Nat) : Nat := if rail = 0 then 1 else if rail ≤ 3 then 2 else 3

/-- RAIL_WITHIN_TOLERANCE (R626): rails 0 VIN, 1 VSTP, 2 VSTK, 3 VSTQ, 4 VFIO, 5 VPCIE. -/
def execRailWithinTolerance (rail : Nat) (s : State) : Host.Outcome State Fault Refusal :=
  answer [.regs, .obs, .pwr] s (whenSill s fun s =>
    if 6 ≤ rail ∨ s.pwr.railen < railNeeds rail then s
    else
      let s := { s with pwr := { s.pwr with rails := insRising s.pwr.rails rail } }
      let up (s : State) (k : Nat) : State := emit { s with pwr := { s.pwr with railen := k + 1 } } (.pin "RAILEN" k true)
      let s := if rail = 0 ∧ s.pwr.railen = 1 then up s 1 else if rail = 3 ∧ s.pwr.railen = 2 then up s 2 else s
      startBringup s)

/-- RAIL_FAULT (R628): `rail` as above, 6 for PWRGD. -/
def execRailFault (rail : Nat) (s : State) : Host.Outcome State Fault Refusal :=
  answer allParts s (whenSill s fun s =>
    if powerSt s = psSill then s
    else
      let s := if s.pwr.fast then selfFence s else s
      let s := ledgerFF s 0xE rail
      enterSill { s with pwr := { s.pwr with railFault := true } })

/-- LREF_LOSS (Table PKG-5, step 5). -/
def execLrefLoss (s : State) : Host.Outcome State Fault Refusal :=
  answer allParts s (whenSill s fun s =>
    if powerSt s = psSill then s else enterSill (ledgerFF { s with pwr := { s.pwr with lref := false } } 0xE 0))

/-- PREF_LOSS (Table PKG-5, step 6): DL_Down acts as a function-level reset of the physical function. -/
def execPrefLoss (s : State) : Host.Outcome State Fault Refusal :=
  answer (workParts ++ [.lnk, .sec, .pwr, .hst]) s (whenHost s fun s => pfReset { s with pwr := { s.pwr with pref := false } } 2)

/-- CRYSTAL_STOP (Table PKG-5, step 7): the internal oscillator takes over. -/
def execCrystalStop (s : State) : Host.Outcome State Fault Refusal :=
  answer [.obs, .pwr] s (whenSill s fun s => if s.pwr.crystal then ledgerFF { s with pwr := { s.pwr with crystal := false } } 0xE 0 else s)

/-- VSTBY_LOSS (Table PKG-5, step 4): every domain stops and the ledger is lost. -/
def execVstbyLoss (s : State) : Host.Outcome State Fault Refusal :=
  answer [.obs, .txq, .store, .home, .xlt, .que, .eng, .arr, .kv, .nmo, .emb, .vsc, .tim, .lnk, .sec, .red, .pwr, .hst, .fresh] s (whenSill s fun s =>
    let s := fastClear s
    { s with pwr := { sill := false, railen := 0, perst := s.pwr.perst } })

/-- What the sill domain itself forgets without its power (R598, R560). -/
def sillClear (s : State) : State :=
  { s with
    obs := { s.obs with fns := [], lqueue := [], lfull := 0, lwin := [], lsuppr := 0, lring := [], lseq := 1, lstream := [] }
    hst := {}
    sec := { s.sec with dbg := false, ideKeys := [], ideGo := [] }
    pwr := { perst := s.pwr.perst } }

/-- SILL_POWER_ON (R560, R598, R626): the sill domain's power-on, which is a cold reset too. -/
def execSillPowerOn (s : State) : Host.Outcome State Fault Refusal :=
  answer allParts s (if s.pwr.sill then s
    else resetRecord (sillClear (clearRegs (clearRegs (fastClear s) .cold) .sill)) 0)

end Sys2Proof.Machine
end

