-- ==== Sys2Proof/Machine/Sled.lean ====
section
/-! DEFINITION. Sled.lean: service of flash sleds (R554 to R559, R633). -/
namespace Sys2Proof.Machine

/-! States of Table PWR-5. -/
def slAbsent : Nat := 0
def slTesting : Nat := 1
def slStandby : Nat := 2
def slActive : Nat := 3
def slAbortwin : Nat := 4
def slQuiescing : Nat := 5
def slSafe : Nat := 6
def slFailed : Nat := 7

def sledSt (s : State) (n : Nat) : Nat := getF s PWR_SLED.STATE n

/-- The green power indicator of sled `n` (Table PWR-5). -/
def powerLed (s : State) (n : Nat) : Led :=
  let st := sledSt s n
  if st = slTesting ∨ st = slQuiescing then .blink
  else if st = slStandby ∨ st = slActive ∨ st = slAbortwin then .on
  else if st = slFailed ∧ s.pwr.sledOn.contains n then .on
  else .off

/-- The amber attention indicator of sled `n` (Table PWR-5). -/
def attnLed (s : State) (n : Nat) : Led :=
  let st := sledSt s n
  if st = slAbortwin then .blink else if st = slQuiescing then .on else if st = slFailed then .fast else .off

/-- Sled `n` enters state `st`, and its indicators show it (R554). -/
def setSled (s : State) (n st : Nat) : State :=
  let s := setF s PWR_SLED.STATE n st
  emit (emit s (.led "PWRLED" n (powerLed s n))) (.led "ATTNLED" n (attnLed s n))

/-- The sled's switch opens or closes. -/
def sledPower (s : State) (n : Nat) (on : Bool) : State :=
  emit { s with pwr := { s.pwr with
    sledOn := if on then insRising s.pwr.sledOn n else s.pwr.sledOn.filter (· != n)
    sledGood := s.pwr.sledGood.filter (· != n) } } (.pin "SLEDEN" n on)

/-- A sled leaves service with an event. -/
def sledFailed (s : State) (n : Nat) : State := setEvt (setSled s n slFailed) PWR_EVT.SLED

/-! ## Presses (R555) -/

/-- A press of the attention button. -/
def sledPress (s : State) (n : Nat) : State :=
  let st := sledSt s n
  if 4 ≤ n then s
  else if st = slActive then setSled s n slAbortwin
  else if st = slAbortwin then setSled s n slActive
  else if st = slStandby ∨ st = slTesting ∨ st = slFailed then setSled (sledPower s n false) n slSafe
  else s

/-- SLED_BUTTON_PRESS (R555). -/
def execSledButtonPress (n : Nat) (s : State) : Host.Outcome State Fault Refusal := answer [.regs, .obs, .pwr] s (whenSill s fun s => sledPress s n)

/-- PWR_SLED_PRESS (R555): a write of PWR_SLEDn with PRESS = 1, which also writes LEFT. -/
def execPwrSledPress (mctp : Bool) (n : Nat) (v : W64) (s : State) : Host.Outcome State Fault Refusal :=
  answer [.regs, .obs, .pwr] s (if pwrReach s mctp ∧ n < 4 then sledPress (setF s PWR_SLED.LEFT n (bget v PWR_SLED.LEFT.bf)) n else s)

/-! ## Quiesce (R556, R557) -/

/-- Secondary homes of the sled's MIRROR2 primaries, with the extents there. -/
def sledSecondaries (s : State) (n : Nat) : List (Nat × List Nat) :=
  let prim := (s.store.ext.filter fun e => decide (2 ^ 18 ≤ e.1) && decide ((e.1 - 2 ^ 18) / 65536 = n) && btst e.2 EXT.VALID
    && bget e.2 EXT.RCLASS == 1 && bget e.2 EXT.ROLE == 0).map (·.2)
  let chips := (prim.map fun r => bget r EXT.PCHIP).eraseDups.filter fun c => !fencedChip s c
  chips.map fun c => (c, (prim.filter fun r => bget r EXT.PCHIP == c).map fun r => bget r EXT.PEXT)

/-- Dirty pages of the sled's blocks. -/
def sledDirty (s : State) (n : Nat) : List (Nat × Page) :=
  s.store.pages.filter fun e => e.2.foreign == 0 && chOf (pg e.2 PAGE.BLOCK) / 16 == n
    && (pg e.2 PAGE.DMASK != 0 || pg e.2 PAGE.STATE == pgPartial || e.2.wbCopy.isSome)

/-- QUIESCING begins: scans leave at their stripe ends, secondaries are asked. -/
def quiesceStart (s : State) (n : Nat) : State :=
  let s := setSled s n slQuiescing
  if !live s then s
  else
    let s := confine workParts s (scanQuiesce s n)
    let l := sledSecondaries s n
    let s := { s with pwr := { s.pwr with mirrors := mput s.pwr.mirrors n (l.map (·.1)) } }
    l.foldl (fun s x => emit s (.mirrorFlush x.1 x.2)) s

/-- The sled's 16 channels leave service in one step, and its power is removed. -/
def sledOut (s : State) (n : Nat) : State :=
  let s := { s with store := { s.store with failedCh := ((List.range 16).map (16 * n + ·)).foldl insRising s.store.failedCh }
                    pwr := { s.pwr with mirrors := mdel s.pwr.mirrors n } }
  sledPower s n false

/-- ABORT_WINDOW_END (R555, R556). -/
def execAbortWindowEnd (n : Nat) (s : State) : Host.Outcome State Fault Refusal :=
  answer (workParts ++ [.pwr]) s (whenSill s fun s => if n < 4 ∧ sledSt s n = slAbortwin then quiesceStart s n else s)

/-- QUIESCE_WRITEBACK_DONE (R556): no dirty page is left and every secondary has reported. A fenced chip has stopped. -/
def execQuiesceWritebackDone (n : Nat) (s : State) : Host.Outcome State Fault Refusal :=
  answer [.regs, .obs, .store, .pwr] s (whenSill s fun s =>
    if n < 4 ∧ sledSt s n = slQuiescing ∧ !s.red.selfFenced ∧ (sledDirty s n).isEmpty
        ∧ ((mgetD [] s.pwr.mirrors n).filter fun c => !fencedChip s c).isEmpty then
      setSled (sledOut s n) n slSafe
    else s)

/-- QUIESCE_TIMEOUT (R557). -/
def execQuiesceTimeout (n : Nat) (s : State) : Host.Outcome State Fault Refusal :=
  answer [.regs, .obs, .store, .pwr] s (whenSill s fun s =>
    if n < 4 ∧ sledSt s n = slQuiescing ∧ !s.red.selfFenced then
      sledFailed (sledOut (setF s PWR_SLED.LEFT n (sledDirty s n).length) n) n
    else s)

/-- MIRROR_WRITEBACK_REQUEST (R556): chip `chip` asks for the write-back of the mirror pages of these extents of this chip. -/
def execMirrorWritebackRequest (chip : Nat) (exts : List Nat) (s : State) : Host.Outcome State Fault Refusal :=
  answer [.obs, .pwr] s (whenLive s fun s => flushCheck { s with pwr := { s.pwr with flush := s.pwr.flush ++ [(chip, exts)] } })

/-- MIRROR_PAGES_WRITTEN (R556): secondary `chip` reports the mirror pages of sled `n` written. -/
def execMirrorPagesWritten (chip n : Nat) (s : State) : Host.Outcome State Fault Refusal :=
  answer [.pwr] s (whenLive s fun s => { s with pwr := { s.pwr with mirrors := mmod s.pwr.mirrors n fun l => l.filter (· != chip) } })

/-! ## The latch (R558, R559, R633) -/

/-- Surprise removal: its 16 channels fail at once. -/
def sledSurprise (s : State) (n : Nat) : State :=
  let s := confine workParts s (((List.range 16).map (16 * n + ·)).foldl channelFail s)
  let s := sledPower { s with pwr := { s.pwr with mirrors := mdel s.pwr.mirrors n } } n false
  report (setF (setSled s n slAbsent) PWR_SLED.SURPRISE n 1) 0x0B n 0 0

/-- SLED_LATCH_OPEN (R558). -/
def execSledLatchOpen (n : Nat) (s : State) : Host.Outcome State Fault Refusal :=
  answer (workParts ++ [.pwr]) s (whenSill s fun s =>
    if 4 ≤ n ∨ sledSt s n = slAbsent then s
    else if sledSt s n = slSafe then setEvt (setF (setSled s n slAbsent) PWR_SLED.SURPRISE n 0) PWR_EVT.SLED
    else setEvt (sledSurprise s n) PWR_EVT.SLED)

/-- SLED_LATCH_CLOSE (R559): the sled is powered, and TESTING starts. -/
def execSledLatchClose (n : Nat) (s : State) : Host.Outcome State Fault Refusal :=
  answer [.regs, .obs, .pwr] s (whenSill s fun s => if n < 4 ∧ sledSt s n = slAbsent then setSled (sledPower s n true) n slTesting else s)

/-- SLED_POWER_GOOD (R633). -/
def execSledPowerGood (n : Nat) (s : State) : Host.Outcome State Fault Refusal :=
  answer [.pwr] s (whenSill s fun s =>
    if s.pwr.sledOn.contains n then { s with pwr := { s.pwr with sledGood := insRising s.pwr.sledGood n } } else s)

/-- SLED_POWER_GOOD_TIMEOUT (R633): SLEDPG has not risen within 100 ms. -/
def execSledPowerGoodTimeout (n : Nat) (s : State) : Host.Outcome State Fault Refusal :=
  answer [.regs, .obs] s (whenSill s fun s => if n < 4 ∧ sledSt s n = slTesting ∧ !s.pwr.sledGood.contains n then sledFailed s n else s)

/-- What another sled brings: the blocks of the sled's window, erase blocks retired and channels failed by wear. -/
def sledContent (s : State) (n : Nat) (m : AMap FarBlock) (retired failCh : Nat) : State :=
  let mine (b : Nat) : Bool := decide (b / 2 ^ 34 = n)
  let kept := mfilter s.store.far fun b _ => !mine b
  { s with store := { s.store with far := mputAll {} kept (m.filter fun e => mine e.1)
                                   sledRetired := mputD 0 s.store.sledRetired n retired
                                   sledFailCh := mputD 0 s.store.sledFailCh n failCh } }

/-- Extents of 1 GiB in the 60 TB that a sled can use (R221). -/
def sledUsable : Nat := 60000000000000 / 2 ^ 30

/-- SLED_TEST_DONE (R559): the test of a sled with `exts` populated extents ends; `content` holds what a sled brings that was
not in this slot before. -/
def execSledTestDone (n : Nat) (pass : Bool) (exts : Nat) (content : Option (AMap FarBlock × Nat × Nat)) (s : State) : Host.Outcome State Fault Refusal :=
  answer [.regs, .obs, .store] s (whenSill s fun s =>
    if n < 4 ∧ sledSt s n = slTesting ∧ s.pwr.sledGood.contains n then
      if pass then
        let s := match content with
          | some m => sledContent s n m.1 m.2.1 m.2.2
          | none => s
        let s := { s with store := { s.store with sledExtents := mputD 0 s.store.sledExtents n (min exts sledUsable) } }
        setEvt (setSled s n slStandby) PWR_EVT.SLED
      else sledFailed s n
    else s)

end Sys2Proof.Machine
end

