-- ==== Sys2Proof/Machine/Bringup.lean ====
section
/-! DEFINITION. Bringup.lean: the stages of bring-up, the boot chain, and restart (R508, R529, R579 to R584, R504). -/
namespace Sys2Proof.Machine

def stage (s : State) : Nat := getF s GLB_STAT.STAGE

def toStage (s : State) (k : Nat) : State := setF s GLB_STAT.STAGE 0 k

/-- The boot has completed stage `k` of Table SEC-4. -/
def boot (s : State) (k : Nat) : State := setF s SEC_BOOT.STAGE 0 k

/-! ## Stages 1 to 3 -/

/-- Stage 1 (R580). -/
def hostupEnd (s : State) (e : StageEnd) : State :=
  if linkOk e.speed e.width then toStage (emit (linkTrained s e.speed e.width e.flit) .readiness) 2 else s

/-- Stage 2: boot stages 1 to 4; the manifest has verified (R531). -/
def bootEnd (s : State) (e : StageEnd) : State :=
  toStage (boot { s with sec := { s.sec with manifest := e.manifest, tcount := e.tcount } } 4) 3

/-- A pool of 1 to 256 extents (R192). -/
def poolSetting (r : Reg) (v : W64) : Bool :=
  r != .TIER_STGPOOL || decide (1 ≤ bget v TIER_STGPOOL.COUNT.bf ∧ bget v TIER_STGPOOL.COUNT.bf ≤ 256)

/-- One setting of the manifest: an RWL register takes it, any other is skipped with a record (R531), and so is a staging pool of a
size that R192 does not allow (DESIGN CHOICE, log entry 116). -/
def applySetting (s : State) (e : Nat × W64) : State :=
  match regAt e.1 with
  | some (r, i) =>
    if ((fieldsOf r).any fun f => f.acc == .rwl) && poolSetting r e.2 then rwlWrite s r i e.2 else ledger s 0x0D02 0 none [e.1]
  | none => ledger s 0x0D02 0 none [e.1]

/-- Stage 3: boot stage 5. Settings first, then SEALED (Table REG-20, step 4). -/
def sealedEnd (s : State) : State :=
  let s := (manifestSettings s.sec.manifest).foldl applySetting s
  let s := setF (boot s 5) SEC_BOOT.SEALED 0 1
  toStage { s with pwr := { s.pwr with fast := true } } 4

/-! ## Stage 4: stacks (R17, R638) -/

/-- Boot stage 6 begins: the vault is unwrapped, unless the owner changed or debug is unlocked (R524, R532, R540). -/
def unwrapVault (s : State) (ok : Bool) : State :=
  let o := ofBytes 384 (ownerHash s)
  if o ≠ s.sec.vOwner then { s with sec := { s.sec with vFsid := 0, vOwner := o, vKgen := [] } }
  else if !ok || s.sec.dbg then s
  else
    let s := s.sec.vKgen.foldl (fun s e => setF s TEN_SECCTL.KGEN e.1 e.2) s
    if s.sec.vFsid = 0 then s else takeSeed s s.sec.vFsid

/-- Failed pseudo-channels are retired, and every near-tier line is initialised. -/
def stacksEnd (s : State) (e : StageEnd) : State :=
  let bad := (e.badPc.filter fun p => decide (p < 512)).foldl insRising s.store.retiredPc
  let s := { s with store := { s.store with near := [], failedPc := [], retiredPc := bad } }
  let s := setF (setF s TIER_NEARCAP.RETIRED 0 (min 255 bad.length)) TIER_NEARCAP.EXTENTS 0 (576 - 2 * bad.length)
  toStage (unwrapVault s e.vaultOk) 5

/-! ## Stage 6: plan (R20, R233) -/

/-- A sled that joins the store at this restart. -/
def sledJoins (s : State) (n : Nat) : Bool := sledSt s n == slStandby || sledSt s n == slActive

/-- TIER_FARCAP of sled `n`. -/
def setFarCap (s : State) (n k : Nat) : State :=
  setF s (match n with
    | 0 => TIER_FARCAP.SLED0
    | 1 => TIER_FARCAP.SLED1
    | 2 => TIER_FARCAP.SLED2
    | _ => TIER_FARCAP.SLED3) 0 k

/-- The durable records of sled `n` are reloaded. -/
def sledReload (s : State) (n : Nat) : State :=
  let s := setFarCap s n (mgetD 0 s.store.sledExtents n)
  let q := (s.store.far.filter fun e => decide (e.1 / 2 ^ 34 = n) && e.2.quar).length
  let s := satF s TIER_QUARCNT.BLOCKS 0 q
  let s := setF (setF s TIER_WEAR.RETIRED n (mgetD 0 s.store.sledRetired n)) TIER_WEAR.FAILCH n (mgetD 0 s.store.sledFailCh n)
  let (k, s) := takeFresh s
  setF s TIER_WEAR.SPARE n (Config.pick k % 101)

/-- Stage 6: it waits for the RESTART order without limit. -/
def planEnd (s : State) (e : StageEnd) : State :=
  if s.red.restore.isNone then s
  else
    let s := ((List.range 4).filter (sledJoins s)).foldl sledReload (setF s TIER_QUARCNT.BLOCKS 0 0)
    toStage { s with home := { s.home with caching := e.caching.foldl insRising [], hops := e.hops, caps := e.caps } } 7

/-! ## Stage 7: restore and join (R504, R508, Table FLT-12) -/

/-- An extent record as it is restored. -/
def restoredExt (r : BitVec 128) : BitVec 128 :=
  let st := bget r EXT.STATE
  if st = exRebuilding then bset r EXT.STATE exDegraded else if st = exRetiring then bset r EXT.STATE exIdle else r

/-- A version record as it is restored. -/
def restoredVer (r : BitVec 512) : BitVec 512 :=
  let r := bset r VER.PREV 0
  if bget r VER.STATE = vrRetiring then bset r VER.STATE vrPublished else r

/-- A staging page as it is restored: what a write-back had copied is dirty again. -/
def restoredPage (g : Page) : Page :=
  let m := (g.wbCopy.map fun (x : BitVec 32768 × BitVec 8) => x.2.toNat).getD 0
  let st := if pg g PAGE.STATE = pgPartial then pgPartial else pgDirty
  { entry := bset (bset (bset (bset g.entry PAGE.STATE st) PAGE.DMASK (pg g PAGE.DMASK ||| m)) PAGE.HELD 0) PAGE.WAITERS 0
    foreign := g.foreign, data := g.data, sdirty := g.sdirty, poison := g.poison, slost := g.slost }

/-- USED of the extents, tallies and pages of a tenant, counted again. -/
def recount (s : State) : State :=
  let charge (s : State) (f : Fld) (t : Nat) : State := setF s f t (getF s f t + 1)
  let s := (List.range 512).foldl (fun s t =>
    [TEN_QUOTA_NEAR.USED, TEN_QUOTA_FAR.USED, TEN_QUOTA_TALLY.USED, TEN_QUOTA_STG.USED].foldl (fun s f => setF s f t 0) s) s
  let s := s.store.ext.foldl (fun s e =>
    if btst e.2 EXT.VALID && !btst e.2 EXT.SYS then
      charge s (if e.1 < 2 ^ 18 then TEN_QUOTA_NEAR.USED else TEN_QUOTA_FAR.USED) (bget e.2 EXT.OWNER)
    else s) s
  let s := s.store.tally.foldl (fun s e => if btst e.2 TALLY.EN then charge s TEN_QUOTA_TALLY.USED (bget e.2 TALLY.OWNER) else s) s
  s.store.pages.foldl (fun s e => if btst e.2.entry PAGE.SYSX then s else charge s TEN_QUOTA_STG.USED (pg e.2 PAGE.TENANT)) s

/-- Near-tier pages of a slot put back. -/
def restoreNear (s : State) (c : CutSlot) : State :=
  c.near.foldl (fun s e => ((List.range 64).zip e.2).foldl (fun s x => nearPut s (4096 * e.1 + 64 * x.1) x.2) s) s

/-- The store as cut slot `c` holds it. The flash of a sled that was held in standby keeps its own content. -/
def restoreCut (s : State) (c : CutSlot) : State :=
  let active (b : Nat) : Bool := sledSt s (b / 2 ^ 34 % 4) == slActive
  let kept := mfilter s.store.far fun b _ => !active b
  let far := mputAll {} kept (c.far.filter fun e => active e.1)
  let pages := (List.range c.stg.length).zip ((mvals c.stg).map restoredPage)
  let s := { s with store := { s.store with
    far := far
    ext := mputAll 0 [] (mmap c.ext fun _ r => restoredExt r)
    ver := mputAll 0 [] (mmap c.ver fun _ r => restoredVer r)
    pgr := mputAll 0 [] c.pgr
    tally := mputAll 0 [] c.tally
    pages := pages } }
  let s := setF s TIER_QUARCNT.BLOCKS 0 (min (2 ^ 32 - 1) (far.filter fun e => e.2.quar && sledJoins s (e.1 / 2 ^ 34 % 4)).length)
  regSet (recount (restoreNear s c)) .RED_CUTSEAL 0 (BitVec.ofNat 64 c.id)

/-- The sealed cut of this chip with that number, or the one reconstructed for a fenced chip. -/
def cutToRestore (s : State) (id : Nat) (given : Option CutSlot) : Option CutSlot :=
  match given with
  | some c => if c.id = id then some c else none
  | none => (mvals s.red.slots).find? fun c => c.sealed && c.id == id

/-- The chip may join a frame store (R15, R18). -/
def mayJoin (s : State) : Bool := decide (s.store.retiredPc.length ≤ 16) && !tstF s TIER_NEARILV.HASH_OFF

/-- The records of the staging pool's extents: SYS, DIRECT, NONE, in service (R192). -/
def setPool (s : State) : State :=
  (List.range (poolCount s)).foldl (fun s i =>
    setExt s 0 (getF s TIER_STGPOOL.BASE + i)
      (bset (bset (bset (bset 0 EXT.VALID 1) EXT.SYS 1) EXT.ATTR 1) EXT.STATE exNormal)) s

/-- The store is joined: READY (R584). -/
def join (s : State) : State :=
  let s := setPool s
  let s := ((List.range 4).filter fun n => sledSt s n == slStandby).foldl (fun s n => setSled s n slActive) s
  let s := { setF s HOME_DIRCFG.EN 0 1 with red := { (setF s HOME_DIRCFG.EN 0 1).red with restore := none } }
  setEvt (setF s GLB_STAT.READY 0 1) HST_EVT.READY

/-- Stage 7: the named cut is restored, and the store joined; without the cut the chip does not join. -/
def readyEnd (s : State) (e : StageEnd) : State :=
  if tstF s GLB_STAT.READY || !mayJoin s then s
  else match s.red.restore with
    | none => s
    | some (0, _) => join s
    | some (id, _) =>
      match cutToRestore s id e.slot with
      | some c => join (restoreCut s c)
      | none => s

/-! ## Commands -/

/-- Bring-up goes on: it has not failed, and the chip is not PARKED. -/
def bringupRuns (s : State) : Bool := s.pwr.sill && !tstF s GLB_STAT.FAILED && decide (powerSt s ≤ psIdle) && !s.red.selfFenced

/-- BRINGUP_STAGE_END (R579): the current stage completes. -/
def execBringupStageEnd (e : StageEnd) (s : State) : Host.Outcome State Fault Refusal :=
  answer [.regs, .obs, .store, .home, .sec, .red, .pwr, .fresh] s (if !bringupRuns s then s
    else match stage s with
      | 1 => hostupEnd s e
      | 2 => bootEnd s e
      | 3 => sealedEnd s
      | 4 => stacksEnd s e
      | 5 => toStage (boot s 6) 6
      | 6 => planEnd s e
      | 7 => readyEnd s e
      | _ => s)

/-- The stage whose boot stage fails with ERR `err` (Table SEC-4, Table HST-4); 0: a limit of time. -/
def failStage (err : Nat) : Nat := if err ≤ 4 then 2 else if err = 5 then 3 else 5

/-- The current stage may fail so. Stages 5 and 6 have no limit of time before the order (R581). -/
def mayFail (s : State) (err : Nat) : Bool :=
  if err = 0 then
    decide (1 ≤ stage s) && stage s != 5 && (stage s != 6 || s.red.restore.isSome) && !tstF s GLB_STAT.READY
  else decide (err ≤ 6) && stage s == failStage err

/-- BRINGUP_STAGE_LIMIT (R529, R582): the stage exceeds its limit, or boot stage `err` fails. -/
def execBringupStageLimit (err : Nat) (s : State) : Host.Outcome State Fault Refusal :=
  answer [.regs, .obs] s (if !bringupRuns s || !mayFail s err then s
    else
      let s := setF s GLB_STAT.FAILED 0 1
      if err = 0 then s else setF (boot s (err - 1)) SEC_BOOT.ERR 0 err)

/-- RESTART (R508, R537, R581): held while bring-up is under way; later it starts a warm reset, whose bring-up it then governs. -/
def execRestart (oseq : Nat) (ok : Bool) (cut plan : Nat) (s : State) : Host.Outcome State Fault Refusal :=
  answer allParts s (if !s.pwr.sill || decide (getF s SEC_BOOT.STAGE < 4) || s.hst.only then s
    else order s oseq ok fun s =>
      let s := if stage s = 7 then warmReset s else s
      { s with red := { s.red with restore := some (cut, plan) } })

end Sys2Proof.Machine
end

