-- ==== Sys2Proof/Machine/Park.lean ====
section
/-! DEFINITION. Park.lean: fault records, batches, resumption, and the shootdown commands (R66 to R76, R79 to R85). -/
namespace Sys2Proof.Machine

/-- The queues of tenant `t` that its fault ring stopped fetch again. -/
def fringResume (s : State) (t : Nat) : State :=
  s.que.stopped.foldl (fun s e => if e.2.contains .fring && qTen s e.1 == t then unstop s e.1 .fring else s) s

/-- The oldest held record is written where the ring takes one; after the last one fetching resumes (R70, R71). -/
def faultWrite (s : State) (t : Nat) : State :=
  match heldRecs s t with
  | [] => s
  | e :: _ =>
    if tstF s TEN_FRING_CTL.EN t && decide (fringUsed s t < fringSize s t) then
      let s := fringPut s t e.1 e.2
      if (heldRecs s t).isEmpty then fringResume s t else s
    else s

/-- FAULT_RECORD_WRITE (R70). -/
def execFaultRecordWrite (ten : Nat) (s : State) : Host.Outcome State Fault Refusal := answer [.regs, .obs, .txq, .store, .xlt, .que, .eng, .red, .fresh] s (whenLive s fun s => faultWrite s ten)

/-- FAULT_BATCH_CLOSE (R70): 2 µs after the batch opened. -/
def execFaultBatchClose (ten : Nat) (s : State) : Host.Outcome State Fault Refusal := answer [.obs, .xlt] s (whenLive s fun s => closeBatch s ten)

/-- FAULT_RING_HEAD_WRITE (R71). -/
def execFaultRingHeadWrite (ten : Nat) (v : W64) (s : State) : Host.Outcome State Fault Refusal :=
  answer [.regs, .obs, .txq, .store, .xlt, .que, .eng, .red, .fresh] s (whenLive s fun s => fringDrain (setF s TEN_FRING_HEAD.INDEX ten v.toNat) ten)

/-- FAULT_RING_ENABLE (R71): a write of TEN_FRING_CTL. -/
def execFaultRingEnable (ten : Nat) (v : W64) (s : State) : Host.Outcome State Fault Refusal :=
  answer [.regs, .obs, .txq, .store, .xlt, .que, .eng, .red, .fresh] s (whenLive s fun s =>
    let s := setF (setF (setF s TEN_FRING_CTL.VEC ten (bget v TEN_FRING_CTL.VEC.bf)) TEN_FRING_CTL.LOG2N ten
      (bget v TEN_FRING_CTL.LOG2N.bf)) TEN_FRING_CTL.EN ten (bget v TEN_FRING_CTL.EN.bf)
    if tstF s TEN_FRING_CTL.EN ten then fringDrain s ten else s)

/-- A list of waiting descriptors with `sl` in it, in launch order. -/
def insSlot (l : List Slot) (sl : Slot) : List Slot :=
  match l with
  | [] => [sl]
  | x :: t => if sl.seq < x.seq then sl :: x :: t else x :: insSlot t sl

/-- A tally that the descriptor waits on has reached its target (R182). -/
def tallyRecheck (s : State) (sl : Slot) : Slot := tallyPass s (hd sl.d DHDR.TALLY) sl

/-- A parked descriptor goes back to the pre-translator (R75, R96). A record still held goes with it (log entry 114). -/
def unpark (s : State) (p : Nat) (k : Parked) : State :=
  let s := freePark s p
  let sl := tallyRecheck s k.slot
  if slotFree s sl.ctx then setSlot s sl.seq sl
  else { s with que := { s.que with retryWait := insSlot s.que.retryWait sl } }

/-- A parked descriptor completed with FAULT_UNRESOLVED. -/
def parkEnd (s : State) (p : Nat) (sub : Nat) : State := completeParked s p stFaultUnres sub

/-- A resume whose slot generation has gone. -/
def staleResume (s : State) (t p g : Nat) : State := ledger (setF s TEN_FSTAT.STALE t 1) 0x0302 0 (some t) [p, g]

/-- The deadline of a parked descriptor has passed. -/
def parkLate (s : State) (k : Parked) : Bool :=
  let dl := deadlineAt s k.slot.ctx k.slot.ftime k.slot.d
  decide (dl ≠ 0 ∧ dl ≤ s.tim.now.toNat)

/-- The parked descriptor that TEN_FRESUME names, or the write is stale. A deadline that has passed, in the same fclk too, wins:
the resume then finds the next generation (Table XLT-4). -/
def resume (s : State) (t p g : Nat) (f : State → Parked → State) : State :=
  match mget s.que.park (p % 2048) with
  | some k =>
    if qTen s k.slot.ctx = t ∧ mgetD 0 s.que.parkGen (p % 2048) = g then
      if parkLate s k then staleResume (parkEnd s (p % 2048) (0x0100 + k.kind)) t p g else f s k
    else staleResume s t p g
  | none => staleResume s t p g

/-- RESUME_RETRY (R75). -/
def execResumeRetry (ten pslot gen : Nat) (s : State) : Host.Outcome State Fault Refusal :=
  answer coreParts s (whenLive s fun s => resume s ten pslot gen fun s k => unpark s (pslot % 2048) k)

/-- RESUME_ABORT (R75). -/
def execResumeAbort (ten pslot gen : Nat) (s : State) : Host.Outcome State Fault Refusal :=
  answer coreParts s (whenLive s fun s => resume s ten pslot gen fun s k => parkEnd s (pslot % 2048) k.kind)

/-- PARKED_DEADLINE_EXPIRE (R76). -/
def execParkedDeadlineExpire (pslot : Nat) (s : State) : Host.Outcome State Fault Refusal :=
  answer coreParts s (whenLive s fun s => match mget s.que.park pslot with
    | some k => if hasDeadline s k.slot.ctx k.slot.d then parkEnd s pslot (0x0100 + k.kind) else s
    | none => s)

/-- PARK_SLOT_AVAILABLE (R71). -/
def execParkSlotAvailable (n : Nat) (s : State) : Host.Outcome State Fault Refusal :=
  answer [.que] s (whenLive s fun s => if parkFree s (qTen s n) then unstop s n .park else s)

/-- SPILL_SPACE_AVAILABLE (R63). -/
def execSpillSpaceAvailable (n : Nat) (s : State) : Host.Outcome State Fault Refusal :=
  answer [.que] s (whenLive s fun s => if spillUsed s < spillCap s then unstop s n .spill else s)

/-! ## Shootdowns -/

/-- A write of XLT_INVAL_CTL with GO and one of the kinds 0 to 3. Its RW fields are stored also where GO is then ignored because 16
shootdowns are open; a write with a reserved kind stores nothing (DESIGN CHOICE, log entry 118). -/
def invalGo (s : State) (kind : Nat) (v : W64) : State :=
  let s := setF (setF (setF (setF s XLT_INVAL_CTL.IRQ 0 (bget v XLT_INVAL_CTL.IRQ.bf)) XLT_INVAL_CTL.SCOPE 0
    (bget v XLT_INVAL_CTL.SCOPE.bf)) XLT_INVAL_CTL.KIND 0 kind) XLT_INVAL_CTL.TENANT 0 (bget v XLT_INVAL_CTL.TENANT.bf)
  shootDriver s kind (bget v XLT_INVAL_CTL.TENANT.bf) (btst v XLT_INVAL_CTL.SCOPE.bf) (btst v XLT_INVAL_CTL.IRQ.bf)

/-- SHOOTDOWN_VA (R80, R81). -/
def execShootdownVa (v : W64) (s : State) : Host.Outcome State Fault Refusal := answer coreParts s (whenLive s fun s => invalGo s 0 v)

/-- SHOOTDOWN_TENANT (R80). -/
def execShootdownTenant (v : W64) (s : State) : Host.Outcome State Fault Refusal := answer coreParts s (whenLive s fun s => invalGo s 1 v)

/-- SHOOTDOWN_EXTENT (R80). -/
def execShootdownExtent (v : W64) (s : State) : Host.Outcome State Fault Refusal := answer coreParts s (whenLive s fun s => invalGo s 2 v)

/-- SHOOTDOWN_REGION (R80). -/
def execShootdownRegion (v : W64) (s : State) : Host.Outcome State Fault Refusal := answer coreParts s (whenLive s fun s => invalGo s 3 v)

/-- SHOOTDOWN_RESERVED_KIND (R85): the write is ignored and logged. -/
def execShootdownReservedKind (v : W64) (s : State) : Host.Outcome State Fault Refusal :=
  answer [.obs] s (whenFast s fun s => if bget v XLT_INVAL_CTL.KIND.bf < 4 then s else ledgerFF s 3 (regPlace .XLT_INVAL_CTL).base)

/-- The open shootdown with the model's number `id`. -/
def shootAt (s : State) (id : Nat) : Option Shoot := s.xlt.shoots.find? fun h => h.id == id

/-- SHOOTDOWN_DRAINED (R81, R84): originated here or received. -/
def execShootdownDrained (id : Nat) (s : State) : Host.Outcome State Fault Refusal :=
  answer [.regs, .obs, .txq, .store, .xlt] s (whenLive s fun s => match shootAt s id with
    | some h => if h.publish.isNone then shootDrained s h else s
    | none => s)

/-- PUBLISH_DRAINED (R84, Table STO-9). -/
def execPublishDrained (id : Nat) (s : State) : Host.Outcome State Fault Refusal :=
  answer [.regs, .obs, .txq, .store, .xlt] s (whenLive s fun s => match shootAt s id with
    | some h => if h.publish.isSome then shootDrained s h else s
    | none => s)

/-- The model's number of a shootdown received from `chip` with its identifier `id`. -/
def shootNo (chip id : Nat) : Nat := 65536 * (chip + 1) + id

/-- SHOOT (R83, R85): applied at once, acknowledged as dropped; its drained point follows. One from a chip that is fenced here, one
with a reserved kind, and one whose source and identifier are already open, is ignored without an acknowledgement: the spec does
not say (DESIGN CHOICE, log entry 119). -/
def execShoot (chip id kind addr len ten : Nat) (s : State) : Host.Outcome State Fault Refusal :=
  answer [.regs, .obs, .txq, .xlt, .que] s (whenLive s fun s =>
    if (shootAt s (shootNo chip id)).isSome || 4 ≤ kind || fencedChip s chip then s else
    let s := shootHere s kind ten addr len
    let h : Shoot := { id := shootNo chip id, kind := kind, addr := addr, len := len, ten := ten, frame := false,
                       src := some (chip, id), holders := holdersNow s kind ten, dropped := true }
    send { s with xlt := { s.xlt with shoots := s.xlt.shoots ++ [h] } } (shootAck s chip id 0))

/-- An acknowledgement from `chip` counted toward a shootdown of this chip. -/
def shootCount (s : State) (h : Shoot) (chip : Nat) (drained : Bool) : State :=
  let s := modShoot s h.id none fun h =>
    if drained then { h with waitDrain := h.waitDrain.filter (· != chip) } else { h with waitDrop := h.waitDrop.filter (· != chip) }
  match shootAt s h.id with
  | some h => if drained then shootDrained s h else dropPoint s h
  | none => s

/-- SHOOT_ACK (R83). -/
def execShootAck (chip id : Nat) (drained : Bool) (s : State) : Host.Outcome State Fault Refusal :=
  answer coreParts s (whenLive s fun s => match s.xlt.shoots.find? fun h => h.id == id && h.src.isNone with
    | some h => shootCount s h chip drained
    | none => s)

end Sys2Proof.Machine
end

