-- ==== Sys2Proof/Machine/Queue.lean ====
section
/-! DEFINITION. Queue.lean: queue contexts, doorbells, fetch, arrival, launch and deadlines of descriptors, moderation
and host reads (chapters "Queues, doorbells and completions" and "Host port and bring-up"). -/
namespace Sys2Proof.Machine

/-! ## Contexts -/

/-- QUEUE_CONTEXT_ENABLE (R89, R90): a write of word 2 with EN = 1. -/
def execQueueContextEnable (n : Nat) (v : W64) (s : State) : Host.Outcome State Fault Refusal :=
  answer coreParts s (whenLive s fun s => if n < 4096 then ctxWrite s n 2 (v ||| 1) else s)

/-- QUEUE_CONTEXT_DISABLE (R91): a write of word 2 with EN = 0. -/
def execQueueContextDisable (n : Nat) (v : W64) (s : State) : Host.Outcome State Fault Refusal :=
  answer coreParts s (whenLive s fun s => if n < 4096 then ctxWrite s n 2 (v &&& ~~~1#64) else s)

/-- QUEUE_DRAIN_END (R91): INFL of a draining queue reads 0; the queue quota is released (Table TIR-10). -/
def execQueueDrainEnd (n : Nat) (s : State) : Host.Outcome State Fault Refusal :=
  answer [.regs, .obs, .que] s (whenLive s fun s =>
    if cq s n QCTX.STATE = qDraining ∧ cq s n QCTX.INFL = 0 then
      let s := setQ s n QCTX.STATE qDisabled
      if qPrv s n then s else chargeQ s TEN_QUOTA_QUEUE.USED (qTen s n) false
    else s)

/-! ## Doorbells -/

/-- SQ_TAIL (R97, R98). -/
def execSqTail (prv : Bool) (ten q : Nat) (v : W64) (s : State) : Host.Outcome State Fault Refusal :=
  answer [.regs, .obs, .que] s (whenLive s fun s => ringSqTail s ⟨prv, ten, q⟩ (bget v ⟨0, 16⟩))

/-- CQ_HEAD (R97, R98). -/
def execCqHead (prv : Bool) (ten q : Nat) (v : W64) (s : State) : Host.Outcome State Fault Refusal :=
  answer [.regs, .obs, .que] s (whenLive s fun s => ringCqHead s ⟨prv, ten, q⟩ (bget v ⟨0, 16⟩))

/-- RESUME (R117). -/
def execResume (prv : Bool) (ten q : Nat) (s : State) : Host.Outcome State Fault Refusal :=
  answer [.obs, .que] s (whenLive s fun s => ringResume s ⟨prv, ten, q⟩)

/-- CANCEL_ALL (R118). -/
def execCancelAll (prv : Bool) (ten q : Nat) (s : State) : Host.Outcome State Fault Refusal :=
  answer workParts s (whenLive s fun s => layerTick (ringCancel s ⟨prv, ten, q⟩ none))

/-- CANCEL_TAG (R118). -/
def execCancelTag (prv : Bool) (ten q tag : Nat) (s : State) : Host.Outcome State Fault Refusal :=
  answer workParts s (whenLive s fun s => layerTick (ringCancel s ⟨prv, ten, q⟩ (some tag)))

/-- DOORBELL_MISSIZED_WRITE (R97): ignored whole; the record names the page and the offset. -/
def execDoorbellMissizedWrite (prv : Bool) (page off : Nat) (s : State) : Host.Outcome State Fault Refusal :=
  answer [.obs] s (whenLive s fun s => misBell s prv page off)

/-! ## Descriptors -/

/-- DESCRIPTOR_FETCH (R96, R100). -/
def execDescriptorFetch (n : Nat) (s : State) : Host.Outcome State Fault Refusal := answer workParts s (whenLive s fun s => fetch s n)

/-- DESCRIPTOR_ARRIVE (R104, R182, R432): the read of queue `n` from index `first` returns. -/
def execDescriptorArrive (n first : Nat) (ds : List Desc) (s : State) : Host.Outcome State Fault Refusal :=
  answer coreParts s (whenLive s fun s => arrive s arrivalState n first ds)

/-- DESCRIPTOR_LAUNCH (R105). -/
def execDescriptorLaunch (sq : Nat) (s : State) : Host.Outcome State Fault Refusal := answer coreParts s (whenLive s fun s => launch s sq)

/-- DESCRIPTOR_DEADLINE (R106). -/
def execDescriptorDeadline (sq : Nat) (s : State) : Host.Outcome State Fault Refusal := answer workParts s (whenLive s fun s => deadline s sq)

/-- INTERRUPT_MODERATION_TIMER (R121): ITIME after the first signalling completion. -/
def execInterruptModerationTimer (n : Nat) (s : State) : Host.Outcome State Fault Refusal :=
  answer [.obs, .que] s (whenLive s fun s =>
    if (mget s.que.signal n).isSome then
      signalOut { s with que := { s.que with signal := mdel s.que.signal n } } n
    else s)

/-! ## Host reads -/

/-- Every failed host read is reported three ways (R572). -/
def hostErr (s : State) (fn addr cause : Nat) : State :=
  emit (setEvt (ledger s 0x0101 2 none [addr, fn]) HST_EVT.HOSTERR) (.aer fn cause)

/-- A failed ring read: its descriptors count as not fetched and the queue halts (R572). -/
def ringFail (s : State) (n first cause : Nat) : State :=
  match s.que.reads.find? fun r => r.ctx == n && r.first == first with
  | none => s
  | some r =>
    let s := { s with que := { s.que with
      reads := s.que.reads.filter fun x => !(x.ctx == n && x.first == first)
      slots := r.seqs.foldl (fun m q => mdel m q) s.que.slots } }
    let s := retryTakeAll s
    let s := setQ (setQ s n QCTX.SQHEAD first) n QCTX.INFL (cq s n QCTX.INFL - r.n)
    hostErr (haltState s n) (qFn s n) (ringAddr s n first) cause

/-- Status of a PREFETCH whose host read failed (R572): cause 0 Unsupported Request, 1 Completer Abort, 2 completion
timeout, 3 poisoned data. -/
def hostFailStatus (cause : Nat) : Nat := if cause ≤ 1 then stAccess else if cause = 2 then stTimeout else stPoison

/-- HOST_READ_FAIL (R572): a ring read, named by context × 65,536 + first index, or the read with tag `id`. -/
def execHostReadFail (ring : Bool) (id cause : Nat) (s : State) : Host.Outcome State Fault Refusal :=
  answer coreParts s (whenLive s fun s =>
    if ring then ringFail s (id / 65536) (id % 65536) cause
    else match s.que.hreads.find? fun h => h.1 == id with
      | none => s
      | some (_, sq, off, _) =>
        let s := { s with que := { s.que with hreads := s.que.hreads.filter fun h => h.1 != id } }
        match slotOf s sq with
        | none => s
        | some sl => finish (hostErr s (qFn s sl.ctx) (opF sl.d 0 OPND.VA + off) cause) sq (hostFailStatus cause) 0x00D0 0)

end Sys2Proof.Machine
end

