-- ==== Sys2Proof/Machine/Access.lean ====
section
/-! DEFINITION. Access.lean: register accesses through the functions' BARs and over MCTP (R564 to R566, R583, R606 to R617). -/
namespace Sys2Proof.Machine

/-! ## What a register reads as -/

/-- The group of counters that tenant `t` owns: the lowest, where the driver gave it more (R589). -/
def tenGroup (s : State) (t : Nat) : Option Nat :=
  (List.range 16).find? fun g => tstF s CNT_GCFG.TOWN g && getF s CNT_GCFG.TENANT g == t

/-- Word `w` of the window of ledger page `page` (R603). -/
def ledgerWord (s : State) (page w : Nat) : W64 :=
  match mget s.obs.lring ((64 * page + w / 8) % 16384) with
  | some r => r.extractLsb' (64 * (w % 8)) 64
  | none => 0

/-- The pages that TIER_STGSTAT.DIRTYPG counts. -/
def dirtyCount (s : State) : Nat :=
  (s.store.pages.filter fun e => [pgDirty, pgPartial, pgWriting].contains (pg e.2 PAGE.STATE)).length

/-- Word `i` of register `r` as it reads: live counts are taken from what they count. -/
def readReg (s : State) (r : Reg) (i : Nat) : W64 :=
  let v := regGet s r i
  match r with
  | .QUE_GSTAT => bset (bset 0 QUE_GSTAT.SLOTS.bf s.que.slots.length) QUE_GSTAT.ENABLED.bf
      (s.que.ctx.filter fun e => btst e.2 QCTX.EN).length
  | .XLT_PARKSTAT => bset 0 XLT_PARKSTAT.INUSE.bf s.que.park.length
  | .XLT_INVAL_STAT =>
    let own_ := s.xlt.shoots.filter fun h => h.src.isNone
    let n := match own_ with
      | h :: _ => h.holders.length
      | [] => 0
    bset (bset (bset v XLT_INVAL_STAT.OPEN.bf (shootsOpen s)) XLT_INVAL_STAT.BUSY.bf (if 16 ≤ shootsOpen s then 1 else 0))
      XLT_INVAL_STAT.HOLDERS.bf n
  | .TEN_FSTAT => bset v TEN_FSTAT.PARKED.bf (parkedOf s i)
  | .HOME_DIRSTAT => bset (bset (bset 0 HOME_DIRSTAT.ENTRIES.bf s.home.dir.length) HOME_DIRSTAT.OPEN.bf s.home.htx.length)
      HOME_DIRSTAT.RETRYQ.bf s.home.retry.length
  | .TIER_STGSTAT => bset (bset 0 TIER_STGSTAT.FREEPG.bf (freePages s)) TIER_STGSTAT.DIRTYPG.bf (dirtyCount s)
  | .ARR_BUSY => (mkeys s.arr.held).foldl maskSet 0
  | .SCR_POOL => bset 0 SCR_POOL.FREE.bf (freeScribes s).length
  | .TEN_KVSTAT => bset 0 TEN_KVSTAT.FREE.bf (kvFree s i)
  | .TIM_FTNOW | .TEN_FTNOW => s.tim.now
  | .TIM_SYNC => bset v TIM_SYNC.BOUND.bf (timBound s)
  | .RED_RPT => match mget s.red.reports (i / 8) with
    | some x => x.extractLsb' (64 * (i % 8)) 64
    | none => 0
  | .CNT_VAL => mgetD 0 s.obs.cval i
  | .CNT_SSTAT => bset (bset v CNT_SSTAT.DROPPED.bf s.obs.sdropped) CNT_SSTAT.BUF.bf s.obs.sbuf.length
  | .TEN_CNTGRP => match tenGroup s i with
    | some g => bset (bset 0 TEN_CNTGRP.VALID.bf 1) TEN_CNTGRP.GROUP.bf g
    | none => 0
  | .TEN_CNT => match tenGroup s (i / 8) with
    | some g => mgetD 0 s.obs.cval (8 * g + i % 8)
    | none => 0
  | .LDG_SEQ => BitVec.ofNat 64 s.obs.lseq
  | .LDG_STAT => BitVec.ofNat 64 s.obs.lsuppr
  | .LDG_WIN => ledgerWord s (getF s LDG_WINSEL.PAGE) i
  | _ => v

/-! ## What a write does -/

/-- The state that a command leaves. -/
def after (s : State) (o : Host.Outcome State Fault Refusal) : State :=
  match o with
  | .next t => t
  | _ => s

/-- A write of XLT_INVAL_CTL: GO starts a shootdown of the written KIND. -/
def invalWrite (s : State) (v : W64) : State :=
  if btst v XLT_INVAL_CTL.GO.bf then
    (if bget v XLT_INVAL_CTL.KIND.bf ≤ 3 then invalGo s (bget v XLT_INVAL_CTL.KIND.bf) v else after s (execShootdownReservedKind v s))
  else plainWrite s .XLT_INVAL_CTL 0 v

/-- A write of TEN_FRESUME of tenant `t`. -/
def fresumeWrite (s : State) (t : Nat) (v : W64) : State :=
  let p := bget v TEN_FRESUME.SLOT.bf
  let g := bget v TEN_FRESUME.GEN.bf
  match bget v TEN_FRESUME.ACTION.bf with
  | 0 => after s (execResumeRetry t p g s)
  | 1 => after s (execResumeAbort t p g s)
  | _ => s

/-- A driver's write to the registers of scribe `n`. -/
def scribeWrite (s : State) (r : Reg) (n : Nat) (v : W64) : State :=
  match r with
  | .SCR_CFG => after s (execScrCfgWrite false n v s)
  | .SCR_FOLD => after s (execScrFoldWrite false n v s)
  | .SCR_CTL => scrWrite s false n fun s => scrCtl s n v
  | .SCR_VAL => after s (execScrValWrite false n v s)
  | .SCR_EXP => after s (execScrExpWrite false n v s)
  | .SCR_DATA8 => scrWrite s false n fun s => scrFeed s n 1 v
  | .SCR_DATA16 => scrWrite s false n fun s => scrFeed s n 2 v
  | .SCR_DATA32 => scrWrite s false n fun s => scrFeed s n 4 v
  | .SCR_STAT => after s (execScrStatClear false n v s)
  | .SCR_CNT => after s (execScrCntWrite false n v s)
  | _ => s

/-- A write of a register whose effect stays within the chip's working parts and its links, keys and time: the effect of the
register's own rule, or of its access codes. -/
def workWrite (s : State) (r : Reg) (i : Nat) (v : W64) : State :=
  match r with
  | .XLT_INVAL_CTL => invalWrite s v
  | .TEN_FRESUME => fresumeWrite s i v
  | .TEN_FRING_CTL => after s (execFaultRingEnable i v s)
  | .TEN_FRING_HEAD => after s (execFaultRingHeadWrite i v s)
  | .TEN_SECCTL => secctlWrite s i v
  | .TEN_KVPOOL => kvPoolWrite s i v
  | .SEC_FSCMD => if btst v SEC_FSCMD.CREATE.bf then seedCreate s else s
  | .VSC_CACT =>
    let c := bget v VSC_CACT.COLL.bf
    match bget v VSC_CACT.ACTION.bf with
    | 0 => vscActivate s c false
    | 1 => after s (execVscDeactivate c s)
    | 2 => vscActivate s c true
    | _ => s
  | .EMB_TACT =>
    let t := bget v EMB_TACT.TABLE.bf
    match bget v EMB_TACT.ACTION.bf with
    | 0 => embActivate s t
    | 1 => embDeactivate s t
    | _ => s
  | .SCR_CFG | .SCR_FOLD | .SCR_CTL | .SCR_VAL | .SCR_EXP | .SCR_DATA8 | .SCR_DATA16 | .SCR_DATA32 | .SCR_STAT | .SCR_CNT =>
    scribeWrite s r i v
  | .TEN_QSLOTQ => retryTakeAll (plainWrite s r i v)
  | .LNK_CFG => after s (execPortEnable i v s)
  | .CNT_DUMPCTL => dumpCtl s v
  | .CNT_SMPCTL =>
    let s := plainWrite s r i v
    { s with obs := { s.obs with countdown := getF s CNT_SMPCTL.PERIOD } }
  | .CNT_VAL => { s with obs := { s.obs with cval := mputD 0 s.obs.cval i v } }
  | _ => plainWrite s r i v

/-- A write of `v` to word `i` of register `r` through PF BAR0. -/
def writeReg (s : State) (r : Reg) (i : Nat) (v : W64) : State :=
  match r with
  | .GLB_RST => if btst v GLB_RST.WARM.bf then after s (execGlbRstWarm s) else s
  | .PWR_STATE => pwrReq s false (bget v PWR_STATE.REQ.bf)
  | .PWR_SLED =>
    let s := setF s PWR_SLED.LEFT i (bget v PWR_SLED.LEFT.bf)
    if btst v PWR_SLED.PRESS.bf then sledPress s i else s
  | _ => confine (workParts ++ [.tim, .lnk, .sec]) s (workWrite s r i v)

/-- Bits that a virtual function may clear in its window (Table REG-19). -/
def vfClears (r : Reg) : List Fld :=
  match r with
  | .TEN_COHEVT => [TEN_COHEVT.PEND]
  | .TEN_KVEVT => [TEN_KVEVT.PEND]
  | .TEN_QSTAT => fieldsOf .TEN_QSTAT
  | _ => []

/-- A write through a virtual function. -/
def vfWriteReg (s : State) (r : Reg) (i : Nat) (v : W64) : State :=
  regSet s r i ((vfClears r).foldl (writeFld true v) (regGet s r i))

/-! ## BAR0 -/

/-- Before bring-up stage 3 ends, and after a function-level reset met the chip in a store, GLB registers alone answer
(R577, R583). -/
def regOpen (s : State) (r : Reg) : Bool :=
  r == .GLB_ID || r == .GLB_STAT || r == .GLB_RST || (s.pwr.fast && !s.hst.only)

/-- The PF BAR0 offset of offset `off` of a function's BAR0. -/
def bar0Off (fn off : Nat) : Nat := if fn = 0 then off else 0x1700000 + 0x1000 * (fn - 1) + off

/-- The offset lies in a function's BAR0. -/
def inBar0 (fn off : Nat) : Bool := decide (off < if fn = 0 then 0x10000000 else 0x1000)

/-- The alias of tier 2 (R24). -/
def inAlias (fn off : Nat) : Bool := fn == 0 && decide (0x8000000 ≤ off ∧ off < 0xC000000)

/-- The 8-byte word of BAR0 at `b`, a PF offset. -/
def bar0Word (s : State) (b : Nat) : W64 :=
  match regAt b with
  | some (r, i) => if regOpen s r then readReg s r i else 0
  | none => 0

/-- An 8-byte word written there. -/
def bar0Put (s : State) (fn b : Nat) (v : W64) : State :=
  match regAt b with
  | some (r, i) => if !regOpen s r then s else if fn = 0 then writeReg s r i v else vfWriteReg s r i v
  | none => s

/-- An aligned access to a register or to one half of it (R565). -/
def accessOk (off size : Nat) : Bool := (size == 8 && off % 8 == 0) || (size == 4 && off % 4 == 0)

/-- An access that breaks R565. -/
def badAccess (s : State) : State := setEvt s HST_EVT.BADACC

/-- The write latch is discarded by an access to another register (R566). -/
def dropLatch (s : State) (fn b : Nat) : State :=
  match (fnOf s fn).wlatch with
  | some (b', _) => if b' = b then s else setFn s fn { fnOf s fn with wlatch := none }
  | none => s

def hiHalf (v : W64) : BitVec 32 := v.extractLsb' 32 32
def loHalf (v : W64) : BitVec 32 := v.extractLsb' 0 32

/-- The tier 2 word that the alias reads. -/
def aliasRead (s : State) (off size : Nat) : W64 :=
  let o := off - 0x8000000
  if size = 8 ∧ o % 8 = 0 ∧ s.pwr.fast ∧ !s.hst.only ∧ t2MayRead s true 0 o 8 then (t2Read s true 0 o 8).extractLsb' (8 * (o % 64)) 64 else 0

/-- A read of BAR0: its value, and the latches afterwards. -/
def bar0Read (s : State) (fn off size : Nat) : W64 × State :=
  if inAlias fn off then (aliasRead s off size, s)
  else if !accessOk off size then (0, badAccess s)
  else
    let b := off / 8 * 8
    let s := dropLatch s fn b
    let v := bar0Word s (bar0Off fn b)
    if size = 8 then (v, s)
    else if off % 8 = 0 then ((loHalf v).setWidth 64, setFn s fn { fnOf s fn with rlatch := some (b, hiHalf v) })
    else match (fnOf s fn).rlatch with
      | some (b', h) => if b' = b then (h.setWidth 64, s) else ((hiHalf v).setWidth 64, s)
      | none => ((hiHalf v).setWidth 64, s)

/-- A write of BAR0. -/
def bar0Write (s : State) (fn off size : Nat) (v : W64) : State :=
  if inAlias fn off then
    let o := off - 0x8000000
    if size = 8 ∧ o % 8 = 0 ∧ s.pwr.fast ∧ !s.hst.only ∧ t2MayWrite true 0 o 8 then confine workParts s (t2Write8 s o v) else s
  else if !accessOk off size then badAccess s
  else
    let b := off / 8 * 8
    let s := dropLatch s fn b
    if size = 8 then bar0Put s fn (bar0Off fn b) v
    else if off % 8 = 0 then setFn s fn { fnOf s fn with wlatch := some (b, loHalf v) }
    else
      let lo := match (fnOf s fn).wlatch with
        | some (_, l) => l
        | none => loHalf (bar0Word s (bar0Off fn b))
      bar0Put (setFn s fn { fnOf s fn with wlatch := none }) fn (bar0Off fn b) (loHalf v ++ lo)

/-! ## BAR2 and BAR4 -/

/-- The doorbell at an offset of a function's BAR2, and the offset in its stride (Table HST-2, Table QUE-2). -/
def bellAt (fn off : Nat) : Option (Bell × Nat) :=
  if fn ≠ 0 then (if off < 0x1000 then some (⟨false, fn - 1, off / 64⟩, off % 64) else none)
  else if off < 0x200000 then some (⟨false, off / 0x1000, off % 0x1000 / 64⟩, off % 64)
  else if off < 0x240000 then some (⟨true, 0, (off - 0x200000) / 64⟩, off % 64)
  else none

/-- A write of BAR2: an aligned 8-byte doorbell, or a 64-byte one whose parts apply in their order (R97). -/
def bar2Write (s : State) (fn off size : Nat) (v : Line) : State :=
  if !live s then s
  else match bellAt fn off with
    | none => s
    | some (b, o) => confine workParts s (
      if size = 8 ∧ off % 8 = 0 then layerTick (ringWord s b o (v.setWidth 64))
      else if size = 64 ∧ off % 64 = 0 then layerTick (ringWide s b v)
      else misBell s b.prv (if fn = 0 then off / 4096 % 512 else fn - 1) (off % 4096))

/-- Entries of a function's MSI-X table, and the offset of its pending bits. -/
def msixEntries (fn : Nat) : Nat := if fn = 0 then 2048 else 128

/-- Entry `k`: address, data and vector control, whose bit 0 masks it. -/
def msixEntry (s : State) (fn k : Nat) : BitVec 128 :=
  let f := fnOf s fn
  (if f.unmasked.contains k then 0#32 else 1#32) ++ mgetD 0 f.msgs k

/-- The `size` bytes of BAR4 at `off`. -/
def bar4Read (s : State) (fn off size : Nat) : W64 :=
  let n := msixEntries fn
  if !accessOk off size then 0
  else
    let w : W64 := if off / 16 < n then (msixEntry s fn (off / 16)).extractLsb' (64 * (off % 16 / 8)) 64
      else if off < 16 * n then 0
      else
        let d := off / 8 * 8 - 16 * n
        ((fnOf s fn).pend.filter fun v => decide (d * 8 ≤ v ∧ v < d * 8 + 64)).foldl (fun m v => maskSet m (v - d * 8)) 0
    if size = 8 then w else if off % 8 = 0 then (loHalf w).setWidth 64 else (hiHalf w).setWidth 64

/-- A write of an entry of the MSI-X table; the pending bits are read-only. -/
def bar4Write (s : State) (fn off size : Nat) (v : W64) : State :=
  let k := off / 16
  if !accessOk off size || decide (msixEntries fn ≤ k) then s
  else
    let e := bset (msixEntry s fn k) ⟨8 * (off % 16), 8 * size⟩ v.toNat
    let f := fnOf s fn
    let un := if btst e ⟨96, 1⟩ then f.unmasked.filter (· != k) else insRising f.unmasked k
    msixFlush (setFn s fn { f with unmasked := un, msgs := mputD 0 f.msgs k (e.extractLsb' 0 96) }) fn

/-! ## REGISTER_READ and REGISTER_WRITE -/

/-- A memory request reaches the function: the host link is up, it is enabled and in D0. -/
def fnServes (s : State) (fn : Nat) : Bool := s.pwr.sill && decide (2 ≤ stage s) && fnExists s fn && !(fnOf s fn).d3hot

/-- A TLP of a function without a secure stream, where one is required, is discarded (R575). -/
def ideDiscard (s : State) (fn : Nat) : State := ledger s 0x0102 1 none [0, fn]

/-- REGISTER_READ (R565, R566): `size` bytes at `off` of BAR `bar` of function `fn`. -/
def execRegisterRead (fn bar off size : Nat) (s : State) : Host.Outcome State Fault Refusal :=
  answer [.regs, .obs] s (if !fnServes s fn then s
    else if !ideOk s then ideDiscard s fn
    else match bar with
      | 0 => if inBar0 fn off then let (v, s) := bar0Read s fn off size; emit s (.readData fn v) else s
      | 2 => emit s (.readData fn 0)
      | 4 => emit s (.readData fn (bar4Read s fn off size))
      | _ => s)

/-- REGISTER_WRITE (R565, R566, R607, R608): `v` holds the first eight bytes written, `more` those that follow them up to 64. -/
def execRegisterWrite (fn bar off size : Nat) (v : Line) (s : State) : Host.Outcome State Fault Refusal :=
  answer allParts s (if !fnServes s fn then s
    else if !ideOk s then ideDiscard s fn
    else match bar with
      | 0 => if inBar0 fn off then bar0Write s fn off size (v.setWidth 64) else s
      | 2 => bar2Write s fn off size v
      | 4 => bar4Write s fn off size (v.setWidth 64)
      | _ => s)

/-! ## MCTP (R616 to R618) -/

/-- Blocks that answer in every state: PWR and LDG. -/
def sillReg (r : Reg) : Bool :=
  match r with
  | .PWR_STATE | .PWR_CFG | .PWR_LIMIT | .PWR_MON | .PWR_EVT | .PWR_SLED
  | .LDG_SEQ | .LDG_STAT | .LDG_WINSEL | .LDG_STREAM | .LDG_EVT | .LDG_WIN => true
  | _ => false

def mctpReg (r : Reg) : Bool :=
  sillReg r || r == .GLB_ID || r == .GLB_STAT || r == .GLB_RST || r == .SEC_BOOT || r == .SEC_DBG

/-- What an MCTP offset names. -/
inductive MctpAt where
  | reg (r : Reg) (i : Nat)
  | nonce (w : Nat)
  | token (w : Nat)
  | nothing
  deriving DecidableEq, Repr

def mctpAt (off : Nat) : MctpAt :=
  if off % 8 ≠ 0 then .nothing
  else if 0x1300100 ≤ off ∧ off ≤ 0x1300118 then .nonce ((off - 0x1300100) / 8)
  else if 0x1301000 ≤ off ∧ off ≤ 0x1301FF8 then .token ((off - 0x1301000) / 8)
  else match regAt off with
    | some (r, i) => if mctpReg r then .reg r i else .nothing
    | none => .nothing

/-- MCTP_READ (R616). -/
def execMctpRead (off : Nat) (s : State) : Host.Outcome State Fault Refusal :=
  answer [.obs, .sec, .fresh] s (whenSill s fun s => match mctpAt off with
    | .nothing => mctpAnswer s 1 none
    | .reg r i =>
      if !sillReg r && !mctpFast s then mctpAnswer s 2 none
      else mctpAnswer s 0 (some (match r with
        | .LDG_WINSEL => BitVec.ofNat 64 s.hst.mctpPage
        | .LDG_WIN => ledgerWord s s.hst.mctpPage i
        | _ => readReg s r i))
    | .nonce w => if mctpFast s then let (v, s) := nonceWord s w; mctpAnswer s 0 (some v) else mctpAnswer s 2 none
    | .token _ => if mctpFast s then mctpAnswer s 0 (some 0) else mctpAnswer s 2 none)

/-- An MCTP write of a register. -/
def mctpPut (s : State) (r : Reg) (i : Nat) (v : W64) : State :=
  match r with
  | .GLB_RST => if btst v GLB_RST.COLD.bf then after s (execGlbRstCold true s) else if btst v GLB_RST.WARM.bf then after s (execGlbRstWarm s) else s
  | .PWR_STATE => pwrReq s true (bget v PWR_STATE.REQ.bf)
  | .LDG_WINSEL => { s with hst := { s.hst with mctpPage := bget v LDG_WINSEL.PAGE.bf } }
  | .PWR_SLED => writeReg s r i v
  | _ => plainWrite s r i v

/-- MCTP_WRITE (R616). -/
def execMctpWrite (off : Nat) (v : W64) (s : State) : Host.Outcome State Fault Refusal :=
  answer allParts s (whenSill s fun s => match mctpAt off with
    | .nothing => mctpAnswer s 1 none
    | .reg r i => if !sillReg r && !mctpFast s then mctpAnswer s 2 none else mctpAnswer (mctpPut s r i v) 0 none
    | .nonce _ => mctpAnswer s (if mctpFast s then 0 else 2) none
    | .token w =>
      if !mctpFast s then mctpAnswer s 2 none
      else if w = 0 then mctpAnswer (tokenCheck s v.toNat) 0 none
      else mctpAnswer { s with sec := { s.sec with token := mputD 0 s.sec.token w v } } 0 none)

end Sys2Proof.Machine
end

