-- ==== Sys2Proof/Machine/Ffn.lean ====
section
/-! DEFINITION. Ffn.lean: EXPERT_FFN (R304 to R312). -/
namespace Sys2Proof.Machine

/-! ## Gating (R307) -/

def ffnSeed (sl : Slot) (part : Nat) : Nat := 2 ^ 81 + sl.seq * 2 ^ 48 + part

/-- FP32 value of an operand's element. -/
def elem32 (f n : Nat) (bs : List Byte) (i : Nat) : F32 := f32 (elemN f n bs i)

def sub32' (a b : F32) : F32 := add32 a (neg32 b)

/-- Fused sums of products, in some order (R248). -/
def fmaDot (seed : Nat) (init : F32) (l : List (F32 × F32)) : F32 :=
  (someOrder seed l).foldl (fun a x => fma32 x.1 x.2 a) init

/-- The gate values of token `t` after GATEFN. -/
def gateRow (sl : Slot) (x g : List Byte) (t : Nat) : List F32 :=
  let d := sl.d
  let dm := ffnDm d
  let e := ffnE d
  let fx := opF d 0 OPND.FMT
  let fg := opF d 1 OPND.FMT
  let seed := ffnSeed sl (t * 1024)
  let z := (List.range e).map fun j =>
    fmaDot (seed + j) 0 ((List.range dm).map fun k => (elem32 fx (ffnT d * dm) x (t * dm + k), elem32 fg (dm * e) g (k * e + j)))
  if ops0 d 1 2 = 0 then
    let m := z.foldl (fun m v => f32 (maxN (val32 m) (val32 v))) 0xFF800000
    let p := z.mapIdx fun j v => expP (seed + 300) j (sub32' v m)
    let sum := sum32 (seed + 301) p
    p.mapIdx fun j v => divP (seed + 302) j v sum
  else z.mapIdx fun j v => recipP (seed + 303) j (add32 0x3F800000 (expP (seed + 304) j (neg32 v)))

/-- The TOPK largest values, the lower index winning ties: (expert, value). -/
def topExperts : Nat → List (Nat × F32) → List (Nat × F32)
  | 0, _ => []
  | _, [] => []
  | k + 1, x :: l =>
    let best := l.foldl (fun b y => if ltN (val32 b.2) (val32 y.2) then y else b) x
    best :: topExperts k ((x :: l).filter fun y => y.1 != best.1)

/-- The experts that token `t` selects with their gate values. -/
def route (sl : Slot) (x g : List Byte) (t : Nat) : List (Nat × F32) :=
  let d := sl.d
  let sel := topExperts (ffnTopk d) ((gateRow sl x g t).mapIdx fun j v => (j, v))
  if ops0 d 5 1 = 1 then
    let seed := ffnSeed sl (t * 1024 + 400)
    let sum := sum32 seed (sel.map (·.2))
    sel.mapIdx fun j v => (v.1, divP (seed + 1) j v.2 sum)
  else sel

/-- The routing of every token. -/
def routing (sl : Slot) : List (List (Nat × F32)) :=
  let x := gather sl 0 0 (opLen sl.d 0)
  let g := gather sl 1 0 (opLen sl.d 1)
  (List.range (ffnT sl.d)).map (route sl x g)

/-- Experts selected by some token, rising. -/
def expertsOf (r : List (List (Nat × F32))) : List Nat := (r.flatten.map (·.1)).foldl insRising []

/-! ## One expert (R308) -/

def fw (d : Desc) : Nat := opF d 2 OPND.FMT

/-- Place of an expert's two blocks: offset and length in slots 2 and 3. -/
def inPlace (d : Desc) (e : Nat) : Nat × Nat := (e * expertStride (fw d) (ffnDm d) (2 * ffnF d), expertBytes (fw d) (ffnDm d) (2 * ffnF d))
def outPlace (d : Desc) (e : Nat) : Nat × Nat :=
  (e * expertStride (opF d 3 OPND.FMT) (ffnF d) (ffnDm d), expertBytes (opF d 3 OPND.FMT) (ffnF d) (ffnDm d))

/-- Values converted for the grid: MXFP8_E4M3 with FP8 or MX weights, else the weights' format. -/
def gridRow (f : Nat) (xs : List Num) : ARow :=
  if f = fmBf16 ∨ f = fmFp16 then
    { val := fun i => decodeF (ffOf f) (encodeF (ffOf f) .rne false (xs.getD i .nan)), scale := fun _ => 127 }
  else
    let r := toMx ffE4m3 xs
    { val := fun i => if r.2.getD (i / 32) 127 = 0xFF then .nan else decodeF ffE4m3 (r.1.getD i 0), scale := fun i => r.2.getD (i / 32) 127 }

/-- Token `t` as the grid takes it. -/
def tokenRow (sl : Slot) (x : List Byte) (t : Nat) : ARow :=
  let d := sl.d
  let dm := ffnDm d
  let fx := opF d 0 OPND.FMT
  if fx = fmMx8e4 ∧ fw d ≠ fmBf16 ∧ fw d ≠ fmFp16 then rowOf fx (ffnT d) dm x t
  else gridRow (fw d) ((List.range dm).map fun k => elemN fx (ffnT d * dm) x (t * dm + k))

/-- 0.5, 1, 2, √(2/π), 0.044715. -/
def c05 : F32 := 0x3F000000
def c1 : F32 := 0x3F800000
def c2 : F32 := 0x40000000
def cGelu : F32 := 0x3F4C422A
def cCube : F32 := 0x3D372713

/-- ACT of one value (Table ATT-8), from the plane's operations. -/
def actFn (act seed i : Nat) (u : F32) : F32 :=
  if act = 0 then divP seed i u (add32 c1 (expP (seed + 1) i (neg32 u)))
  else if act = 1 then
    let y := mul32 cGelu (fma32 (mul32 cCube u) (mul32 u u) u)
    let th := sub32' c1 (divP (seed + 2) i c2 (add32 (expP (seed + 3) i (mul32 c2 y)) c1))
    mul32 (mul32 c05 u) (add32 c1 th)
  else f32 (maxN (val32 u) (.fin false 0 0))

/-- y = h · W_out(e) for one pair. -/
def expertOut (sl : Slot) (x : List Byte) (t e : Nat) : List F32 :=
  let d := sl.d
  let dm := ffnDm d
  let f := ffnF d
  let win : WMat := { fmt := fw d, k := dm, n := 2 * f, bytes := gather sl 2 (inPlace d e).1 (inPlace d e).2 }
  let wout : WMat := { fmt := opF d 3 OPND.FMT, k := f, n := dm, bytes := gather sl 3 (outPlace d e).1 (outPlace d e).2 }
  let seed := ffnSeed sl (2 ^ 36 + (t * 256 + e) * 2 ^ 20)
  let row := tokenRow sl x t
  let u := (List.range (2 * f)).map fun j => dotF (seed + j) win (dm * 2 * f) row j 0
  let h := (List.range f).map fun j => mul32 (actFn (ops0 d 3 2) (seed + 2 ^ 18) j (u.getD j 0)) (u.getD (f + j) 0)
  let hr := gridRow (fw d) (h.map val32)
  (List.range dm).map fun j => dotF (seed + 2 ^ 19 + j) wout (f * dm) hr j 0

/-! ## The operator -/

/-- The weights of expert `e`, or Y where it accumulates, asked. -/
def expertAsk (s : State) (sl : Slot) (e : Nat) : State :=
  let s := askBytes s sl.seq 2 (inPlace sl.d e).1 (inPlace sl.d e).2
  askBytes s sl.seq 3 (outPlace sl.d e).1 (outPlace sl.d e).2

/-- The lines of a kernel once it is routed: those of the selected experts, and of Y where it accumulates. -/
def ffnAsk (s : State) (sl : Slot) (es : List Nat) : State :=
  let s := es.foldl (fun s e => expertAsk s sl e) s
  if ops0 sl.d 6 1 = 1 then askAll s sl.seq [4] else s

/-- The weights of expert `e` have come. -/
def expertHave (sl : Slot) (e : Nat) : Bool :=
  haveBytes sl 2 (inPlace sl.d e).1 (inPlace sl.d e).2 && haveBytes sl 3 (outPlace sl.d e).1 (outPlace sl.d e).2

/-- A line in this chip's near tier, or staged here. -/
def lineNear (s : State) (sa : Nat) : Bool :=
  servedBy s sa == own s && (saTier sa == 0 || (saTier sa == 1 && match pageOf s (blkKey s sa) with
    | some (_, g) => (pgValid g).getLsbD (saOff sa / 64 % 64)
    | none => false))

/-- Every line of expert `e` is in the near tier or staged (R310). -/
def expertNear (s : State) (sl : Slot) (e : Nat) : Bool :=
  [(2, inPlace sl.d e), (3, outPlace sl.d e)].all fun x =>
    (piecesOf (extsOf sl x.1) x.2.1 x.2.2).all fun p => (cutLines p.1 p.2).all fun c => lineNear s c.1

/-- Y: each token's sum takes its experts in the order `ran` in which they finished (R308). With integer weights, for which the
spec gives no conversion of X and h, its bytes are free. -/
def ffnCalc (s : State) (sl : Slot) (r : List (List (Nat × F32))) (ran : List Nat) : List Byte :=
  let d := sl.d
  let dm := ffnDm d
  let fy := opF d 4 OPND.FMT
  if isInt (fw d) then (List.range (opLen d 4)).map fun k => Config.freeByte (s.fresh + k)
  else
    let x := gather sl 0 0 (opLen d 0)
    let y0 := if ops0 d 6 1 = 1 then gather sl 4 0 (opLen d 4) else []
    (r.mapIdx fun t sel =>
      let ys := ran.filterMap fun e => (sel.find? fun g => g.1 == e).map fun g => (g.2, expertOut sl x t e)
      ((List.range dm).map fun j =>
        let c0 : F32 := if ops0 d 6 1 = 1 then elem32 fy (ffnT d * dm) y0 (t * dm + j) else 0
        outElem fy .rne false (val32 (ys.foldl (fun a p => fma32 p.1 (p.2.getD j 0) a) c0))).flatten).flatten

/-- The result word (R312). -/
def ffnRes (r : List (List (Nat × F32))) : Nat :=
  let es := expertsOf r
  let most := es.foldl (fun m e => max m (r.filter fun l => l.any fun g => g.1 == e).length) 0
  min most 65535 * 2 ^ 48 + (r.map List.length).sum * 65536 + es.length

/-- Passes of one expert: its physical tiles, once for each 1,024 of its tokens (R309). -/
def expertPasses (d : Desc) (r : List (List (Nat × F32))) (e : Nat) : Nat :=
  ceilDiv (r.filter fun l => l.any fun g => g.1 == e).length 1024 * (ffnDm d / 64 * (3 * ffnF d / 64))

/-- EXPERT_FFN begins. -/
def ffnStart (s : State) (sq : Nat) : State :=
  begins s ocExpert sq fun sl => kernelStart s sl (if sl.work = .idle then .ffn {} else sl.work)

/-- EXPERT_FFN (R304 to R312). -/
def execExpertFfn (sq : Nat) (s : State) : Host.Outcome State Fault Refusal := answer coreParts s (whenLive s fun s => ffnStart s sq)

/-- The planes route the tokens once X and the gate weights have come. The weights of every selected expert are asked then, and
the experts already in the near tier or staged run first (R310). -/
def ffnRoute (s : State) (sl : Slot) (r : FfnRun) : State :=
  let s := askAll s sl.seq [0, 1]
  match slotOf s sl.seq with
  | none => s
  | some sl =>
    if !haveAll sl [0, 1] then s
    else
      let rt := routing sl
      let es := expertsOf rt
      let todo := es.filter (expertNear s sl) ++ es.filter fun e => !expertNear s sl e
      ffnAsk (modSlot s sl.seq fun x => { x with work := .ffn { r with
        routed := true, todo := todo, left := expertPasses sl.d rt (todo.headD 0) } }) sl es

/-- The last expert has finished: Y is written once its own lines have come, where it accumulates. -/
def ffnEnd (s : State) (sl : Slot) (r : FfnRun) : State :=
  let rt := routing sl
  let s := ffnAsk s sl []
  match slotOf s sl.seq with
  | none => s
  | some sl =>
    if ops0 sl.d 6 1 = 1 && !haveAll sl [4] then s
    else
      let y := ffnCalc s sl rt r.ran
      let s := storeBytes { s with fresh := s.fresh + y.length } sl.seq 4 0 y
      kernelEnd s sl.seq stOk 0 (ffnRes rt) [(opF sl.d 4 OPND.FMT, y)]

/-- The experts still to run with one whose weights have come in front, and the passes left of that one; none while none has. -/
def ffnNext (sl : Slot) (r : FfnRun) : Option FfnRun :=
  (r.todo.find? (expertHave sl)).map fun e =>
    if r.todo.head? = some e then r
    else { r with todo := e :: r.todo.filter (· != e), left := expertPasses sl.d (routing sl) e }

/-- The end of a pass of an EXPERT_FFN on array `a`: `count` counts it. -/
def ffnPass (s : State) (sl : Slot) (r : FfnRun) (a : Nat) (count : State → Slot → State) : State :=
  if !r.routed then ffnRoute s sl r
  else if r.todo = [] then ffnEnd s sl r
  else
    let s := ffnAsk s sl r.todo
    match slotOf s sl.seq with
    | none => s
    | some sl =>
      match ffnNext sl r with
      | none => s
      | some r =>
        let s := count s sl
        if 1 < r.left then shareCheck (modSlot s sl.seq fun x => { x with work := .ffn { r with left := r.left - 1 } }) sl.seq a
        else
          let todo := r.todo.tail
          let r := { r with todo := todo, ran := r.ran ++ r.todo.take 1, left := expertPasses sl.d (routing sl) (todo.headD 0) }
          let s := modSlot s sl.seq fun x => { x with work := .ffn r }
          if todo = [] then ffnEnd s sl r else shareCheck s sl.seq a

end Sys2Proof.Machine
end

