-- ==== Sys2Proof/Machine/Arrays.lean ====
section
/-! DEFINITION. Arrays.lean: the events of the arrays: grants, ends of passes, fences and plumb checks (R237, R270 to R272,
R493 to R496). -/
namespace Sys2Proof.Machine

/-- ARRAY_GRANT (R270). -/
def execArrayGrant (a : Nat) (s : State) : Host.Outcome State Fault Refusal := answer coreParts s (whenLive s fun s => grantArray s a)

/-- A pass of kernel `sl` counted, on array `a`; precise sampling records the sequencer's program counter and instruction word
(R268). -/
def passCount (a : Nat) (s : State) (sl : Slot) : State :=
  let s := unitUse s a
  let u := unitOf s a
  bump s 0x0501 1 { occOf s sl with mst := some (1, a), tag := none, pc := some (u.pc.toNat, u.iw.toNat) }

/-- The end of a pass on array `a`: the tile boundary of every kernel but ATTN_DECODE (R271, R302). -/
def passEnd (s : State) (a : Nat) : State :=
  match mget s.arr.held a with
  | none => s
  | some sq =>
    match slotOf s sq with
    | none => s
    | some sl =>
      if s.arr.waking.contains a || plumbBusy s sq then s
      else if opcode sl.d = ocAttn then passCount a s sl
      else boundaryOn s sl [a] undefOut fun sl =>
        match hardErr sl with
        | some e => finish (if undefStatus e.1 then undefOut s sl else s) sq e.1 e.2 0
        | none => match sl.work with
          | .append .. => shareCheck (appendPass (passCount a s sl) sl) sq a
          | .scan r => shareCheck (if opcode sl.d = ocVscan then scanPass (passCount a s sl) sl r else rerankPass (passCount a s sl) sl r) sq a
          | .gemm r => gemmPass s sl r a (passCount a)
          | .ffn r => ffnPass s sl r a (passCount a)
          | _ => s

/-- PASS_END (R237, R271). -/
def execPassEnd (a : Nat) (s : State) : Host.Outcome State Fault Refusal := answer workParts s (whenLive s fun s => layerTick (passEnd s a))

/-- ARRAY_FENCE (R493, Table ARR-11). -/
def execArrayFence (a : Nat) (s : State) : Host.Outcome State Fault Refusal := answer workParts s (whenLive s fun s => fenceArray s a)

/-- PLUMB_COMPARE (R495): `second` holds the outputs of the second execution. -/
def execPlumbCompare (sq a b : Nat) (second : List (List Byte)) (s : State) : Host.Outcome State Fault Refusal :=
  answer coreParts s (whenLive s fun s => plumbCompare s sq a b second)

/-- PLUMB_SELFTEST_DONE (R496). -/
def execPlumbSelftestDone (sq : Nat) (failA failB : Bool) (s : State) : Host.Outcome State Fault Refusal :=
  answer workParts s (whenLive s fun s => plumbTested s sq failA failB)

end Sys2Proof.Machine
end

