-- ==== Sys2Proof/Machine/LinkTx.lean ====
section
/-! DEFINITION. LinkTx.lean: a port's transmitter (R446 to R450, R452, R454, R456 to R461, R464, R466). -/
namespace Sys2Proof.Machine

/-! ## Which message goes next (R457, R458) -/

/-- Channels by number (Table COH-1); 6 and 7 name none. -/
def vcOfNum : Nat → Option VC
  | 0 => some .req
  | 1 => some .snp
  | 2 => some .rsp
  | 3 => some .dat
  | 4 => some .eng
  | 5 => some .ctl
  | _ => none

/-- The tenant whose share of a port a message uses (R458): REQ, and ENG of a tenant's access. -/
def msgTenant (m : Msg) : Option Nat :=
  match m.vc with
  | .req => some (bget m.hdr COHH.TENANT)
  | .eng => if btst m.hdr ENGH.PRIV then none else some (bget m.hdr ENGH.TENANT)
  | _ => none

/-- Frame time of 10 µs, in counts. -/
def meterWin : Nat := 2560000

/-- Flit times that tenant `t` has used of port `p` in the current window. -/
def meterUsed (s : State) (p t : Nat) : Nat :=
  let x := portOf s p
  if x.win = s.tim.now.toNat / meterWin then mgetD 0 x.used t else 0

/-- The tenant's share of the port leaves room for one more flit: a window is 10,000 flit times. -/
def meterOk (s : State) (p : Nat) (m : Msg) : Bool :=
  !partitioned s || (match msgTenant m with
    | some t => decide ((meterUsed s p t + 1) * 256 ≤ getF s TEN_LNKQ.SHARE t * 10000)
    | none => true)

/-- One flit time charged to the tenant of a flit. -/
def meterCharge (s : State) (p : Nat) (m : Msg) : State :=
  match msgTenant m with
  | some t =>
    let w := s.tim.now.toNat / meterWin
    modPort s p fun x => { x with win := w, used := mput (if x.win = w then x.used else []) t (meterUsed s p t + 1) }
  | none => s

/-- Two messages of one flow: one channel, one source and one destination endpoint (R446, R462). -/
def sameFlow (a b : Msg) : Bool := a.vc == b.vc && a.dst == b.dst && a.dep == b.dep && a.src == b.src && a.sep == b.sep

/-- The first message of every flow. -/
def flowHeads : List Msg → List Msg
  | [] => []
  | m :: l => m :: (flowHeads l).filter fun x => !sameFlow m x

/-- Queued messages that leave by port `p` on channel `v`, oldest first. -/
def portQueue (s : State) (p v : Nat) : List Msg := s.txq.filter fun m => m.vc.num == v && outPort s m == some p

def creditOf (s : State) (p v : Nat) : Nat := mgetD 0 (portOf s p).credit v

/-- Head of a flow on channel `v` that may be sent now: local and forwarded flows take turns. -/
def readyHead (s : State) (p v : Nat) : Option Msg :=
  let l := (flowHeads (portQueue s p v)).filter fun m => meterOk s p m && decide (msgSlots m ≤ creditOf s p v)
  let want := !(portOf s p).rrFwd.contains v
  match l.find? fun m => m.fwd.isSome == want with
  | some m => some m
  | none => l.head?

/-- A message that travels in a flit of its own (R443, R466). -/
def alone (m : Msg) : Bool := m.vc == .ctl && [ctTimeReq, ctTimeRsp, ctParam].contains (opcOf m.hdr)

/-- Messages of one flow that fit behind each other into `room` slots: the first, and each next one while it fits. -/
def packMsgs (part : Bool) (room : Nat) : List Msg → List Msg
  | [] => []
  | m :: l =>
    if room < msgSlots m then []
    else if alone m then [m]
    else m :: (match l with
      | [] => []
      | n :: _ => if alone n || (part && msgTenant m != msgTenant n) then [] else packMsgs part (room - msgSlots m) l)

/-- `l` without the first occurrence of each element of `out`. -/
def without (l out : List Msg) : List Msg := out.foldl (fun l m => l.erase m) l

/-- The messages of the next flit, and whether they are the port's own: before ACTIVE those alone, without credit (R456). -/
def nextMsgs (s : State) (p : Nat) : List Msg × Bool :=
  let x := portOf s p
  if portSt s p ≠ psActive then (packMsgs false 22 x.own, true)
  else
    let ownCtl := packMsgs false (min 22 (creditOf s p 5)) x.own
    if !ownCtl.isEmpty then (ownCtl, true)
    else
      let order := 5 :: (List.range 5).map fun i => (x.rr + 1 + i) % 5
      match order.findSome? fun v => readyHead s p v with
      | some m =>
        (packMsgs (partitioned s) (min 22 (creditOf s p m.vc.num)) (m :: ((portQueue s p m.vc.num).filter (sameFlow m)).erase m), false)
      | none => ([], false)

/-! ## The flit -/

/-- Credit returns that ride in the next header: the two channels owed most; REQ waits while the home's retry queue is full or
a cut has frozen the chip (R142, R502). -/
def creditReturns (s : State) (p : Nat) : List (Nat × Nat) :=
  let hold := s.red.freeze || decide (1024 ≤ s.home.retry.length)
  let l := (portOf s p).owed.filter fun e => !(e.1 == 0 && hold)
  (l.mergeSort fun a b => decide (b.2 ≤ a.2)).take 2 |>.map fun e => (e.1, min e.2 4095)

/-- Peer hops left of a message as this chip sends it (R460). -/
def hopsOut (s : State) (m : Msg) : Nat :=
  if m.dst = own s then 0
  else match m.fwd with
    | some q => if isPeer s q then m.hops else getF s LNK_RT.HOPS m.dst
    | none => getF s LNK_RT.HOPS m.dst

/-- The next hop of port `p` is a down hop (R459). -/
def downHop (s : State) (p : Nat) : Bool := isPeer s p && decide (getF s LNK_RANK.RANK ≤ getF s LNK_STAT.NRANK p)

/-- Header of a new flit of port `p`; IDLE where there is no message. -/
def flitHdr (s : State) (p : Nat) (msgs : List Msg) : BitVec 128 :=
  let x := portOf s p
  let h : BitVec 128 := bset (bset (bset 0 FLIT.SEQ x.txSeq) FLIT.ACK x.rxSeq) FLIT.ACKV 1
  let h := bset h FLIT.NAK (if x.nak then 1 else 0)
  let h := bset h FLIT.KEYSEL (getF s LNK_KEYCFG.KEYSEL p)
  let h := match creditReturns s p with
    | [a] => bset (bset h FLIT.CRVC0 a.1) FLIT.CRCNT0 a.2
    | a :: b :: _ => bset (bset (bset (bset h FLIT.CRVC0 a.1) FLIT.CRCNT0 a.2) FLIT.CRVC1 b.1) FLIT.CRCNT1 b.2
    | [] => h
  match msgs with
  | [] => h
  | m :: _ =>
    let h := bset (bset (bset h FLIT.TYPE 1) FLIT.VC m.vc.num) FLIT.LEN (msgs.foldl (fun n m => n + msgSlots m) 0)
    let h := bset (bset h FLIT.HOPS (hopsOut s m)) FLIT.DOWNPH (if m.down || downHop s p then 1 else 0)
    bset (bset (bset (bset h FLIT.DSTCHIP m.dst) FLIT.DSTEP m.dep) FLIT.SRCCHIP m.src) FLIT.SRCEP m.sep

/-- The class of a channel's traffic (Table CNT-2). -/
def vcClass (v : Nat) : Nat := if v = 4 then 7 else if v = 5 then 10 else 6

/-- The key switch at the first new flit after a new key is installed; no new key at CNT = 2^40: DOWN (R450). -/
def keySwitch (s : State) (p : Nat) : State :=
  if portSt s p ≠ psActive then s
  else if tstF s LNK_KEYCFG.NEWKEY p then
    let s := setF (setF s LNK_KEYCFG.NEWKEY p 0) LNK_KEYCFG.KEYSEL p (1 - getF s LNK_KEYCFG.KEYSEL p)
    modPort s p fun x => { x with txKey := x.keyNo, txCnt := 0 }
  else if 2 ^ 40 ≤ (portOf s p).txCnt then portDown s p 2
  else s

/-- Times that a message carries are taken as it is sent: T3 of TIME_RSP, t1 of TIME_REQ (R423, R466). -/
def stampMsg (s : State) (m : Msg) : Msg :=
  if m.vc = .ctl ∧ opcOf m.hdr = ctTimeRsp then { m with data := leBytes 8 s.tim.now.toNat ++ m.data.drop 8 } else m

def stampReq (s : State) (p : Nat) (m : Msg) : State :=
  if m.vc = .ctl ∧ opcOf m.hdr = ctTimeReq ∧ p = getF s TIM_SYNC.PORT then
    match s.tim.out with
    | some (x, _) => { s with tim := { s.tim with out := some (x, s.tim.now) } }
    | none => s
  else s

/-- A new flit goes out: retry buffer, SEQ, CNT, credits, NAK. -/
def sendFlit (s : State) (p : Nat) (msgs : List Msg) (stomp : Bool) : State :=
  let s := keySwitch s p
  if portSt s p = psDown then s
  else
    let msgs := msgs.map (stampMsg s)
    let s := msgs.foldl (fun s m => stampReq s p m) s
    let h := flitHdr s p msgs
    let x := portOf s p
    let f : Flit := { hdr := h, msgs := msgs, cnt := x.txCnt, key := x.txKey, stomp := stomp }
    let back := creditReturns s p
    let n := bget h FLIT.LEN
    let v := bget h FLIT.VC
    let owed := back.foldl (fun m e => mputD 0 m e.1 (mgetD 0 m e.1 - e.2)) x.owed
    let active := portSt s p == psActive
    let s := setPort s p { x with
      buf := x.buf ++ [f]
      txSeq := (x.txSeq + 1) % 4096
      txCnt := if active then x.txCnt + 1 else x.txCnt
      owed := owed
      nak := false
      nakHeld := x.nakHeld || x.nak
      credit := if active && n != 0 then mputD 0 x.credit v (mgetD 0 x.credit v - n) else x.credit }
    let s := if n = 0 then s
      else
        let o : Occ := { prv := 1, mst := some (3, p), cls := some (vcClass v) }
        bump (bump s 0x0A01 1 o) 0x0A02 n o
    emit s (.flit p h msgs f.cnt f.key stomp false)

/-- SEQ of the oldest unacknowledged flit. -/
def ackBase (x : Port) : Nat := (x.txSeq + 4096 - x.buf.length) % 4096

/-- One flit of a replay (R449, R452). -/
def resendFlit (s : State) (p q : Nat) : State :=
  let x := portOf s p
  match x.buf[(q + 4096 - ackBase x) % 4096]? with
  | none => modPort s p fun x => { x with replay := none }
  | some f =>
    let nxt := (q + 1) % 4096
    let s := setPort s p { x with replay := if nxt = x.txSeq then none else some nxt }
    let s := bump (satF s LNK_ERRRTY.REPLAY p) 0x0A03 1 { prv := 1, mst := some (3, p) }
    emit s (.flit p f.hdr f.msgs f.cnt f.key f.stomp true)

/-- Messages that no port can carry any more are dropped (R461, Table LNK-9). -/
def dropUnroutable (s : State) (p : Nat) : State :=
  let bad := s.txq.filter fun m => (outPort s m).isNone
  bad.foldl (fun s m => flitDrop (freeBuf s m) (m.fwd.getD p) 1) { s with txq := s.txq.filter fun m => (outPort s m).isSome }

/-- The next new flit of port `p`. -/
def newFlit (s : State) (p : Nat) : State :=
  let s := dropUnroutable s p
  let (msgs, mine) := nextMsgs s p
  let s := if mine then modPort s p fun x => { x with own := without x.own msgs }
    else
      let s := { s with txq := without s.txq msgs }
      let s := msgs.foldl freeBuf s
      match msgs with
      | m :: _ =>
        let s := if partitioned s then meterCharge s p m else s
        modPort s p fun x => { x with
          rr := if m.vc.num < 5 then m.vc.num else x.rr
          rrFwd := if m.fwd.isSome then insRising x.rrFwd m.vc.num else x.rrFwd.filter (· != m.vc.num) }
      | [] => s
  sendFlit s p msgs false

/-- FLIT_TRANSMIT (R457). -/
def execFlitTransmit (p : Nat) (s : State) : Host.Outcome State Fault Refusal :=
  answer (workParts ++ [.tim, .lnk]) s (whenClock s fun s =>
    if 12 ≤ p || !(portSt s p == psParam || portSt s p == psSecure || portSt s p == psActive) then s
    else match (portOf s p).replay with
      | some q => resendFlit s p q
      | none => if 512 ≤ (portOf s p).buf.length then s else newFlit s p)

/-- Credit stalls of one fclk (Table CNT-1). -/
def creditStalls (s : State) : State :=
  if !tstF s CNT_CTL.EN then s
  else (portNums.filter fun p => portSt s p == psActive).foldl (fun s p =>
    (List.range 6).foldl (fun s v =>
      let stalled (m : Msg) : Bool := decide (creditOf s p v < msgSlots m)
      if (flowHeads (portQueue s p v)).any stalled || (v == 5 && (portOf s p).own.head?.any stalled) then
        bump s 0x0A04 1 { prv := 1, mst := some (3, p), cls := some (vcClass v) }
      else s) s) s

end Sys2Proof.Machine
end

