-- ==== Sys2Proof/Machine/LinkRx.lean ====
section
/-! DEFINITION. LinkRx.lean: a port's receiver, the delivery of messages, RETRAIN and heartbeats (R131, R451 to R456, R460, R463,
R465 to R468, R478). -/
namespace Sys2Proof.Machine

/-! ## Heartbeats (R467, R468) -/

/-- An accepted HEARTBEAT. -/
def takeHeartbeat (s : State) (p : Nat) (hdr : BitVec 128) : State :=
  if 12 ≤ p || !portUp s p then s
  else
    let s := modPort s p fun x => { x with hb := hdr, hbGot := true }
    let s := setF (setF s LNK_HB.RXSEQ p (bget hdr HB.HBSEQ)) LNK_HB.MISSES p 0
    if bget hdr HB.HEALTH = 2 then portDown s p 1
    else if tstF s TIM_CFG.EN then rechoose s
    else s

/-- HEARTBEAT (R468). -/
def execHeartbeat (p : Nat) (hdr : BitVec 128) (s : State) : Host.Outcome State Fault Refusal :=
  answer (workParts ++ [.tim, .lnk]) s (whenLive s fun s => takeHeartbeat s p hdr)

/-- HEARTBEAT_SEND (R467): HEALTH is firmware's health state, which the spec leaves open between OK and DEGRADED. -/
def execHeartbeatSend (p : Nat) (s : State) : Host.Outcome State Fault Refusal :=
  answer [.regs, .obs, .lnk, .fresh] s (whenLive s fun s =>
    if 12 ≤ p then s
    else if portSt s p = psActive then
      let (n, s) := takeFresh s
      sendHeartbeat s p (Config.pick n % 2)
    else if portSt s p = psRetrain then modPort s p fun x => { x with hbHeld := true }
    else s)

/-- HEARTBEAT_WINDOW_END (R468). -/
def execHeartbeatWindowEnd (p : Nat) (s : State) : Host.Outcome State Fault Refusal :=
  answer (workParts ++ [.tim, .lnk]) s (whenLive s fun s =>
    if 12 ≤ p || !portUp s p then s
    else if (portOf s p).hbGot then modPort s p fun x => { x with hbGot := false }
    else
      let n := getF s LNK_HB.MISSES p + 1
      let s := setF s LNK_HB.MISSES p n
      if 3 ≤ n then portDown s p 0 else s)

/-! ## RETRAIN (R453, R455) -/

/-- The port enters RETRAIN. -/
def enterRetrain (s : State) (p : Nat) : State :=
  let s := satF (setPortSt s p psRetrain) LNK_ERRRTY.RETRAIN p
  setEvt (emit s (.link p "RETRAIN")) LNK_EVT.RETRAIN

/-- RETRAIN_DONE (R455): each side replays from the other's last acknowledgement; a held heartbeat goes out. -/
def execRetrainDone (p : Nat) (s : State) : Host.Outcome State Fault Refusal :=
  answer [.regs, .obs, .lnk, .fresh] s (whenLive s fun s =>
    if 12 ≤ p || portSt s p != psRetrain then s
    else
      let held := (portOf s p).hbHeld
      let s := modPort (setPortSt s p psActive) p fun x => { x with
        replay := if x.buf.isEmpty then none else some (ackBase x)
        nak := false
        nakHeld := false
        discard := false
        hbHeld := false }
      if held then
        let (n, s) := takeFresh s
        sendHeartbeat s p (Config.pick n % 2)
      else s)

/-- RETRAIN_TIMEOUT (R455). -/
def execRetrainTimeout (p : Nat) (s : State) : Host.Outcome State Fault Refusal :=
  answer (workParts ++ [.tim, .lnk]) s (whenLive s fun s => if p < 12 && portSt s p == psRetrain then portDown s p 3 else s)

/-! ## Delivery -/

/-- The next state that a meaning answers. -/
def nextOf (o : Host.Outcome State Fault Refusal) (s : State) : State := match o with
  | .next t => t
  | _ => s

/-- A CTL message (Table LNK-7); a reserved opcode is discarded and logged (R465). -/
def deliverCtl (s : State) (p : Nat) (hdr : BitVec 128) (data : List Byte) : State :=
  let w1 : BitVec 128 := ofBytes 128 data
  let o := opcOf hdr
  if o = ctHeartbeat then nextOf (execHeartbeat p hdr s) s
  else if o = ctTimeReq then nextOf (execTimeReq p (bget hdr ⟨104, 16⟩) s) s
  else if o = ctTimeRsp then nextOf (execTimeRsp p hdr w1 s) s
  else if o = ctShoot then
    nextOf (execShoot (bget hdr ⟨94, 10⟩) (bget hdr ⟨104, 16⟩) (bget hdr ⟨92, 2⟩) (bget w1 ⟨0, 64⟩) (bget w1 ⟨64, 64⟩) (bget hdr ⟨83, 9⟩) s) s
  else if o = ctShootAck then
    (if bget hdr ⟨94, 10⟩ = own s then nextOf (execShootAck (bget hdr ⟨83, 10⟩) (bget hdr ⟨104, 16⟩) (btst hdr ⟨93, 1⟩) s) s else s)
  else if o = ctFence then
    (let k := bget hdr ⟨119, 1⟩
     nextOf (execFence k (if k = 0 then bget hdr ⟨106, 13⟩ else bget hdr ⟨106, 10⟩) (bget hdr ⟨96, 10⟩) (bget hdr ⟨0, 64⟩) s) s)
  else if o = ctParam then nextOf (execParam p hdr w1 s) s
  else if o = ctSec then whenLive s fun s => takeSecMsg s p hdr data
  else if o = ctSeed then nextOf (execSeedxfer p (hdr.extractLsb' 56 64) (data.take 32) s) s
  else ledger s 0x0B01 0 none [p, o]

/-- An ENG message (Table LNK-8). -/
def deliverEng (s : State) (p src sep : Nat) (hdr : BitVec 128) (data : List Byte) : State :=
  let d := data.take (bget hdr ENGH.LEN)
  match opcOf hdr with
  | 1 => nextOf (execEngRd hdr src sep s) s
  | 2 => nextOf (execEngRdata hdr src sep d (Config.poisonOf hdr d) s) s
  | 3 => nextOf (execEngWr hdr src sep d s) s
  | 4 => nextOf (execEngAck hdr src sep s) s
  | 5 => nextOf (execEngOpx hdr src sep ⟨d, Config.poisonOf hdr d⟩ s) s
  | 6 => nextOf (execEngErr hdr src sep s) s
  | o => ledger s 0x0B01 0 none [p, o]

/-- A message that the home discards for its opcode (R131). -/
def badOpcode (s : State) (vc : VC) (src sep : Nat) (hdr : BitVec 128) : State :=
  let m : CohMsg := ⟨hdr, src, sep, 0⟩
  let s := setEvt (ledger s 0x0401 0 (some m.ten) [m.sa, m.agent]) HOME_EVT.BADREQ
  if vc = .req then errTo s (m.req .rdCur) 0 erAccess else s

/-- A coherence message at the home (Table COH-3). -/
def deliverCoh (s : State) (vc : VC) (src sep : Nat) (hdr : BitVec 128) (data : List Byte) : State :=
  let l : Line := ofBytes 512 (data.take 64)
  let o := opcOf hdr
  if vc = .req then
    if o = opRdShared then nextOf (execRdShared hdr src sep s) s
    else if o = opRdOwn then nextOf (execRdOwn hdr src sep s) s
    else if o = opRdCur then nextOf (execRdCur hdr src sep s) s
    else if o = opWrFull then nextOf (execWrFull hdr src sep l s) s
    else whenLive s fun s => badOpcode s vc src sep hdr
  else if vc = .rsp then
    if o = opRspI then nextOf (execRspI hdr src sep s) s
    else if o = opRspS then nextOf (execRspS hdr src sep s) s
    else if o = opRspFwd then nextOf (execRspFwd hdr src sep s) s
    else if o = opRspGone then nextOf (execRspGone hdr src sep s) s
    else if o = opCmpAck then nextOf (execCmpAck hdr src sep s) s
    else whenLive s fun s => badOpcode s vc src sep hdr
  else if vc = .dat then
    if o = opWb then nextOf (execWb hdr src sep l s) s
    else if o = opEvict then nextOf (execEvictClean hdr src sep s) s
    else if o = opRspData then nextOf (execRspData hdr src sep l s) s
    else whenLive s fun s => badOpcode s vc src sep hdr
  else whenLive s fun s => badOpcode s vc src sep hdr

/-- One message for the chip itself. -/
def deliver (s : State) (p : Nat) (vc : VC) (src sep : Nat) (hdr : BitVec 128) (data : List Byte) : State :=
  match vc with
  | .ctl => deliverCtl s p hdr data
  | .eng => deliverEng s p src sep hdr data
  | _ => deliverCoh s vc src sep hdr data

/-! ## The receiver -/

/-- SEQ distance from `a` up to `b`. -/
def seqDist (a b : Nat) : Nat := (b + 4096 - a) % 4096

/-- A flit is rejected: NAK in the next flit sent, and flits are discarded until the SEQ expected comes (R452). -/
def rejectFlit (s : State) (p : Nat) : State :=
  modPort s p fun x => { x with nak := x.nak || !x.nakHeld, discard := true }

/-- A flit with good CRC whose CNT or tag fails (R451). -/
def tagFail (s : State) (p : Nat) : State :=
  let t := s.tim.now :: ((portOf s p).tagFails.filter fun t => decide ((s.tim.now - t).toNat < 256000000))
  let s := modPort (satF s LNK_ERRFLIT.TAG p) p fun x => { x with tagFails := t }
  if 4 ≤ t.length then portDown (setEvt s LNK_EVT.TAGFAIL) p 2 else rejectFlit s p

/-- Acknowledgement by ACK (R452). -/
def takeAck (s : State) (p a : Nat) : State :=
  let x := portOf s p
  let n := seqDist (ackBase x) a
  if n ≤ x.buf.length then
    (if n = 0 then s
     else modPort s p fun x => { x with
       buf := x.buf.drop n
       again := (0, 0)
       replay := match x.replay with
         | some q => if seqDist (ackBase x) q < n then (if n = x.buf.length then none else some a) else some q
         | none => none })
  else ledger s 0x0B01 0 none [p, 2]

/-- A replay request (R452); the ninth for one SEQ that is never accepted brings RETRAIN (R453). -/
def takeNak (s : State) (p a : Nat) : State :=
  let x := portOf s p
  if x.buf.length ≤ seqDist (ackBase x) a then ledger s 0x0B01 0 none [p, 2]
  else
    let k := if x.again.1 = a then x.again.2 + 1 else 1
    if 8 < k then enterRetrain s p
    else modPort s p fun x => { x with replay := some a, again := (a, k) }

/-- Credit that comes back. -/
def takeCredit (s : State) (p v n : Nat) : State :=
  if n = 0 then s else modPort s p fun x => { x with credit := mput x.credit v (mgetD 0 x.credit v + n) }

/-- The messages of an accepted flit reach the chip, or go on to another endpoint (R460, R461, R463, R478). -/
def flitIn (s : State) (p : Nat) (hdr : BitVec 128) (msgs : List (BitVec 128 × List Byte)) : State :=
  let v := bget hdr FLIT.VC
  let n := bget hdr FLIT.LEN
  let src := bget hdr FLIT.SRCCHIP
  let sep := bget hdr FLIT.SRCEP
  let dst := bget hdr FLIT.DSTCHIP
  let dep := bget hdr FLIT.DSTEP
  let freed (s : State) : State := if portSt s p == psActive then owe s p v n else s
  if isEdge s p ∧ (src ≠ own s ∨ sep ≠ getF s LNK_CFG.SLOT p ∨ v = 4) then flitDrop (freed s) p 3
  else if isPeer s p ∧ src = own s then flitDrop (freed s) p 3
  else if fencedChip s src then freed s
  else match vcOfNum v with
    | none => ledger (freed s) 0x0B01 0 none [p, v]
    | some vc =>
      let hops := bget hdr FLIT.HOPS - 1
      if dst = own s ∧ dep = 8 then msgs.foldl (fun s m => deliver s p vc src sep m.1 m.2) (freed s)
      else if dst = own s ∧ 8 < dep then flitDrop (freed s) p 1
      else if dst ≠ own s ∧ isPeer s p ∧ hops = 0 then flitDrop (freed s) p 2
      else { s with txq := s.txq ++ msgs.map fun m => { vc := vc, dst := dst, dep := dep, src := src, sep := sep, hdr := m.1, data := m.2,
                                                        hops := hops, down := btst hdr FLIT.DOWNPH, fwd := some p } }

/-- A flit is accepted (R451, R452, R454, R456). `sw`: it is the first under the new key. -/
def acceptFlit (s : State) (p : Nat) (hdr : BitVec 128) (msgs : List (BitVec 128 × List Byte)) (stomp sw : Bool) : State :=
  let active := portSt s p == psActive
  let s := modPort s p fun x => { x with
    rxSeq := (x.rxSeq + 1) % 4096
    rxCnt := if !active then 0 else if sw then 1 else x.rxCnt + 1
    rxSel := if sw then 1 - x.rxSel else x.rxSel
    rxNew := x.rxNew && !sw
    discard := false
    nak := false
    nakHeld := false }
  let s := if btst hdr FLIT.ACKV then takeAck s p (bget hdr FLIT.ACK) else s
  let s := if btst hdr FLIT.NAK then takeNak s p (bget hdr FLIT.ACK) else s
  let s := takeCredit (takeCredit s p (bget hdr FLIT.CRVC0) (bget hdr FLIT.CRCNT0)) p (bget hdr FLIT.CRVC1) (bget hdr FLIT.CRCNT1)
  if stomp then owe (satF s LNK_ERRDROP.STOMP p) p (bget hdr FLIT.VC) (bget hdr FLIT.LEN)
  else if bget hdr FLIT.TYPE = 1 then flitIn s p hdr msgs
  else s

/-- A flit rejected after cut-through has begun: its outbound copy ends with STOMP (R454). -/
def stompOut (s : State) (p : Nat) (hdr : BitVec 128) : State :=
  match vcOfNum (bget hdr FLIT.VC) with
  | none => s
  | some vc =>
    let n := bget hdr FLIT.LEN
    let m : Msg := { vc := vc, dst := bget hdr FLIT.DSTCHIP, dep := bget hdr FLIT.DSTEP, src := bget hdr FLIT.SRCCHIP, sep := bget hdr FLIT.SRCEP,
                     hdr := 0, data := List.replicate (16 * (n - 1)) 0, hops := bget hdr FLIT.HOPS - 1, down := btst hdr FLIT.DOWNPH, fwd := some p }
    match outPort s m with
    | some q => if n = 0 || portSt s q != psActive || decide (creditOf s q vc.num < n) then s else sendFlit s q [m] true
    | none => s

/-- FLIT_RECEIVE (R451): header, messages as decrypted, CNT and STOMP of the trailer; what the CRC and tag checks say; whether
cut-through has begun. -/
def flitReceive (s : State) (p : Nat) (hdr : BitVec 128) (msgs : List (BitVec 128 × List Byte)) (cnt : Nat) (crcOk tagOk stomp cut : Bool) : State :=
  let x := portOf s p
  let q := bget hdr FLIT.SEQ
  let reject (f : State → State) : State := let s := if cut then stompOut s p hdr else s; f s
  if !crcOk then reject fun s => rejectFlit (satF s LNK_ERRFLIT.CRC p) p
  else if q ≠ x.rxSeq then
    (if x.discard || decide (seqDist q x.rxSeq ≤ 512) then s else reject fun s => rejectFlit s p)
  else if portSt s p ≠ psActive then acceptFlit s p hdr msgs stomp false
  else
    let sw := x.rxNew && bget hdr FLIT.KEYSEL != x.rxSel
    if cnt ≠ (if sw then 0 else x.rxCnt) || (!sw && bget hdr FLIT.KEYSEL != x.rxSel) || !tagOk then reject fun s => tagFail s p
    else acceptFlit s p hdr msgs stomp sw

/-- FLIT_RECEIVE (R451). -/
def execFlitReceive (p : Nat) (hdr : BitVec 128) (msgs : List (BitVec 128 × List Byte)) (cnt : Nat) (crcOk tagOk stomp cut : Bool)
    (s : State) : Host.Outcome State Fault Refusal :=
  answer (workParts ++ [.tim, .lnk, .sec]) s (whenClock s fun s =>
    if 12 ≤ p || !(portSt s p == psParam || portSt s p == psSecure || portSt s p == psActive) then s
    else flitReceive s p hdr msgs cnt crcOk tagOk stomp cut)

/-- NAK_RESEND_TIMER (R452): 1 µs without the flit expected. -/
def execNakResendTimer (p : Nat) (s : State) : Host.Outcome State Fault Refusal :=
  answer [.lnk] s (whenClock s fun s =>
    if p < 12 && (portOf s p).discard then modPort s p fun x => { x with nak := true, nakHeld := false } else s)

end Sys2Proof.Machine
end

