-- ==== Sys2Proof/Machine/Pool.lean ====
section
/-! DEFINITION. Pool.lean: FILL, COPY, COMPARE, REDUCE and SCRIBE_RUN, and the ends of their pieces (chapter "Pool
operations and scribes"). -/
namespace Sys2Proof.Machine


/-! ## Scribes in descriptors (Table NMO-6) -/

def scrPoly (d : Desc) : Nat := ops0 d 2 2
def scrFold (d : Desc) : Nat := ops0 d 4 2
def scrBsz (d : Desc) : Nat := ops0 d 6 2
def scrExp (d : Desc) : Bool := ops0 d 8 1 == 1

/-- The descriptor needs a scribe (R407). -/
def wantsScribe (d : Desc) : Bool := opcode d == ocScribe || (opcode d == ocCopy && ops0 d 1 1 == 1)

/-- The fold word of block `b` that begins at byte `off` of operand 0. -/
def foldWord (sl : Slot) (b off : Nat) : Option Nat :=
  match scrFold sl.d with
  | 1 => some ((saAt (extsOf sl 0) off).getD 0)
  | 2 => some ((par sl.d 112 8 + b) % 2 ^ 64)
  | _ => none

/-- Block size of SCRIBE_RUN, none in whole mode. -/
def blockSize (d : Desc) : Option Nat :=
  match scrBsz d with
  | 1 => some 512
  | 2 => some 4096
  | _ => none

/-! ## Pieces (R391) -/

/-- Bytes over which the pieces are counted: the destination, or the operand when there is none. -/
def poolLen (d : Desc) : Nat :=
  if opcode d = ocCopy then opLen d 1 else if opcode d = ocReduce then opLen d 4 else opLen d 0

def pieces (d : Desc) : Nat := ceilDiv (poolLen d) 4096

/-- Sources of REDUCE: (slot, offset of the source in it), numbered by slot and then by position (R400). -/
def sources (d : Desc) : List (Nat × Nat) :=
  let n := opLen d 4
  ((List.range 4).map fun i => (List.range (opLen d i / n)).map fun k => (i, k * n)).flatten

/-- What piece `p` reads: (slot, offset, length). -/
def pieceReads (d : Desc) (p : Nat) : List (Nat × Nat × Nat) :=
  let off := 4096 * p
  let n := min 4096 (poolLen d - off)
  if opcode d = ocFill then []
  else if opcode d = ocCompare then [(0, off, n), (1, off, n)]
  else if opcode d = ocReduce then (sources d).map fun x => (x.1, x.2 + off, n)
  else if opcode d = ocScribe ∧ (blockSize d).isSome ∧ scrExp d then
    let b := (blockSize d).getD 512
    [(0, off, n), (2, off / b * 8, n / b * 8)]
  else [(0, off, n)]

/-- The check value computed over a further run of bytes. -/
def scrMore (run : ScrRun) (bs : List Byte) : ScrRun :=
  { run with reg := crcFeed (polyOf run.poly) run.reg bs, cnt := run.cnt + bs.length }

/-- Operations of REDUCE on one element (Table NMO-2). -/
def reduceElem (seed fmt op : Nat) (xs : List Nat) : List Byte :=
  let w := fmBits fmt
  let two (f : Int → Int → Int) : List Byte :=
    match xs.map (sgn w) with
    | [] => []
    | y :: ys => leBytes (w / 8) (wrapI w (ys.foldl f y))
  let bitw (f : Nat → Nat → Nat) : List Byte :=
    match xs with
    | [] => []
    | y :: ys => leBytes (w / 8) (ys.foldl f y)
  if isInt fmt then
    match op with
    | 0 => two (· + ·)
    | 1 => two min
    | 2 => two max
    | 3 => bitw (· &&& ·)
    | 4 => bitw (· ||| ·)
    | _ => bitw (· ^^^ ·)
  else
    match op with
    | 0 => outElem fmt .rne true (val32 (sum32 seed (xs.map fun x => f32 (decodeF (ffOf fmt) x))))
    | _ =>
      let pick (f : Num → Num → Num) : List Byte :=
        match xs.map (decodeF (ffOf fmt)) with
        | [] => []
        | y :: ys => leBytes (w / 8) (encodeF (ffOf fmt) .rne false (ys.foldl f y))
      if op = 1 then pick minN else pick maxN

/-- A scribe comparison of a descriptor found a difference: event, ledger record and signal (R415). -/
def scribeDiff (s : State) (sl : Slot) (exp got : Nat) : State :=
  if sl.sig then s else
  let s := setEvt s SCR_EVT.DESCMIS
  let s := ledger s 0x0901 2 (qOwner s sl.ctx) [exp, got, hd sl.d DHDR.TAG]
  modSlot s sl.seq fun x => { x with sig := true }

/-- The effect of piece `p`, its lines gathered. -/
def pieceDo (s : State) (sl : Slot) (p : Nat) : State :=
  let d := sl.d
  let sq := sl.seq
  let off := 4096 * p
  let n := min 4096 (poolLen d - off)
  let (done, res, scr) := match sl.work with
    | .pool a b c => (a, b, c)
    | _ => ([], 0, none)
  let put (s : State) (res : Nat) (scr : Option ScrRun) : State :=
    modSlot s sq fun x => { x with work := .pool (insRising done p) res scr }
  let lines (s : State) (k : Nat) : State := bump s 0x0901 k { occOf s sl with mst := none }
  if opcode d = ocFill then
    let plen := 2 ^ ops0 d 1 2
    let pat := leBytes 8 (par d 112 8)
    let bs := (List.range n).map fun j => (pat[(off + j) % plen]?).getD 0
    put (lines (storeBytes s sq 0 off bs (fill := true)) (ceilDiv n 64)) (res + n) scr
  else if opcode d = ocCopy then
    let bs := gather sl 0 off n
    let s := storeBytes s sq 1 off bs (fun o k => anyPoison sl 0 (off + o) k)
    put (lines s (2 * ceilDiv n 64)) (res + n) (scr.map fun r => scrMore r bs)
  else if opcode d = ocCompare then
    let a := gather sl 0 off n
    let b := gather sl 1 off n
    let diff := ((List.range n).find? fun i => a[i]? != b[i]?).map (off + ·)
    put (lines s (2 * ceilDiv n 64)) (match diff with | some i => min res i | none => res) scr
  else if opcode d = ocReduce then
    let fmt := opF d 4 OPND.FMT
    let w := fmBits fmt
    let srcs := sources d
    let bss := srcs.map fun x => gather sl x.1 (x.2 + off) n
    let bs := ((List.range (n * 8 / w)).map fun i =>
      reduceElem (s.fresh + i) fmt (ops0 d 1 3) (bss.map fun b => rawElem fmt b i)).flatten
    let s := { s with fresh := s.fresh + n }
    let s := storeBytes s sq 4 off bs (fun o k => srcs.any fun x => anyPoison sl x.1 (x.2 + off + o) k)
    put (lines s ((srcs.length + 1) * ceilDiv n 64)) (res + n) scr
  else
    let bs := gather sl 0 off n
    match blockSize d with
    | none => put (lines s (ceilDiv n 64)) res (scr.map fun r => scrMore r bs)
    | some b =>
      let blocks := List.range (n / b)
      let vals := blocks.map fun i => crcOf (scrPoly d) (foldWord sl (off / b + i) (off + b * i)) ((bs.drop (b * i)).take b)
      let s := if opLen d 1 = 0 then s else storeBytes s sq 1 (off / b * 8) ((vals.map (leBytes 8)).flatten)
      let exps := blocks.map fun i => leNat ((gather sl 2 (off / b * 8) (n / b * 8)).drop (8 * i) |>.take 8)
      let bad := if scrExp d then blocks.filter fun i => vals[i]? != exps[i]? else []
      let s := match bad with
        | [] => s
        | i :: _ => scribeDiff s sl ((exps[i]?).getD 0) ((vals[i]?).getD 0)
      let cnt := res % 2 ^ 32 + bad.length
      let first := match bad with
        | [] => res / 2 ^ 32
        | i :: _ => min (res / 2 ^ 32) (off / b + i)
      put (lines s (ceilDiv n 64)) (first * 2 ^ 32 + cnt) scr

/-- The result of a pool operation before its first piece. -/
def poolRes0 (d : Desc) : Nat :=
  if opcode d = ocCompare then 2 ^ 64 - 1
  else if opcode d = ocScribe ∧ (blockSize d).isSome then (2 ^ 32 - 1) * 2 ^ 32
  else 0

/-- Every piece has ended: the result word, the check value and its comparison (R395, R397, R399, R403, R414, R415). -/
def poolEnd (s : State) (sl : Slot) (res : Nat) (scr : Option ScrRun) : State :=
  let d := sl.d
  match scr with
  | some r =>
    let v := crcEnd (polyOf r.poly) r.reg
    if scrExp d && v != par d 120 8 then
      finish (scribeDiff s sl (par d 120 8) v) sl.seq stOk 0x00A1 v
    else finish s sl.seq stOk 0 v
  | none => finish s sl.seq stOk (if sl.sig then 0x00A1 else 0) res

/-- A pool operation whose pieces have all ended completes. -/
def poolCheck (s : State) (sq : Nat) : State :=
  match slotOf s sq with
  | none => s
  | some sl =>
    match sl.work with
    | .pool done res scr => if done.length = pieces sl.d then poolEnd s sl res scr else s
    | _ => s

/-- A pool operation begins: its first lines are asked. -/
def poolRun (s : State) (sq : Nat) : State :=
  match slotOf s sq with
  | none => s
  | some sl =>
    let d := sl.d
    let scr : Option ScrRun :=
      if wantsScribe d && (opcode d == ocCopy || (blockSize d).isNone) then
        some { poly := scrPoly d, reg := crcStart (polyOf (scrPoly d)) (foldWord sl 0 0) }
      else none
    poolCheck (setSlot s sq { sl with ph := .running, work := .pool [] (poolRes0 d) scr }) sq

/-- A pool operation starts, or waits for a scribe (R407). -/
def poolStart (s : State) (oc sq : Nat) : State :=
  atBoundary s sq fun sl =>
    if sl.ph != .launched || opcode sl.d != oc then s
    else if wantsScribe sl.d then
      let fr := freeScribes s
      if fr.isEmpty || !scribeRoom s sl || (nextForScribe s).isSome then
        if s.nmo.waiting.contains sq then s
        else { s with nmo := { s.nmo with waiting := s.nmo.waiting ++ [sq] } }
      else match choose s fr with
        | (some n, s) => poolRun (takeScribe s n sq) sq
        | (none, s) => s
    else poolRun s sq

/-- FILL (R395, R396). -/
def execFill (sq : Nat) (s : State) : Host.Outcome State Fault Refusal := answer coreParts s (whenLive s fun s => poolStart s ocFill sq)

/-- COPY (R397, R412). -/
def execCopy (sq : Nat) (s : State) : Host.Outcome State Fault Refusal := answer coreParts s (whenLive s fun s => poolStart s ocCopy sq)

/-- COMPARE (R399). -/
def execCompare (sq : Nat) (s : State) : Host.Outcome State Fault Refusal :=
  answer coreParts s (whenLive s fun s => poolStart s ocCompare sq)

/-- REDUCE (R400 to R403). -/
def execReduce (sq : Nat) (s : State) : Host.Outcome State Fault Refusal := answer coreParts s (whenLive s fun s => poolStart s ocReduce sq)

/-- SCRIBE_RUN (R413, R414). -/
def execScribeRun (sq : Nat) (s : State) : Host.Outcome State Fault Refusal :=
  answer coreParts s (whenLive s fun s => poolStart s ocScribe sq)

/-- The end of piece `p` of a pool operation: a tile boundary (R392). Lines it needs and does not yet hold are asked
first; while one is still to come the piece goes on. A check value over the whole operand takes the pieces in order. -/
def poolPiece (s : State) (sq p : Nat) : State :=
  atBoundary s sq fun sl =>
    match sl.work, sl.err with
    | .pool done res scr, err =>
      match (match err with | some e => if e.1 = stPoison then none else some e | none => none) with
      | some e => finish s sq e.1 e.2 res
      | none =>
        if done.contains p || pieces sl.d ≤ p || (scr.isSome && p != done.length) then s
        else
          let rs := pieceReads sl.d p
          let s := rs.foldl (fun s r => askBytes s sq r.1 r.2.1 r.2.2) s
          match slotOf s sq with
          | none => s
          | some sl => match (match sl.err with | some e => if e.1 = stPoison then none else some e | none => none) with
            | some e => finish s sq e.1 e.2 res
            | none => if rs.all fun r => haveBytes sl r.1 r.2.1 r.2.2 then poolCheck (pieceDo s sl p) sq else s
    | _, _ => s

/-- POOL_PIECE_END (R392). -/
def execPoolPieceEnd (sq piece : Nat) (s : State) : Host.Outcome State Fault Refusal :=
  answer workParts s (whenLive s fun s => layerTick (poolPiece s sq piece))

/-- SCRIBE_GRANT (R407): the next waiting descriptor in launch order takes a freed POOL scribe. -/
def execScribeGrant (n : Nat) (s : State) : Host.Outcome State Fault Refusal :=
  answer coreParts s (whenLive s fun s =>
    if (freeScribes s).contains n then
      match nextForScribe s with
      | some sl => atBoundary (takeScribe s n sl.seq) sl.seq fun _ => poolRun (takeScribe s n sl.seq) sl.seq
      | none => s
    else s)

end Sys2Proof.Machine
end

