-- ==== Sys2Proof/Machine/Dispatch.lean ====
section
/-! DEFINITION. Dispatch.lean: one arm for each command, each a direct call of its meaning. -/
namespace Sys2Proof.Machine

def exec (i : Instr) (s : State) : Host.Outcome State Fault Refusal :=
  match i with
  | .extentRecordHighWrite far e v => Sys2Proof.Machine.execExtentRecordHighWrite far e v s
  | .extentRecordApply far e v => Sys2Proof.Machine.execExtentRecordApply far e v s
  | .extentValidClear far e v => Sys2Proof.Machine.execExtentValidClear far e v s
  | .extentRetireIdle far e => Sys2Proof.Machine.execExtentRetireIdle far e s
  | .tier2WideWrite off v prv ten => Sys2Proof.Machine.execTier2WideWrite off v prv ten s
  | .versionRecordWrite rgn word v => Sys2Proof.Machine.execVersionRecordWrite rgn word v s
  | .publish sq rem => Sys2Proof.Machine.execPublish sq rem s
  | .publishHomeUpdate rgn base expected chip tag => Sys2Proof.Machine.execPublishHomeUpdate rgn base expected chip tag s
  | .publishDrained id => Sys2Proof.Machine.execPublishDrained id s
  | .mirrorWriteAccept tag => Sys2Proof.Machine.execMirrorWriteAccept tag s
  | .parityDeltaUpdate chip tag sa pos delta => Sys2Proof.Machine.execParityDeltaUpdate chip tag sa pos delta s
  | .parityDeltaAck sa isQ ok => Sys2Proof.Machine.execParityDeltaAck sa isQ ok s
  | .translateDescriptor sq rem => Sys2Proof.Machine.execTranslateDescriptor sq rem s
  | .faultRecordWrite ten => Sys2Proof.Machine.execFaultRecordWrite ten s
  | .faultBatchClose ten => Sys2Proof.Machine.execFaultBatchClose ten s
  | .faultRingHeadWrite ten v => Sys2Proof.Machine.execFaultRingHeadWrite ten v s
  | .faultRingEnable ten v => Sys2Proof.Machine.execFaultRingEnable ten v s
  | .resumeRetry ten pslot gen => Sys2Proof.Machine.execResumeRetry ten pslot gen s
  | .resumeAbort ten pslot gen => Sys2Proof.Machine.execResumeAbort ten pslot gen s
  | .parkedDeadlineExpire pslot => Sys2Proof.Machine.execParkedDeadlineExpire pslot s
  | .parkSlotAvailable n => Sys2Proof.Machine.execParkSlotAvailable n s
  | .spillSpaceAvailable n => Sys2Proof.Machine.execSpillSpaceAvailable n s
  | .shootdownVa v => Sys2Proof.Machine.execShootdownVa v s
  | .shootdownTenant v => Sys2Proof.Machine.execShootdownTenant v s
  | .shootdownExtent v => Sys2Proof.Machine.execShootdownExtent v s
  | .shootdownRegion v => Sys2Proof.Machine.execShootdownRegion v s
  | .shootdownReservedKind v => Sys2Proof.Machine.execShootdownReservedKind v s
  | .shootdownDrained id => Sys2Proof.Machine.execShootdownDrained id s
  | .shoot chip id kind addr len ten => Sys2Proof.Machine.execShoot chip id kind addr len ten s
  | .shootAck chip id drained => Sys2Proof.Machine.execShootAck chip id drained s
  | .queueContextEnable n v => Sys2Proof.Machine.execQueueContextEnable n v s
  | .queueContextDisable n v => Sys2Proof.Machine.execQueueContextDisable n v s
  | .queueDrainEnd n => Sys2Proof.Machine.execQueueDrainEnd n s
  | .sqTail prv ten q v => Sys2Proof.Machine.execSqTail prv ten q v s
  | .cqHead prv ten q v => Sys2Proof.Machine.execCqHead prv ten q v s
  | .resume prv ten q => Sys2Proof.Machine.execResume prv ten q s
  | .cancelAll prv ten q => Sys2Proof.Machine.execCancelAll prv ten q s
  | .cancelTag prv ten q tag => Sys2Proof.Machine.execCancelTag prv ten q tag s
  | .doorbellMissizedWrite prv page off => Sys2Proof.Machine.execDoorbellMissizedWrite prv page off s
  | .descriptorFetch n => Sys2Proof.Machine.execDescriptorFetch n s
  | .descriptorArrive n first ds => Sys2Proof.Machine.execDescriptorArrive n first ds s
  | .descriptorLaunch sq => Sys2Proof.Machine.execDescriptorLaunch sq s
  | .descriptorDeadline sq => Sys2Proof.Machine.execDescriptorDeadline sq s
  | .interruptModerationTimer n => Sys2Proof.Machine.execInterruptModerationTimer n s
  | .hostReadFail ring id cause => Sys2Proof.Machine.execHostReadFail ring id cause s
  | .nop sq => Sys2Proof.Machine.execNop sq s
  | .tallyWait sq => Sys2Proof.Machine.execTallyWait sq s
  | .tallySet sq => Sys2Proof.Machine.execTallySet sq s
  | .cut sq => Sys2Proof.Machine.execCut sq s
  | .fill sq => Sys2Proof.Machine.execFill sq s
  | .copy sq => Sys2Proof.Machine.execCopy sq s
  | .compare sq => Sys2Proof.Machine.execCompare sq s
  | .reduce sq => Sys2Proof.Machine.execReduce sq s
  | .prefetch sq => Sys2Proof.Machine.execPrefetch sq s
  | .adviseNone sq => Sys2Proof.Machine.execAdviseNone sq s
  | .adviseHot sq => Sys2Proof.Machine.execAdviseHot sq s
  | .adviseCold sq => Sys2Proof.Machine.execAdviseCold sq s
  | .adviseStream sq => Sys2Proof.Machine.execAdviseStream sq s
  | .adviseXltPreload sq => Sys2Proof.Machine.execAdviseXltPreload sq s
  | .sparseGemm sq => Sys2Proof.Machine.execSparseGemm sq s
  | .attnDecode sq => Sys2Proof.Machine.execAttnDecode sq s
  | .kvAppend sq => Sys2Proof.Machine.execKvAppend sq s
  | .kvLeaseCreate sq => Sys2Proof.Machine.execKvLeaseCreate sq s
  | .kvLeaseAcquire sq => Sys2Proof.Machine.execKvLeaseAcquire sq s
  | .kvLeaseRelease sq => Sys2Proof.Machine.execKvLeaseRelease sq s
  | .kvLeaseRenew sq => Sys2Proof.Machine.execKvLeaseRenew sq s
  | .kvLeaseTruncate sq => Sys2Proof.Machine.execKvLeaseTruncate sq s
  | .expertFfn sq => Sys2Proof.Machine.execExpertFfn sq s
  | .layerStream sq => Sys2Proof.Machine.execLayerStream sq s
  | .embGather sq => Sys2Proof.Machine.execEmbGather sq s
  | .embUpdate sq => Sys2Proof.Machine.execEmbUpdate sq s
  | .embLoad sq => Sys2Proof.Machine.execEmbLoad sq s
  | .embSwitch sq => Sys2Proof.Machine.execEmbSwitch sq s
  | .embRefresh sq => Sys2Proof.Machine.execEmbRefresh sq s
  | .embPin sq => Sys2Proof.Machine.execEmbPin sq s
  | .embUnpin sq => Sys2Proof.Machine.execEmbUnpin sq s
  | .vinsert sq => Sys2Proof.Machine.execVinsert sq s
  | .vdelete sq => Sys2Proof.Machine.execVdelete sq s
  | .vscan sq => Sys2Proof.Machine.execVscan sq s
  | .vrerank sq => Sys2Proof.Machine.execVrerank sq s
  | .scribeRun sq => Sys2Proof.Machine.execScribeRun sq s
  | .rdShared hdr chip ep => Sys2Proof.Machine.execRdShared hdr chip ep s
  | .rdOwn hdr chip ep => Sys2Proof.Machine.execRdOwn hdr chip ep s
  | .rdCur hdr chip ep => Sys2Proof.Machine.execRdCur hdr chip ep s
  | .wrFull hdr chip ep data => Sys2Proof.Machine.execWrFull hdr chip ep data s
  | .wb hdr chip ep data => Sys2Proof.Machine.execWb hdr chip ep data s
  | .evictClean hdr chip ep => Sys2Proof.Machine.execEvictClean hdr chip ep s
  | .rspI hdr chip ep => Sys2Proof.Machine.execRspI hdr chip ep s
  | .rspS hdr chip ep => Sys2Proof.Machine.execRspS hdr chip ep s
  | .rspFwd hdr chip ep => Sys2Proof.Machine.execRspFwd hdr chip ep s
  | .rspGone hdr chip ep => Sys2Proof.Machine.execRspGone hdr chip ep s
  | .rspData hdr chip ep data => Sys2Proof.Machine.execRspData hdr chip ep data s
  | .cmpAck hdr chip ep => Sys2Proof.Machine.execCmpAck hdr chip ep s
  | .nearReadReturn htx ecc sec => Sys2Proof.Machine.execNearReadReturn htx ecc sec s
  | .retryQueueStart num => Sys2Proof.Machine.execRetryQueueStart num s
  | .homeTransactionTimeout queued n => Sys2Proof.Machine.execHomeTransactionTimeout queued n s
  | .deadAgentSweepEnd agent => Sys2Proof.Machine.execDeadAgentSweepEnd agent s
  | .engRd hdr chip ep => Sys2Proof.Machine.execEngRd hdr chip ep s
  | .engRdata hdr chip ep data poison => Sys2Proof.Machine.execEngRdata hdr chip ep data poison s
  | .engWr hdr chip ep data => Sys2Proof.Machine.execEngWr hdr chip ep data s
  | .engAck hdr chip ep => Sys2Proof.Machine.execEngAck hdr chip ep s
  | .engErr hdr chip ep => Sys2Proof.Machine.execEngErr hdr chip ep s
  | .engOpx hdr chip ep data => Sys2Proof.Machine.execEngOpx hdr chip ep data s
  | .postedWriteTimeout tag => Sys2Proof.Machine.execPostedWriteTimeout tag s
  | .tallyAllocate k v => Sys2Proof.Machine.execTallyAllocate k v s
  | .tallyCountWrite k v => Sys2Proof.Machine.execTallyCountWrite k v s
  | .tallyRelease k v => Sys2Proof.Machine.execTallyRelease k v s
  | .fillDataVerified blk => Sys2Proof.Machine.execFillDataVerified blk s
  | .fillUncorrectable blk => Sys2Proof.Machine.execFillUncorrectable blk s
  | .redundantReadReturn blk ok data => Sys2Proof.Machine.execRedundantReadReturn blk ok data s
  | .writebackStart blk => Sys2Proof.Machine.execWritebackStart blk s
  | .writebackAck blk => Sys2Proof.Machine.execWritebackAck blk s
  | .dirtyAgeExpire blk => Sys2Proof.Machine.execDirtyAgeExpire blk s
  | .evictionStart ten sys => Sys2Proof.Machine.execEvictionStart ten sys s
  | .patrolScrubStep ecc sec => Sys2Proof.Machine.execPatrolScrubStep ecc sec s
  | .eraseBlockFail ch chanFail => Sys2Proof.Machine.execEraseBlockFail ch chanFail s
  | .arrayGrant a => Sys2Proof.Machine.execArrayGrant a s
  | .passEnd a => Sys2Proof.Machine.execPassEnd a s
  | .arrayFence a => Sys2Proof.Machine.execArrayFence a s
  | .attnRoundEnd sq pair => Sys2Proof.Machine.execAttnRoundEnd sq pair s
  | .leaseExpiryScan => Sys2Proof.Machine.execLeaseExpiryScan s
  | .leaseReclaim k => Sys2Proof.Machine.execLeaseReclaim k s
  | .truncateBlockRelease k => Sys2Proof.Machine.execTruncateBlockRelease k s
  | .kvPoolEnable ten v => Sys2Proof.Machine.execKvPoolEnable ten v s
  | .layerWaitDeadline sq => Sys2Proof.Machine.execLayerWaitDeadline sq s
  | .embActivate t => Sys2Proof.Machine.execEmbActivate t s
  | .embDeactivate t => Sys2Proof.Machine.execEmbDeactivate t s
  | .lookup => Sys2Proof.Machine.execLookup s
  | .partialRsp => Sys2Proof.Machine.execPartialRsp s
  | .update => Sys2Proof.Machine.execUpdate s
  | .updEnd => Sys2Proof.Machine.execUpdEnd s
  | .updAck => Sys2Proof.Machine.execUpdAck s
  | .updateWindowTimeout t k => Sys2Proof.Machine.execUpdateWindowTimeout t k s
  | .push => Sys2Proof.Machine.execPush s
  | .pushEnd => Sys2Proof.Machine.execPushEnd s
  | .hotBufferPushRelease t => Sys2Proof.Machine.execHotBufferPushRelease t s
  | .opxErr => Sys2Proof.Machine.execOpxErr s
  | .vscActivate c => Sys2Proof.Machine.execVscActivate c s
  | .vscDeactivate c => Sys2Proof.Machine.execVscDeactivate c s
  | .vscAdopt c => Sys2Proof.Machine.execVscAdopt c s
  | .scanBlockRead sq ch uncorr red => Sys2Proof.Machine.execScanBlockRead sq ch uncorr red s
  | .planeEngineFail ch chan => Sys2Proof.Machine.execPlaneEngineFail ch chan s
  | .poolPieceEnd sq piece => Sys2Proof.Machine.execPoolPieceEnd sq piece s
  | .scribeGrant n => Sys2Proof.Machine.execScribeGrant n s
  | .scrStart fw n v => Sys2Proof.Machine.execScrStart fw n v s
  | .scrFinish fw n v => Sys2Proof.Machine.execScrFinish fw n v s
  | .scrAbort fw n v => Sys2Proof.Machine.execScrAbort fw n v s
  | .scrData8 fw n v => Sys2Proof.Machine.execScrData8 fw n v s
  | .scrData16 fw n v => Sys2Proof.Machine.execScrData16 fw n v s
  | .scrData32 fw n v => Sys2Proof.Machine.execScrData32 fw n v s
  | .scrValWrite fw n v => Sys2Proof.Machine.execScrValWrite fw n v s
  | .scrCntWrite fw n v => Sys2Proof.Machine.execScrCntWrite fw n v s
  | .scrCfgWrite fw n v => Sys2Proof.Machine.execScrCfgWrite fw n v s
  | .scrFoldWrite fw n v => Sys2Proof.Machine.execScrFoldWrite fw n v s
  | .scrExpWrite fw n v => Sys2Proof.Machine.execScrExpWrite fw n v s
  | .scrStatClear fw n v => Sys2Proof.Machine.execScrStatClear fw n v s
  | .timeExchangeStart => Sys2Proof.Machine.execTimeExchangeStart s
  | .timeReq p xid => Sys2Proof.Machine.execTimeReq p xid s
  | .timeRsp p w0 w1 => Sys2Proof.Machine.execTimeRsp p w0 w1 s
  | .holdoverLimit => Sys2Proof.Machine.execHoldoverLimit s
  | .ptpReferenceMessage ref locked => Sys2Proof.Machine.execPtpReferenceMessage ref locked s
  | .raiseMatch => Sys2Proof.Machine.execRaiseMatch s
  | .portEnable p v => Sys2Proof.Machine.execPortEnable p v s
  | .detectPoll p present => Sys2Proof.Machine.execDetectPoll p present s
  | .portTrainingStageDone p => Sys2Proof.Machine.execPortTrainingStageDone p s
  | .trainingLimitExpire p => Sys2Proof.Machine.execTrainingLimitExpire p s
  | .param p w0 w1 => Sys2Proof.Machine.execParam p w0 w1 s
  | .hello p body => Sys2Proof.Machine.execHello p body s
  | .encap p body => Sys2Proof.Machine.execEncap p body s
  | .linkFinish p body => Sys2Proof.Machine.execLinkFinish p body s
  | .seedxfer p fsid seed => Sys2Proof.Machine.execSeedxfer p fsid seed s
  | .flitReceive p hdr msgs cnt crcOk tagOk stomp cut => Sys2Proof.Machine.execFlitReceive p hdr msgs cnt crcOk tagOk stomp cut s
  | .nakResendTimer p => Sys2Proof.Machine.execNakResendTimer p s
  | .retrainDone p => Sys2Proof.Machine.execRetrainDone p s
  | .retrainTimeout p => Sys2Proof.Machine.execRetrainTimeout p s
  | .rekeyInterval p => Sys2Proof.Machine.execRekeyInterval p s
  | .heartbeatSend p => Sys2Proof.Machine.execHeartbeatSend p s
  | .heartbeat p hdr => Sys2Proof.Machine.execHeartbeat p hdr s
  | .heartbeatWindowEnd p => Sys2Proof.Machine.execHeartbeatWindowEnd p s
  | .deathDeclareWait y => Sys2Proof.Machine.execDeathDeclareWait y s
  | .fence kind subj from_ t => Sys2Proof.Machine.execFence kind subj from_ t s
  | .reportResend => Sys2Proof.Machine.execReportResend s
  | .mirrorWriteTimeout tag => Sys2Proof.Machine.execMirrorWriteTimeout tag s
  | .ack oseq ok sq => Sys2Proof.Machine.execAck oseq ok sq s
  | .rebuild oseq ok src dst rec_ => Sys2Proof.Machine.execRebuild oseq ok src dst rec_ s
  | .rebuildCopyDone blocks => Sys2Proof.Machine.execRebuildCopyDone blocks s
  | .rebuildStop oseq ok dst => Sys2Proof.Machine.execRebuildStop oseq ok dst s
  | .restart oseq ok cut plan => Sys2Proof.Machine.execRestart oseq ok cut plan s
  | .ledgerRead oseq ok first count => Sys2Proof.Machine.execLedgerRead oseq ok first count s
  | .plumbCompare sq a b second => Sys2Proof.Machine.execPlumbCompare sq a b second s
  | .plumbSelftestDone sq failA failB => Sys2Proof.Machine.execPlumbSelftestDone sq failA failB s
  | .cutFreezeEnd => Sys2Proof.Machine.execCutFreezeEnd s
  | .cutPageDrain => Sys2Proof.Machine.execCutPageDrain s
  | .cutReservePageFree => Sys2Proof.Machine.execCutReservePageFree s
  | .cutDrainEnd => Sys2Proof.Machine.execCutDrainEnd s
  | .cutHoldLimit => Sys2Proof.Machine.execCutHoldLimit s
  | .pseudoChannelFail pc => Sys2Proof.Machine.execPseudoChannelFail pc s
  | .flashChannelUnresponsive ch => Sys2Proof.Machine.execFlashChannelUnresponsive ch s
  | .tenantEnable t v => Sys2Proof.Machine.execTenantEnable t v s
  | .tenantKeysInstalled t => Sys2Proof.Machine.execTenantKeysInstalled t s
  | .tenantReset t => Sys2Proof.Machine.execTenantReset t s
  | .tenantResetDone t => Sys2Proof.Machine.execTenantResetDone t s
  | .tenantErase t v => Sys2Proof.Machine.execTenantErase t v s
  | .tenantEraseDone t => Sys2Proof.Machine.execTenantEraseDone t s
  | .frameSeedCreate v => Sys2Proof.Machine.execFrameSeedCreate v s
  | .debugNonceRead => Sys2Proof.Machine.execDebugNonceRead s
  | .debugTokenCheck len => Sys2Proof.Machine.execDebugTokenCheck len s
  | .getVersion doe => Sys2Proof.Machine.execGetVersion doe s
  | .getCapabilities doe => Sys2Proof.Machine.execGetCapabilities doe s
  | .negotiateAlgorithms doe hash asym => Sys2Proof.Machine.execNegotiateAlgorithms doe hash asym s
  | .getDigests doe => Sys2Proof.Machine.execGetDigests doe s
  | .getCertificate doe slot off len => Sys2Proof.Machine.execGetCertificate doe slot off len s
  | .challenge doe slot => Sys2Proof.Machine.execChallenge doe slot s
  | .getMeasurements doe idx raw sig => Sys2Proof.Machine.execGetMeasurements doe idx raw sig s
  | .doeDiscovery idx => Sys2Proof.Machine.execDoeDiscovery idx s
  | .idekmKeyExchange nonce ek => Sys2Proof.Machine.execIdekmKeyExchange nonce ek s
  | .query tag port => Sys2Proof.Machine.execQuery tag port s
  | .keyProg tag stream set dir sub => Sys2Proof.Machine.execKeyProg tag stream set dir sub s
  | .kSetGo tag stream set dir sub => Sys2Proof.Machine.execKSetGo tag stream set dir sub s
  | .kSetStop tag stream set dir sub => Sys2Proof.Machine.execKSetStop tag stream set dir sub s
  | .bringupStageEnd e => Sys2Proof.Machine.execBringupStageEnd e s
  | .bringupStageLimit err => Sys2Proof.Machine.execBringupStageLimit err s
  | .pwrReqRun mctp => Sys2Proof.Machine.execPwrReqRun mctp s
  | .pwrReqParked mctp => Sys2Proof.Machine.execPwrReqParked mctp s
  | .pwrReqSill mctp => Sys2Proof.Machine.execPwrReqSill mctp s
  | .idleEnter => Sys2Proof.Machine.execIdleEnter s
  | .powerSample w temp sensor => Sys2Proof.Machine.execPowerSample w temp sensor s
  | .throttleMark => Sys2Proof.Machine.execThrottleMark s
  | .arrayPowerGate a => Sys2Proof.Machine.execArrayPowerGate a s
  | .arrayWakeDone a => Sys2Proof.Machine.execArrayWakeDone a s
  | .planeEngineWakeDone ch => Sys2Proof.Machine.execPlaneEngineWakeDone ch s
  | .sledButtonPress n => Sys2Proof.Machine.execSledButtonPress n s
  | .pwrSledPress mctp n v => Sys2Proof.Machine.execPwrSledPress mctp n v s
  | .abortWindowEnd n => Sys2Proof.Machine.execAbortWindowEnd n s
  | .quiesceWritebackDone n => Sys2Proof.Machine.execQuiesceWritebackDone n s
  | .quiesceTimeout n => Sys2Proof.Machine.execQuiesceTimeout n s
  | .sledLatchOpen n => Sys2Proof.Machine.execSledLatchOpen n s
  | .sledLatchClose n => Sys2Proof.Machine.execSledLatchClose n s
  | .sledTestDone n pass exts content => Sys2Proof.Machine.execSledTestDone n pass exts content s
  | .sledPowerGoodTimeout n => Sys2Proof.Machine.execSledPowerGoodTimeout n s
  | .railFault rail => Sys2Proof.Machine.execRailFault rail s
  | .lrefLoss => Sys2Proof.Machine.execLrefLoss s
  | .prefLoss => Sys2Proof.Machine.execPrefLoss s
  | .crystalStop => Sys2Proof.Machine.execCrystalStop s
  | .vstbyLoss => Sys2Proof.Machine.execVstbyLoss s
  | .sillPowerOn => Sys2Proof.Machine.execSillPowerOn s
  | .perstAssert => Sys2Proof.Machine.execPerstAssert s
  | .perstDeassert => Sys2Proof.Machine.execPerstDeassert s
  | .pfFunctionReset hot => Sys2Proof.Machine.execPfFunctionReset hot s
  | .vfFunctionReset n => Sys2Proof.Machine.execVfFunctionReset n s
  | .vfEnableClear en numVfs => Sys2Proof.Machine.execVfEnableClear en numVfs s
  | .busMasterEnableClear fn => Sys2Proof.Machine.execBusMasterEnableClear fn s
  | .busMasterEnableSet fn => Sys2Proof.Machine.execBusMasterEnableSet fn s
  | .glbRstWarm => Sys2Proof.Machine.execGlbRstWarm s
  | .glbRstCold mctp => Sys2Proof.Machine.execGlbRstCold mctp s
  | .msixUnmask fn vec => Sys2Proof.Machine.execMsixUnmask fn vec s
  | .hostLinkRetrain speed width flit => Sys2Proof.Machine.execHostLinkRetrain speed width flit s
  | .mctpRead off => Sys2Proof.Machine.execMctpRead off s
  | .mctpWrite off v => Sys2Proof.Machine.execMctpWrite off v s
  | .registerWrite fn bar off size v => Sys2Proof.Machine.execRegisterWrite fn bar off size v s
  | .cntDumpNow v => Sys2Proof.Machine.execCntDumpNow v s
  | .timedDump => Sys2Proof.Machine.execTimedDump s
  | .sampleWrite => Sys2Proof.Machine.execSampleWrite s
  | .ledgerRecordWrite => Sys2Proof.Machine.execLedgerRecordWrite s
  | .ledgerWindowEnd => Sys2Proof.Machine.execLedgerWindowEnd s
  | .ledgerStreamSend => Sys2Proof.Machine.execLedgerStreamSend s
  | .nearWriteDone htx => Sys2Proof.Machine.execNearWriteDone htx s
  | .flitTransmit p => Sys2Proof.Machine.execFlitTransmit p s
  | .publishResult tag st ver => Sys2Proof.Machine.execPublishResult tag st ver s
  | .mirrorWritebackRequest chip exts => Sys2Proof.Machine.execMirrorWritebackRequest chip exts s
  | .mirrorPagesWritten chip n => Sys2Proof.Machine.execMirrorPagesWritten chip n s
  | .railWithinTolerance rail => Sys2Proof.Machine.execRailWithinTolerance rail s
  | .sledPowerGood n => Sys2Proof.Machine.execSledPowerGood n s
  | .hostReadData tag data => Sys2Proof.Machine.execHostReadData tag data s
  | .registerRead fn bar off size => Sys2Proof.Machine.execRegisterRead fn bar off size s
  | .d3hotTransition fn enter => Sys2Proof.Machine.execD3hotTransition fn enter s

end Sys2Proof.Machine
end

