-- ==== Sys2Proof/Machine/Tick.lean ====
section
/-! DEFINITION. Tick.lean: one fclk of the fast domain, what the chip does when no command waits: frame time advances, shares
are used up, layer streams go on, and the cycle events of Table CNT-1 occur. -/
namespace Sys2Proof.Machine

/-- An occurrence of a chip-wide cycle event: system work of no tenant. -/
def cycleOcc : Occ := { prv := 1 }

/-- Counts of frame time that one fclk adds. -/
def ftStepOf (s : State) : Nat := (s.tim.frac + getF s TIM_RATE.RATE) / 2 ^ 32

/-- ARRAY_BUSY of every array that holds a kernel, in an fclk at which an acyc passes (R549, R587). -/
def acycTick (s : State) : State :=
  let ph := s.arr.phase + (16 - min 12 (getF s PWR_MON.STEP))
  let s := { s with arr := { s.arr with phase := ph % 32 } }
  if ph < 32 then s
  else s.arr.held.foldl (fun s e => match slotOf s e.2 with
    | some sl => bump s 0x0002 1 { occOf s sl with mst := some (1, e.1), tag := none }
    | none => s) s

/-- One fclk. -/
def tick (s : State) : State :=
  if !s.pwr.fast then s
  else
    let dt := ftStepOf s
    let s := ftTick s
    let s := bump s 0x0001 1 cycleOcc
    let s := acycTick (arrayTime s dt)
    let s := layerTick (engineTime s dt)
    let s := creditStalls s
    if tstF s PWR_MON.STEP then bump s 0x0B01 1 cycleOcc else s

end Sys2Proof.Machine
end

