-- ==== Sys2Proof/Safety.lean ====
section
/-! DEFINITION. Safety.lean: what counts as a sound state, and which parts of the state a command reaches: the terms of the
statements. -/
namespace Sys2Proof.Machine

/-! ## Sound states -/

/-- The maps of the store are in canonical form: what the tiers hold is written down in one way. -/
def Store.wf (m : Store) : Bool :=
  mcanon ({} : NearLine) m.near && mcanon ({} : FarBlock) m.far && mcanon 0 m.ext && mcanon 0 m.ver && mcanon 0 m.pgr
    && mcanon 0 m.tally && msorted m.pages

/-- The power sequence and the host port are sound: RAILEN lines rise in order, and a rail is within tolerance only after the
line that it follows (R626); the fast domain runs only while the sill domain is powered (R560, R583); sleds 0 to 3 have
switches, and SLEDPG is high only behind a closed one (R633); at most 512 virtual functions exist (R567), and MCTP's page of
the ledger is one of 256 (R603, R617). -/
def Sound (s : State) : Prop :=
  s.pwr.railen ≤ 3 ∧ (∀ r ∈ s.pwr.rails, r < 6 ∧ railNeeds r ≤ s.pwr.railen)
  ∧ (s.pwr.fast = true → s.pwr.sill = true)
  ∧ (∀ n ∈ s.pwr.sledOn, n < 4) ∧ (∀ n ∈ s.pwr.sledGood, n ∈ s.pwr.sledOn)
  ∧ s.hst.numVfs ≤ 512 ∧ s.hst.mctpPage < 256

/-! ## What a command reaches -/

/-- The parts of the state that a command's effect reaches: every other part is as it was. -/
def touches : Instr → List Part
  | .extentRecordHighWrite .. | .versionRecordWrite .. => [.obs, .store]
  | .extentRecordApply .. | .extentValidClear .. | .extentRetireIdle .. | .tier2WideWrite .. | .mirrorWriteAccept ..
  | .translateDescriptor .. | .cancelAll .. | .cancelTag .. | .descriptorFetch .. | .descriptorDeadline ..
  | .tallySet .. | .cut .. | .prefetch .. | .sparseGemm .. | .attnDecode .. | .kvAppend .. | .kvLeaseCreate ..
  | .kvLeaseTruncate .. | .layerStream .. | .embGather .. | .embUpdate .. | .embRefresh .. | .embPin .. | .vinsert ..
  | .vdelete .. | .vscan .. | .vrerank .. | .rdShared .. | .rdOwn .. | .rdCur .. | .wrFull .. | .wb ..
  | .evictClean .. | .rspI .. | .rspS .. | .rspFwd .. | .rspGone .. | .rspData .. | .cmpAck .. | .nearReadReturn ..
  | .retryQueueStart .. | .homeTransactionTimeout .. | .engRd .. | .engRdata .. | .engWr .. | .engAck .. | .engErr ..
  | .postedWriteTimeout .. | .fillDataVerified .. | .fillUncorrectable .. | .redundantReadReturn ..
  | .writebackStart .. | .evictionStart .. | .patrolScrubStep .. | .eraseBlockFail .. | .passEnd .. | .arrayFence ..
  | .attnRoundEnd .. | .layerWaitDeadline .. | .lookup | .partialRsp | .update | .scanBlockRead ..
  | .planeEngineFail .. | .poolPieceEnd .. | .mirrorWriteTimeout .. | .rebuild .. | .rebuildCopyDone ..
  | .rebuildStop .. | .plumbSelftestDone .. | .cutFreezeEnd | .cutPageDrain | .cutReservePageFree | .cutDrainEnd
  | .cutHoldLimit | .pseudoChannelFail .. | .flashChannelUnresponsive .. | .nearWriteDone .. | .hostReadData .. =>
    workParts
  | .publish .. | .publishHomeUpdate .. | .resumeRetry .. | .resumeAbort .. | .parkedDeadlineExpire ..
  | .shootdownVa .. | .shootdownTenant .. | .shootdownExtent .. | .shootdownRegion .. | .shootAck ..
  | .queueContextEnable .. | .queueContextDisable .. | .descriptorArrive .. | .descriptorLaunch .. | .hostReadFail ..
  | .nop .. | .tallyWait .. | .fill .. | .copy .. | .compare .. | .reduce .. | .adviseNone .. | .adviseHot ..
  | .adviseCold .. | .adviseStream .. | .adviseXltPreload .. | .kvLeaseAcquire .. | .kvLeaseRelease ..
  | .kvLeaseRenew .. | .expertFfn .. | .embLoad .. | .embSwitch .. | .scribeRun .. | .tallyAllocate ..
  | .tallyRelease .. | .arrayGrant .. | .scribeGrant .. | .raiseMatch | .plumbCompare .. | .publishResult .. => coreParts
  | .publishDrained .. | .shootdownDrained .. => [.regs, .obs, .txq, .store, .xlt]
  | .parityDeltaUpdate .. => [.txq, .store]
  | .parityDeltaAck .. | .writebackAck .. | .abortWindowEnd .. | .sledLatchOpen .. => workParts ++ [.pwr]
  | .faultRecordWrite .. | .faultRingHeadWrite .. | .faultRingEnable .. =>
    [.regs, .obs, .txq, .store, .xlt, .que, .eng, .red, .fresh]
  | .faultBatchClose .. => [.obs, .xlt]
  | .parkSlotAvailable .. | .spillSpaceAvailable .. => [.que]
  | .shootdownReservedKind .. | .doorbellMissizedWrite .. | .reportResend | .getDigests .. | .getCertificate ..
  | .doeDiscovery .. | .busMasterEnableClear .. | .busMasterEnableSet .. | .msixUnmask .. | .ledgerWindowEnd
  | .ledgerStreamSend | .d3hotTransition .. => [.obs]
  | .shoot .. => [.regs, .obs, .txq, .xlt, .que]
  | .queueDrainEnd .. | .sqTail .. | .cqHead .. => [.regs, .obs, .que]
  | .resume .. | .interruptModerationTimer .. => [.obs, .que]
  | .embUnpin .. | .updAck | .push | .pushEnd | .hotBufferPushRelease .. | .opxErr => coreParts ++ [.emb]
  | .deadAgentSweepEnd .. => [.regs, .obs, .home, .red]
  | .engOpx .. => [.txq, .emb]
  | .tallyCountWrite .. => [.obs, .store, .que]
  | .dirtyAgeExpire .. => [.store]
  | .leaseExpiryScan | .vscActivate .. | .vscDeactivate .. | .vscAdopt .. => [.regs, .obs, .store, .red]
  | .leaseReclaim .. => [.regs, .obs, .store, .kv, .red]
  | .truncateBlockRelease .. => [.store, .kv, .red]
  | .kvPoolEnable .. | .scrData8 .. | .scrData16 .. | .scrData32 .. | .scrValWrite .. | .scrCntWrite ..
  | .scrCfgWrite .. | .scrFoldWrite .. | .scrExpWrite .. | .scrStatClear .. | .holdoverLimit | .detectPoll ..
  | .ack .. | .ledgerRead .. | .bringupStageLimit .. | .idleEnter | .sledPowerGoodTimeout .. | .hostLinkRetrain ..
  | .ledgerRecordWrite | .registerRead .. => [.regs, .obs]
  | .embActivate .. => [.regs, .obs, .store, .emb, .red, .fresh]
  | .embDeactivate .. => [.regs, .obs, .store, .emb, .red]
  | .updEnd => [.regs, .obs, .txq, .store, .emb, .fresh]
  | .updateWindowTimeout .. => [.regs, .obs, .txq, .emb]
  | .scrStart .. | .scrFinish .. | .scrAbort .. => [.regs, .obs, .nmo]
  | .timeExchangeStart => coreParts ++ [.tim, .lnk]
  | .timeReq .. | .nakResendTimer .. => [.lnk]
  | .timeRsp .. => coreParts ++ [.tim]
  | .ptpReferenceMessage .. => [.regs, .obs, .tim, .fresh]
  | .portEnable .. | .portTrainingStageDone .. => [.regs, .obs, .lnk]
  | .trainingLimitExpire .. | .param .. | .hello .. | .encap .. | .linkFinish .. | .retrainTimeout .. | .heartbeat ..
  | .heartbeatWindowEnd .. | .deathDeclareWait .. | .fence .. | .flitTransmit .. => workParts ++ [.tim, .lnk]
  | .seedxfer .. | .tenantKeysInstalled .. | .tenantEraseDone .. | .query .. | .keyProg .. | .kSetGo .. | .kSetStop .. =>
    [.regs, .obs, .sec]
  | .flitReceive .. => workParts ++ [.tim, .lnk, .sec]
  | .retrainDone .. | .heartbeatSend .. => [.regs, .obs, .lnk, .fresh]
  | .rekeyInterval .. => [.lnk, .fresh]
  | .restart .. | .pwrReqRun .. | .pwrReqParked .. | .pwrReqSill .. | .powerSample .. | .railFault .. | .lrefLoss
  | .sillPowerOn | .perstAssert | .perstDeassert | .glbRstWarm | .glbRstCold .. | .mctpWrite .. | .registerWrite .. =>
    allParts
  | .tenantEnable .. | .tenantReset .. | .tenantErase .. | .vfFunctionReset .. =>
    [.regs, .obs, .store, .xlt, .que, .eng, .arr, .kv, .nmo, .vsc, .sec, .red]
  | .tenantResetDone .. => workParts ++ [.sec]
  | .frameSeedCreate .. => [.regs, .obs, .sec, .fresh]
  | .debugNonceRead | .idekmKeyExchange .. | .mctpRead .. => [.obs, .sec, .fresh]
  | .debugTokenCheck .. => [.regs, .obs, .txq, .home, .lnk, .sec, .red, .fresh]
  | .getVersion .. | .getCapabilities .. | .negotiateAlgorithms .. => [.obs, .sec]
  | .challenge .. | .getMeasurements .. => [.obs, .fresh]
  | .bringupStageEnd .. => [.regs, .obs, .store, .home, .sec, .red, .pwr, .fresh]
  | .throttleMark | .sledButtonPress .. | .pwrSledPress .. | .sledLatchClose .. | .railWithinTolerance .. =>
    [.regs, .obs, .pwr]
  | .arrayPowerGate .. | .arrayWakeDone .. => [.arr]
  | .planeEngineWakeDone .. => [.vsc]
  | .quiesceWritebackDone .. | .quiesceTimeout .. => [.regs, .obs, .store, .pwr]
  | .sledTestDone .. => [.regs, .obs, .store]
  | .prefLoss => workParts ++ [.lnk, .sec, .pwr, .hst]
  | .crystalStop | .mirrorWritebackRequest .. => [.obs, .pwr]
  | .vstbyLoss =>
    [.obs, .txq, .store, .home, .xlt, .que, .eng, .arr, .kv, .nmo, .emb, .vsc, .tim, .lnk, .sec, .red, .pwr, .hst, .fresh]
  | .pfFunctionReset .. => workParts ++ [.lnk, .sec, .hst]
  | .vfEnableClear .. => [.regs, .obs, .store, .xlt, .que, .eng, .arr, .kv, .nmo, .vsc, .sec, .red, .hst]
  | .cntDumpNow .. | .timedDump | .sampleWrite => [.regs, .obs, .txq, .store, .eng, .red, .fresh]
  | .mirrorPagesWritten .. | .sledPowerGood .. => [.pwr]

/-- Part `p` of two states is the same. -/
def samePart (p : Part) (s t : State) : Prop :=
  match p with
  | .regs => t.regs = s.regs
  | .obs => t.obs = s.obs
  | .txq => t.txq = s.txq
  | .store => t.store = s.store
  | .home => t.home = s.home
  | .xlt => t.xlt = s.xlt
  | .que => t.que = s.que
  | .eng => t.eng = s.eng
  | .arr => t.arr = s.arr
  | .kv => t.kv = s.kv
  | .nmo => t.nmo = s.nmo
  | .emb => t.emb = s.emb
  | .vsc => t.vsc = s.vsc
  | .tim => t.tim = s.tim
  | .lnk => t.lnk = s.lnk
  | .sec => t.sec = s.sec
  | .red => t.red = s.red
  | .pwr => t.pwr = s.pwr
  | .hst => t.hst = s.hst
  | .fresh => t.fresh = s.fresh

/-- Command `c` on `s` answers a next state: `t` in the parts that the command reaches, `s` in every other part. -/
def Answers (c : Instr) (s t : State) : Prop := exec c s = .next (confine (touches c) s t)

/-- Descriptor `sq`, with opcode `oc` and slot `sl`, has launched on a chip that runs, and nothing stops it: its command may
begin it. -/
abbrev Begins (s : State) (oc sq : Nat) (sl : Slot) : Prop :=
  live s = true ∧ slotOf s sq = some sl ∧ sl.ph = .launched ∧ opcode sl.d = oc ∧ sl.stop = none ∧ heldBack s sq = false

end Sys2Proof.Machine
end

