-- ==== Sys2Proof/Certificates/Slice0/Obligations.lean ====
section
/-! DEFINITION. Certificates/Slice0/Obligations.lean: the statements. First those about every command, about the state that a
step keeps and about the register map; then, family by family, what the commands make of a state in which the rules let them
act. -/
open Sys2Proof Sys2Proof.Machine

/-- Step on a waiting command: it runs, with the queue's rest behind it. -/
def Obligations.StepRunsFrontCommand : Prop :=
  ∀ (c : Instr) (q : List Instr) (s : State), s.pending = c :: q → step s = exec c { s with pending := q }

/-- Step on an empty queue (the model's choice: log entry 40): one fclk of the fast domain passes, in the working parts and in
frame time alone; with the fast domain off nothing changes. -/
def Obligations.IdleStepIsOneClock : Prop :=
  ∀ s : State, s.pending = [] →
    step s = .next (confine (workParts ++ [.tim]) s (tick s)) ∧ (s.pwr.fast = false → step s = .next s)

/-- Every command on every state answers a next state, and so does every step: the spec names no command that stops the chip. -/
def Obligations.EveryStepGoesOn : Prop :=
  (∀ (c : Instr) (s : State), ∃ t, exec c s = .next t) ∧ ∀ s : State, ∃ t, step s = .next t

/-- The frame of every command: the parts of the state that `touches` does not list for it, and the queue of waiting commands,
are as they were. -/
def Obligations.CommandsKeepWhatTheyDoNotReach : Prop :=
  ∀ (c : Instr) (s t : State), exec c s = .next t → t.pending = s.pending ∧ ∀ p : Part, p ∉ touches c → samePart p s t

/-- At reset the power sequence and the host port are sound, the store is in its canonical form, no command waits, the fast
domain is off, the ledger numbers from 1 (R598), and GLB_ID, RED_PLUMB.PERIOD and RED_CUTCFG.MAXHOLD read as their field maps
and R512 give them. -/
def Obligations.ResetStateIsSound : Prop :=
  Sound State.reset ∧ State.reset.store.wf = true ∧ State.reset.pending = [] ∧ State.reset.pwr.fast = false
  ∧ State.reset.obs.lseq = 1 ∧ getF State.reset GLB_ID.DEVICE = 0x7208 ∧ getF State.reset GLB_ID.VENDOR = 0x1F4C
  ∧ getF State.reset RED_PLUMB.PERIOD = 4096 ∧ getF State.reset RED_CUTCFG.MAXHOLD = 1500

/-- Every step keeps the power sequence and the host port sound: RAILEN lines rise in order and a rail counts as good only
behind its line (R626), the fast domain runs only while the sill domain is powered (R560, R583), SLEDPG is high only behind a
closed switch of sleds 0 to 3 (R633), at most 512 virtual functions exist (R567), and the page of the ledger that MCTP selects
is one of 256 (R603, R617). -/
def Obligations.EveryStepKeepsSound : Prop :=
  ∀ s t : State, Sound s → step s = .next t → Sound t

/-- While the sill domain and the fast domain are without power, every command but the sill domain's own power-on and the two
edges of PERST# leaves the whole state as it is. -/
def Obligations.DarkChipIgnoresCommands : Prop :=
  ∀ (c : Instr) (s : State), s.pwr.sill = false → s.pwr.fast = false →
    c ≠ .sillPowerOn → c ≠ .perstAssert → c ≠ .perstDeassert → exec c s = .next s

/-- Tables REG-4 to REG-19 place every word of every register at an offset of its own: the offset leads back to the word, and
an offset that names a word is that word's. `words` is how many words a register has. -/
def Obligations.RegisterMapIsOneToOne : Prop :=
  (∀ (r : Reg) (i : Nat), i < (if r = .TEN_CNT then 4096 else (regPlace r).count) → regAt (regOff r i) = some (r, i))
  ∧ (∀ (off : Nat) (r : Reg) (i : Nat), regAt off = some (r, i) →
      regOff r i = off ∧ i < (if r = .TEN_CNT then 4096 else (regPlace r).count))

/-- R608: what Table REG-2 makes of a write, for every field of every register: RO and WO store nothing, RW and RWS take the
value, W1C and W1S clear and set where a 1 is written, RWL takes the value until SEC_BOOT.SEALED reads 1; no other register
and no bit outside the fields changes, and no two fields of a register share a bit. -/
def Obligations.AccessCodesOfEveryField : Prop :=
  (∀ (s : State) (r : Reg) (i : Nat) (v : W64) (f : Fld), f ∈ fieldsOf r →
    getF (plainWrite s r i v) f i = match f.acc with
      | .ro | .wo => getF s f i
      | .rw | .rws => bget v f.bf
      | .w1c => if btst v f.bf then 0 else getF s f i
      | .w1s => if btst v f.bf then 1 else getF s f i
      | .rwl => if getF s SEC_BOOT.SEALED = 1 then getF s f i else bget v f.bf)
  ∧ (∀ (s : State) (r q : Reg) (i j : Nat) (v : W64), i < 65536 → j < 65536 → q ≠ r →
      regGet (plainWrite s r i v) q j = regGet s q j)
  ∧ (∀ (s : State) (r : Reg) (i k : Nat) (v : W64), (∀ f ∈ fieldsOf r, k < f.bf.lo ∨ f.bf.lo + f.bf.w ≤ k) →
      (regGet (plainWrite s r i v) r i).getLsbD k = (regGet s r i).getLsbD k)
  ∧ (∀ r : Reg, (fieldsOf r).Pairwise fun f g => f.bf.lo + f.bf.w ≤ g.bf.lo ∨ g.bf.lo + g.bf.w ≤ f.bf.lo)

/-- R615, R567: an offset of the BAR0 of virtual function n names a register of the window of tenant n - 1 or nothing; a write
through it leaves every field of that register as it was, but for a bit of `vfClears` that it clears, and every other register
as it was. -/
def Obligations.VirtualFunctionStaysInItsWindow : Prop :=
  (∀ (fn off : Nat) (r : Reg) (i : Nat), 1 ≤ fn → fn ≤ 512 → off < 0x1000 → regAt (bar0Off fn off) = some (r, i) →
    0x1700000 ≤ (regPlace r).base ∧ (if r = .TEN_CNT then i / 8 = fn - 1 else i = fn - 1))
  ∧ (∀ (s : State) (r : Reg) (i : Nat) (v : W64) (f : Fld), f ∈ fieldsOf r →
      getF (vfWriteReg s r i v) f i = getF s f i ∨ (f ∈ vfClears r ∧ btst v f.bf = true ∧ getF (vfWriteReg s r i v) f i = 0))
  ∧ (∀ (s : State) (r q : Reg) (i j : Nat) (v : W64), i < 65536 → j < 65536 → (q ≠ r ∨ isEvtReg q = false ∧ j ≠ i) →
      regGet (vfWriteReg s r i v) q j = regGet s q j)

/-- R571: a message on a masked vector, or under the Function Mask, or with MSI-X disabled, makes the vector pending, sends
nothing and leaves every event register as it is; unmasking a pending vector sends its message and takes the pending bit
away. -/
def Obligations.MaskedMessagesPend : Prop :=
  (∀ (s : State) (n v off : Nat), v < (if n = 0 then 2048 else 128) →
    ((fnOf s n).msixEn = false ∨ (fnOf s n).fmask = true ∨ v ∉ (fnOf s n).unmasked) →
    v ∈ (fnOf (msix s n v off) n).pend ∧ (msix s n v off).obs.out = s.obs.out ∧ (msix s n v off).obs.evt = s.obs.evt
    ∧ (msix s n v off).regs = s.regs)
  ∧ (∀ (s : State) (n v : Nat), s.pwr.sill = true → 2 ≤ stage s → fnExists s n = true → v < (if n = 0 then 2048 else 128) →
      (fnOf s n).msixEn = true → (fnOf s n).fmask = false → canIssue s n = true → v ∈ (fnOf s n).pend →
      ∃ t, exec (.msixUnmask n (some v)) s = .next t ∧ .msix n v ∈ t.obs.out ∧ v ∉ (fnOf t n).pend ∧ t.obs.evt = s.obs.evt)
  ∧ (∀ (s : State) (n v off : Nat), v < (if n = 0 then 2048 else 128) → (fnOf s n).msixEn = true → (fnOf s n).fmask = false →
      v ∈ (fnOf s n).unmasked → canIssue s n = true → msix s n v off = emit s (.msix n v))

/-- R578: a write of GLB_RST through PF BAR0 with WARM clear changes nothing, whatever COLD is; with WARM set it is a warm
reset, as is one over MCTP. A cold reset is commanded over MCTP alone. -/
def Obligations.ColdResetIsNotReachedThroughBar0 : Prop :=
  (∀ (s : State) (v : Line), fnServes s 0 = true → ideOk s = true → (fnOf s 0).wlatch = none →
    exec (.registerWrite 0 0 (regOff .GLB_RST 0) 8 v) s = if btst (v.setWidth 64 : W64) GLB_RST.WARM.bf then .next (warmReset s) else .next s)
  ∧ (∀ s : State, exec (.glbRstCold false) s = .next s)
  ∧ (∀ (s : State) (v : W64), s.pwr.sill = true → 1 ≤ getF s GLB_STAT.STAGE → btst v GLB_RST.COLD.bf = false →
      btst v GLB_RST.WARM.bf = true →
      exec (.mctpWrite (regOff .GLB_RST 0) v) s = .next (mctpAnswer (warmReset s) 0 none))

/-- R603: word w of LDG_WIN reads, through PF BAR0 and over MCTP, as word w mod 8 of the record that the ledger's ring holds
w div 8 places behind the start of the page that LDG_WINSEL selects, record 64 p. -/
def Obligations.LedgerWindowShowsThePage : Prop :=
  (∀ (s : State) (w : Nat) (r : BitVec 512), w < 512 → fnServes s 0 = true → ideOk s = true → s.pwr.fast = true →
    s.hst.only = false → (fnOf s 0).wlatch = none → mget s.obs.lring (64 * getF s LDG_WINSEL.PAGE + w / 8) = some r →
    exec (.registerRead 0 0 (regOff .LDG_WIN w) 8) s = .next (emit s (.readData 0 (r.extractLsb' (64 * (w % 8)) 64))))
  ∧ (∀ (s : State) (w : Nat) (r : BitVec 512), w < 512 → s.pwr.sill = true → s.hst.mctpPage < 256 →
      mget s.obs.lring (64 * s.hst.mctpPage + w / 8) = some r →
      exec (.mctpRead (regOff .LDG_WIN w)) s = .next (mctpAnswer s 0 (some (r.extractLsb' (64 * (w % 8)) 64))))

/-- R34: the chip ignores every write of a record whose STATE is RETIRING, of either half and with VALID set or clear, and
logs it: a record of the ledger, with the record's offset, is all that the write leaves behind. -/
def Obligations.RetiringRecordIgnoresWrites : Prop :=
  ∀ (far : Bool) (e : Nat) (v : W64) (s : State), live s = true → populated s (tierOf far) e = true →
    bget (extRec s (tierOf far) e) EXT.STATE = exRetiring →
    exec (.extentRecordHighWrite far e v) s = .next (recordRefused s (extOff (tierOf far) e + 8))
    ∧ exec (.extentRecordApply far e v) s = .next (recordRefused s (extOff (tierOf far) e))
    ∧ exec (.extentValidClear far e v) s = .next (recordRefused s (extOff (tierOf far) e))

/-- R565: a register access that is not an aligned 8-byte access or an aligned 4-byte one to half a register reads zero,
writes nothing and sets HST_EVT.BADACC; a reserved offset reads zero and ignores writes. -/
def Obligations.BadRegisterAccess : Prop :=
  (∀ (fn off size : Nat) (v : Line) (s : State), fnServes s fn = true → ideOk s = true → inBar0 fn off = true →
    inAlias fn off = false → ¬ (size = 8 ∧ off % 8 = 0 ∨ size = 4 ∧ off % 4 = 0) →
    exec (.registerRead fn 0 off size) s = .next (emit (setEvt s HST_EVT.BADACC) (.readData fn 0))
    ∧ exec (.registerWrite fn 0 off size v) s = .next (setEvt s HST_EVT.BADACC)
    ∧ getF (setEvt s HST_EVT.BADACC) HST_EVT.BADACC = 1)
  ∧ (∀ (fn off : Nat) (v : Line) (s : State), fnServes s fn = true → ideOk s = true → inBar0 fn off = true →
      inAlias fn off = false → off % 8 = 0 → regAt (bar0Off fn off) = none →
      exec (.registerRead fn 0 off 8) s = .next (emit (dropLatch s fn off) (.readData fn 0))
      ∧ exec (.registerWrite fn 0 off 8 v) s = .next (dropLatch s fn off))

/-- R616, R617: over MCTP an offset outside the registers that R617 lists answers code 1, and a register of a domain without
power answers code 2; neither access does anything else. -/
def Obligations.MctpReachesItsRegistersAlone : Prop :=
  (∀ (off : Nat) (r : Reg) (i : Nat), mctpAt off = .reg r i →
    off = regOff r i ∧ (r ∈ [.GLB_ID, .GLB_STAT, .GLB_RST, .SEC_BOOT, .SEC_DBG] ∨ (regPlace r).base / 0x100000 ∈ [0x14, 0x16]))
  ∧ (∀ (off : Nat) (v : W64) (s : State), s.pwr.sill = true → mctpAt off = .nothing →
      exec (.mctpRead off) s = .next (mctpAnswer s 1 none) ∧ exec (.mctpWrite off v) s = .next (mctpAnswer s 1 none))
  ∧ (∀ (off : Nat) (v : W64) (s : State) (r : Reg) (i : Nat), s.pwr.sill = true → getF s GLB_STAT.STAGE = 0 →
      mctpAt off = .reg r i → r ∈ [.GLB_ID, .GLB_STAT, .GLB_RST, .SEC_BOOT, .SEC_DBG] →
      exec (.mctpRead off) s = .next (mctpAnswer s 2 none) ∧ exec (.mctpWrite off v) s = .next (mctpAnswer s 2 none))

/-- R586, R588: an occurrence of an event adds its units to each of the 128 counters that selects the event and whose group
n div 8 lets it pass, while CNT_CTL.EN is set, modulo 2^64; to no other. -/
def Obligations.CountersCountWhatPasses : Prop :=
  ∀ (s : State) (ev units : Nat) (o : Occ) (n : Nat), n < 128 →
    mgetD 0 (bump s ev units o).obs.cval n =
      if tstF s CNT_CTL.EN = true ∧ ev ≠ 0 ∧ getF s CNT_EVSEL.EVENT n = ev ∧ groupPass s (n / 8) o = true
      then mgetD 0 s.obs.cval n + BitVec.ofNat 64 units else mgetD 0 s.obs.cval n

/-- After R27, R28, R33, R36, R202, R639: the commands on extent records, version records and the lines of tier 2, each in the states
in which the rules let it act: what it makes of the state, and nothing else. -/
def Obligations.StoreRecordCommands : Prop :=
  (∀ far e (v : W64) s, live s = true → populated s (tierOf far) e = true → poolRecord s (tierOf far) e = false →
    btst (extRec s (tierOf far) e) EXT.VALID = false → bget (extRec s (tierOf far) e) EXT.STATE ≠ exRetiring →
    Answers (.extentRecordHighWrite far e v) s (setExt s (tierOf far) e (bset (extRec s (tierOf far) e) ⟨64, 64⟩ v.toNat)))
  ∧ (∀ far e (v : W64) s r, live s = true → populated s (tierOf far) e = true → poolRecord s (tierOf far) e = false →
    btst (extRec s (tierOf far) e) EXT.VALID = false → bget (extRec s (tierOf far) e) EXT.STATE ≠ exRetiring →
    r = bset (bset (extRec s (tierOf far) e) ⟨0, 64⟩ (v ||| 1).toNat) EXT.STATE exNormal →
    extOk s (tierOf far) r = true → btst r EXT.SYS = true →
    Answers (.extentRecordApply far e v) s  (if far then trimBlocks (wardCopy (setExt s 1 e r) 1 e) e (keyOf (wardCopy (setExt s 1 e r) 1 e) r) else wardCopy (setExt s 0 e r) 0 e))
  ∧ (∀ far e (v : W64) s r u, live s = true → populated s (tierOf far) e = true →
    poolRecord s (tierOf far) e = false → btst (extRec s (tierOf far) e) EXT.VALID = false →
    bget (extRec s (tierOf far) e) EXT.STATE ≠ exRetiring →
    r = bset (bset (extRec s (tierOf far) e) ⟨0, 64⟩ (v ||| 1).toNat) EXT.STATE exNormal →
    extOk s (tierOf far) r = true → btst r EXT.SYS = false →
    getF s (extQuota (tierOf far)).1 (bget r EXT.OWNER) < limitQ s (extQuota (tierOf far)).2.1 (bget r EXT.OWNER) (extQuota (tierOf far)).2.2.1 →
    u = wardCopy (setExt (chargeQ s (extQuota (tierOf far)).1 (bget r EXT.OWNER) true) (tierOf far) e r) (tierOf far) e →
    Answers (.extentRecordApply far e v) s (if far then trimBlocks u e (keyOf u r) else u))
  ∧ (∀ far e (v : W64) s, live s = true → populated s (tierOf far) e = true → poolRecord s (tierOf far) e = false →
    btst (extRec s (tierOf far) e) EXT.VALID = true → bget (extRec s (tierOf far) e) EXT.STATE ≠ exRetiring →
    Answers (.extentValidClear far e v) s (extClear s (tierOf far) e))
  ∧ (∀ (far : Bool) e s u, live s = true → u = (if far then retirePages s e else s) →
    bget (extRec u (tierOf far) e) EXT.STATE = exRetiring → extQuiet u (tierOf far) e = true →
    Answers (.extentRetireIdle far e) s  (if btst (extRec u (tierOf far) e) EXT.SYS then setExtState u (tierOf far) e exIdle else chargeQ (setExtState u (tierOf far) e exIdle) (extQuota (tierOf far)).1 (bget (extRec u (tierOf far) e) EXT.OWNER) false))
  ∧ (∀ off (v : Line) prv ten s, live s = true → t2MayWrite prv ten (off / 64 * 64) = true →
    Answers (.tier2WideWrite off v prv ten) s (t2Write64 s (off / 64 * 64) v))
  ∧ (∀ rgn (v : Line) s, live s = true → rgn < 16384 →
    Answers (.versionRecordWrite rgn none v) s (verWrite s rgn v (BitVec.allOnes 512)))
  ∧ (∀ rgn w (v : Line) s, live s = true → rgn < 16384 → w < 8 →
    Answers (.versionRecordWrite rgn (some w) v) s (verWrite s rgn (bset 0 ⟨64 * w, 64⟩ (bget v ⟨0, 64⟩)) (wordMask w)))

/-- After R38, R41, R44, R84, R109: PUBLISH at its issuer and at the region's home, the end of its shootdown and its answer, the
acceptance of a mirror write, and parity deltas at the parity home and at the data home. -/
def Obligations.PublishAndRedundancyCommands : Prop :=
  (∀ sq sl x rem s, live s = true → slotOf s sq = some sl → sl.stop = none → heldBack s sq = false →
    sl.ph = .launched → opcode sl.d = ocPublish → extsOf sl 0 = [x] →
    x.len = bget (publishRec s sl.d rem) VER.LENGTH →
    x.base % pageBytes (bget (publishRec s sl.d rem) VER.PSIZE + 1) = 0 → par sl.d 58 2 % 1024 = own s →
    fencedChip s (own s) = false →
    Answers (.publish sq rem) s (publishHome (setSlot s sq { sl with ph := .running, work := .await sq }) { rgn := par sl.d 56 2 % 2 ^ 14, chip := own s, tag := sq, base := x.base, expected := par sl.d 48 8, dl := deadlineAt s sl.ctx sl.ftime sl.d }))
  ∧ (∀ sq sl x rem s home, live s = true → slotOf s sq = some sl → sl.stop = none → heldBack s sq = false →
    sl.ph = .launched → opcode sl.d = ocPublish → extsOf sl 0 = [x] →
    x.len = bget (publishRec s sl.d rem) VER.LENGTH →
    x.base % pageBytes (bget (publishRec s sl.d rem) VER.PSIZE + 1) = 0 → home = par sl.d 58 2 % 1024 → home ≠ own s →
    routed s home = true → fencedChip s home = false →
    Answers (.publish sq rem) s (send (setSlot s sq { sl with ph := .running, work := .await sq }) (publishMsg (setSlot s sq { sl with ph := .running, work := .await sq }) home { rgn := par sl.d 56 2 % 2 ^ 14, chip := own s, tag := sq, base := x.base, expected := par sl.d 48 8, dl := deadlineAt s sl.ctx sl.ftime sl.d })))
  ∧ (∀ (rgn base expected : Nat) chip (tag dl : Nat) s, live s = true → chip ≠ own s →
    Answers (.publishHomeUpdate rgn base expected chip ⟨tag, dl⟩) s (publishHome s { rgn := rgn % 2 ^ 14, chip := chip, tag := tag, base := base, expected := expected, dl := dl }))
  ∧ (∀ id h s, live s = true → shootAt s id = some h → h.publish.isSome = true →
    Answers (.publishDrained id) s (shootDrained s h))
  ∧ (∀ tag st (ver : Nat) s sq sl, live s = true →
    (s.que.slots.find? fun e => e.1 % 65536 == tag % 65536 && e.2.work == .await e.1 && opcode e.2.d == ocPublish) = some (sq, sl) →
    par sl.d 58 2 % 1024 ≠ own s → st = stOk ∨ st = stVersion ∨ st = stTimeout →
    Answers (.publishResult tag st ver) s (finish s sq st 0 (if st = stOk then ver else 0)))
  ∧ (∀ tag m s, live s = true → (s.store.mirrors.find? fun m => m.tag == tag) = some m → m.htx = none →
    Answers (.mirrorWriteAccept tag) s (performed { s with store := { s.store with mirrors := s.store.mirrors.filter (·.tag != tag) } } m.req))
  ∧ (∀ tag m h x s, live s = true → (s.store.mirrors.find? fun m => m.tag == tag) = some m → m.htx = some h →
    mget s.home.htx h = some x → x.tr = .mirror →
    Answers (.mirrorWriteAccept tag) s (writeDone { s with store := { s.store with mirrors := s.store.mirrors.filter (·.tag != tag) } } h x))
  ∧ (∀ (chip tag : Nat) sa pos (delta : BitVec 32992) s r, live s = true → saChip sa = own s → saTier sa = 1 →
    r = extRec s 1 (saExt sa) → btst r EXT.VALID = true → bget r EXT.RCLASS = 2 → 8 ≤ bget r EXT.POS → pos < 8 →
    bget r EXT.STATE ≠ exLost → chOf (saBlk sa) ∉ s.store.failedCh →
    Answers (.parityDeltaUpdate chip tag sa pos delta) s (send (putFar s (saBlk sa) (parityAdd (farBlock s (saBlk sa)) (keyOf s r) (parityTerm (bget r EXT.POS == 9) pos delta))) (engMsg s 4 chip 0 tag 0 0 true sa [])))
  ∧ (∀ sa (isQ ok : Bool) s p g, live s = true → pageOf s (blkKey s sa) = some (p, g) →
    (if isQ then g.parQ else g.parP) = true →
    Answers (.parityDeltaAck sa isQ ok) s (wbEnd s p { g with parP := g.parP && isQ, parQ := g.parQ && !isQ, parFail := g.parFail || !ok }))

/-- R59 to R64, R70, R71, R75, R76, R78: a descriptor is translated when it is the next of its queue; a held fault record is
written where the ring has room; a batch closes; RETRY and ABORT act on the parked descriptor that they name, and what
stopped a queue is lifted when it ends. -/
def Obligations.TranslationCommands : Prop :=
  (∀ sq rem sl s, live s = true → slotOf s sq = some sl → nextToTranslate s sl = true →
    (opcode sl.d = ocAdvise → subOp sl.d ≠ 4) → sl.ops = [] →
    Answers (.translateDescriptor sq rem) s (translateWalk s sl rem))
  ∧ (∀ sq rem sl s, live s = true → slotOf s sq = some sl → nextToTranslate s sl = true → opcode sl.d = ocAdvise →
    subOp sl.d = 4 → Answers (.translateDescriptor sq rem) s (translatePreload s sl rem))
  ∧ (∀ ten e l s, live s = true → heldRecs s ten = e :: l → tstF s TEN_FRING_CTL.EN ten = true →
    fringUsed s ten < fringSize s ten →
    Answers (.faultRecordWrite ten) s (if (heldRecs (fringPut s ten e.1 e.2) ten).isEmpty then fringResume (fringPut s ten e.1 e.2) ten else fringPut s ten e.1 e.2))
  ∧ (∀ ten n s, live s = true → mget s.xlt.batch ten = some n →
    Answers (.faultBatchClose ten) s (msix { s with xlt := { s.xlt with batch := mdel s.xlt.batch ten } } 0 (getF s TEN_FRING_CTL.VEC ten)))
  ∧ (∀ ten (v : W64) s, live s = true →
    Answers (.faultRingHeadWrite ten v) s (fringDrain (setF s TEN_FRING_HEAD.INDEX ten v.toNat) ten))
  ∧ (∀ ten (v : W64) s u, live s = true →
    u = setF (setF (setF s TEN_FRING_CTL.VEC ten (bget v TEN_FRING_CTL.VEC.bf)) TEN_FRING_CTL.LOG2N ten (bget v TEN_FRING_CTL.LOG2N.bf)) TEN_FRING_CTL.EN ten (bget v TEN_FRING_CTL.EN.bf) →
    Answers (.faultRingEnable ten v) s (if tstF u TEN_FRING_CTL.EN ten then fringDrain u ten else u))
  ∧ (∀ ten p k s, live s = true → mget s.que.park (p % 2048) = some k → qTen s k.slot.ctx = ten →
    parkLate s k = false → Answers (.resumeRetry ten p (mgetD 0 s.que.parkGen (p % 2048))) s (unpark s (p % 2048) k))
  ∧ (∀ ten p k s, live s = true → mget s.que.park (p % 2048) = some k → qTen s k.slot.ctx = ten →
    parkLate s k = false →
    Answers (.resumeAbort ten p (mgetD 0 s.que.parkGen (p % 2048))) s (parkEnd s (p % 2048) k.kind))
  ∧ (∀ ten p k s, live s = true → mget s.que.park (p % 2048) = some k → qTen s k.slot.ctx = ten →
    parkLate s k = true →
    Answers (.resumeRetry ten p (mgetD 0 s.que.parkGen (p % 2048))) s (staleResume (parkEnd s (p % 2048) (0x0100 + k.kind)) ten p (mgetD 0 s.que.parkGen (p % 2048))))
  ∧ (∀ p k s, live s = true → mget s.que.park p = some k → hasDeadline s k.slot.ctx k.slot.d = true →
    Answers (.parkedDeadlineExpire p) s (parkEnd s p (0x0100 + k.kind)))
  ∧ (∀ n s u, live s = true → parkFree s (qTen s n) = true → mgetD [] s.que.stopped n = [.park] →
    cq s n QCTX.STATE = qStopped → u = { s with que := { s.que with stopped := mputD [] s.que.stopped n [] } } →
    Answers (.parkSlotAvailable n) s (setQ u n QCTX.STATE qRunning))
  ∧ (∀ n s, live s = true → parkFree s (qTen s n) = true → mgetD [] s.que.stopped n = [.fring, .park] →
    Answers (.parkSlotAvailable n) s { s with que := { s.que with stopped := mputD [] s.que.stopped n [.fring] } })
  ∧ (∀ n s u, live s = true → spillUsed s < spillCap s → mgetD [] s.que.stopped n = [.spill] →
    cq s n QCTX.STATE = qStopped → u = { s with que := { s.que with stopped := mputD [] s.que.stopped n [] } } →
    Answers (.spillSpaceAvailable n) s (setQ u n QCTX.STATE qRunning))
  ∧ (∀ n s, live s = true → spillUsed s < spillCap s → mgetD [] s.que.stopped n = [.fring, .spill] →
    Answers (.spillSpaceAvailable n) s { s with que := { s.que with stopped := mputD [] s.que.stopped n [.fring] } })

/-- R80 to R85: a driver's shootdown of each of the four kinds opens while fewer than 16 are open; a reserved kind is logged
and opens none; a shootdown received is applied and acknowledged at once; acknowledgements count toward the dropped and
drained points; a drained shootdown ends. -/
def Obligations.ShootdownCommands : Prop :=
  (∀ (v : W64) s u, live s = true →
    u = setF (setF (setF (setF s XLT_INVAL_CTL.IRQ 0 (bget v XLT_INVAL_CTL.IRQ.bf)) XLT_INVAL_CTL.SCOPE 0 (bget v XLT_INVAL_CTL.SCOPE.bf)) XLT_INVAL_CTL.KIND 0 0) XLT_INVAL_CTL.TENANT 0 (bget v XLT_INVAL_CTL.TENANT.bf) →
    shootsOpen u < 16 →
    Answers (.shootdownVa v) s (shootOpen u { id := 0, kind := 0, addr := (regGet u .XLT_INVAL_ADDR 0).toNat, len := (regGet u .XLT_INVAL_LEN 0).toNat, ten := bget v XLT_INVAL_CTL.TENANT.bf, frame := btst v XLT_INVAL_CTL.SCOPE.bf, irq := btst v XLT_INVAL_CTL.IRQ.bf, driver := true }))
  ∧ (∀ (v : W64) s u, live s = true →
    u = setF (setF (setF (setF s XLT_INVAL_CTL.IRQ 0 (bget v XLT_INVAL_CTL.IRQ.bf)) XLT_INVAL_CTL.SCOPE 0 (bget v XLT_INVAL_CTL.SCOPE.bf)) XLT_INVAL_CTL.KIND 0 1) XLT_INVAL_CTL.TENANT 0 (bget v XLT_INVAL_CTL.TENANT.bf) →
    shootsOpen u < 16 →
    Answers (.shootdownTenant v) s (shootOpen u { id := 0, kind := 1, addr := (regGet u .XLT_INVAL_ADDR 0).toNat, len := (regGet u .XLT_INVAL_LEN 0).toNat, ten := bget v XLT_INVAL_CTL.TENANT.bf, frame := btst v XLT_INVAL_CTL.SCOPE.bf, irq := btst v XLT_INVAL_CTL.IRQ.bf, driver := true }))
  ∧ (∀ (v : W64) s u, live s = true →
    u = setF (setF (setF (setF s XLT_INVAL_CTL.IRQ 0 (bget v XLT_INVAL_CTL.IRQ.bf)) XLT_INVAL_CTL.SCOPE 0 (bget v XLT_INVAL_CTL.SCOPE.bf)) XLT_INVAL_CTL.KIND 0 2) XLT_INVAL_CTL.TENANT 0 (bget v XLT_INVAL_CTL.TENANT.bf) →
    shootsOpen u < 16 →
    Answers (.shootdownExtent v) s (shootOpen u { id := 0, kind := 2, addr := (regGet u .XLT_INVAL_ADDR 0).toNat, len := (regGet u .XLT_INVAL_LEN 0).toNat, ten := bget v XLT_INVAL_CTL.TENANT.bf, frame := btst v XLT_INVAL_CTL.SCOPE.bf, irq := btst v XLT_INVAL_CTL.IRQ.bf, driver := true }))
  ∧ (∀ (v : W64) s u, live s = true →
    u = setF (setF (setF (setF s XLT_INVAL_CTL.IRQ 0 (bget v XLT_INVAL_CTL.IRQ.bf)) XLT_INVAL_CTL.SCOPE 0 (bget v XLT_INVAL_CTL.SCOPE.bf)) XLT_INVAL_CTL.KIND 0 3) XLT_INVAL_CTL.TENANT 0 (bget v XLT_INVAL_CTL.TENANT.bf) →
    shootsOpen u < 16 →
    Answers (.shootdownRegion v) s (shootOpen u { id := 0, kind := 3, addr := (regGet u .XLT_INVAL_ADDR 0).toNat, len := (regGet u .XLT_INVAL_LEN 0).toNat, ten := bget v XLT_INVAL_CTL.TENANT.bf, frame := btst v XLT_INVAL_CTL.SCOPE.bf, irq := btst v XLT_INVAL_CTL.IRQ.bf, driver := true }))
  ∧ (∀ (v : W64) s, s.pwr.fast = true → s.hst.only = false → 4 ≤ bget v XLT_INVAL_CTL.KIND.bf →
    Answers (.shootdownReservedKind v) s (ledgerFF s 3 (regPlace .XLT_INVAL_CTL).base))
  ∧ (∀ id h s, live s = true → shootAt s id = some h → h.publish = none → h.holders = [] → h.waitDrain = [] →
    (h.src.isSome || h.dropped) = true → Answers (.shootdownDrained id) s (shootEnd s h))
  ∧ (∀ chip id kind addr len ten s u, live s = true → shootAt s (shootNo chip id) = none → kind < 4 →
    fencedChip s chip = false → u = shootHere s kind ten addr len →
    Answers (.shoot chip id kind addr len ten) s (send { u with xlt := { u.xlt with shoots := u.xlt.shoots ++ [{ id := shootNo chip id, kind := kind, addr := addr, len := len, ten := ten, frame := false, src := some (chip, id), holders := holdersNow u kind ten, dropped := true }] } } (shootAck u chip id 0)))
  ∧ (∀ chip id (drained : Bool) h s, live s = true →
    (s.xlt.shoots.find? fun h => h.id == id && h.src.isNone) = some h →
    Answers (.shootAck chip id drained) s (shootCount s h chip drained))

/-- R89 to R91, R97, R98, R117, R118, R121: a context is enabled and disabled by word 2; a draining queue is disabled once its
INFL is 0; SQ_TAIL and CQ_HEAD move their index when the value lies within the ring; RESUME ends HALTED; CANCEL_ALL and
CANCEL_TAG cancel; a write of a wrong size is logged alone; the moderation timer sends the queue's message. -/
def Obligations.QueueCommands : Prop :=
  (∀ n (v : W64) s, live s = true → n < 4096 → cq s n QCTX.STATE ≠ qDraining → cq s n QCTX.EN ≠ 1 →
    Answers (.queueContextEnable n v) s (enableCtx s n ((v ||| 1) &&& ctxRw.extractLsb' 128 64)))
  ∧ (∀ n (v : W64) s, live s = true → n < 4096 → cq s n QCTX.STATE ≠ qDraining → cq s n QCTX.EN = 1 →
    Answers (.queueContextDisable n v) s (disableCtx s n))
  ∧ (∀ n s, live s = true → cq s n QCTX.STATE = qDraining → cq s n QCTX.INFL = 0 →
    Answers (.queueDrainEnd n) s (if qPrv s n then setQ s n QCTX.STATE qDisabled else chargeQ (setQ s n QCTX.STATE qDisabled) TEN_QUOTA_QUEUE.USED (qTen s n) false))
  ∧ (∀ prv ten q (v : W64) n s, live s = true → bellCtx s ⟨prv, ten, q⟩ = some n →
    (bget v ⟨0, 16⟩ % 65536 + 65536 - cq s n QCTX.SQTAIL) % 65536 ≤ ringSize s n - (cq s n QCTX.SQTAIL + 65536 - cq s n QCTX.SQHEAD) % 65536 →
    Answers (.sqTail prv ten q v) s (bellCount (setQ s n QCTX.SQTAIL (bget v ⟨0, 16⟩)) n))
  ∧ (∀ prv ten q (v : W64) n s, live s = true → bellCtx s ⟨prv, ten, q⟩ = some n →
    (bget v ⟨0, 16⟩ % 65536 + 65536 - cq s n QCTX.CQHEAD) % 65536 ≤ (cq s n QCTX.CQTAIL + 65536 - cq s n QCTX.CQHEAD) % 65536 →
    Answers (.cqHead prv ten q v) s (bellCount (setQ s n QCTX.CQHEAD (bget v ⟨0, 16⟩)) n))
  ∧ (∀ prv ten q n s, live s = true → bellCtx s ⟨prv, ten, q⟩ = some n → cq s n QCTX.STATE = qHalted →
    Answers (.resume prv ten q) s (setQ s n QCTX.STATE (if mgetD [] s.que.stopped n = [] then qRunning else qStopped)))
  ∧ (∀ prv ten q n s, live s = true → bellCtx s ⟨prv, ten, q⟩ = some n →
    Answers (.cancelAll prv ten q) s (layerTick (cancelQueue s n fun _ => true)))
  ∧ (∀ prv ten q tag n s u, live s = true → bellCtx s ⟨prv, ten, q⟩ = some n →
    u = { s with que := { s.que with slots := mmap s.que.slots fun _ sl => if sl.ctx = n ∧ sl.ph = .fetching ∧ sl.stop = none then { sl with ctag := tag :: sl.ctag } else sl } } →
    Answers (.cancelTag prv ten q tag) s (layerTick (cancelQueue u n fun sl => sl.ph != .fetching && hd sl.d DHDR.TAG == tag)))
  ∧ (∀ prv page off s, live s = true →
    Answers (.doorbellMissizedWrite prv page off) s (ledger s 0x0201 0 (if prv then none else some page) [page, off]))
  ∧ (∀ n k s, live s = true → mget s.que.signal n = some k → (s.eng.pend.any fun p => p.cpl && p.ctx == n) = false →
    Answers (.interruptModerationTimer n) s (msix { s with que := { s.que with signal := mdel s.que.signal n } } (qFn s n) (cq s n QCTX.VEC)))
  ∧ (∀ n k s, live s = true → mget s.que.signal n = some k → (s.eng.pend.any fun p => p.cpl && p.ctx == n) = true →
    Answers (.interruptModerationTimer n) s { s with que := { s.que with signal := mdel s.que.signal n, msgDue := insRising s.que.msgDue n } })

/-- After R96, R100, R104 to R106, R572: a queue that may fetch reserves slots for what it reads; the descriptors of a read arrive in
order; one that meets every launch condition launches; a deadline stops the descriptor where it stands; a failed host read
stops the queue or the descriptor that made it. -/
def Obligations.DescriptorLifeCommands : Prop :=
  (∀ n s, live s = true → mayFetch s n = true → 0 < fetchCount s n → cq s n QCTX.SQLOC = 0 →
    ∃ t, exec (.descriptorFetch n) s = .next t ∧ t.que.nextSeq = s.que.nextSeq + fetchCount s n ∧ cq t n QCTX.SQHEAD = (cq s n QCTX.SQHEAD + fetchCount s n) % 65536 ∧ cq t n QCTX.INFL = (cq s n QCTX.INFL + fetchCount s n) % 512 ∧ (t.que.reads.any fun r => r.ctx == n && r.first == cq s n QCTX.SQHEAD && r.n == fetchCount s n && r.data.isNone) = true)
  ∧ (∀ n s, live s = true → mayFetch s n = true → 0 < fetchCount s n → cq s n QCTX.SQLOC = 1 →
    saChip (ringAddr s n (cq s n QCTX.SQHEAD)) = own s → saTier (ringAddr s n (cq s n QCTX.SQHEAD)) = 0 →
    ∃ t, exec (.descriptorFetch n) s = .next t ∧ t.que.nextSeq = s.que.nextSeq + fetchCount s n ∧ cq t n QCTX.SQHEAD = (cq s n QCTX.SQHEAD + fetchCount s n) % 65536 ∧ cq t n QCTX.INFL = (cq s n QCTX.INFL + fetchCount s n) % 512 ∧ (t.que.reads.any fun r => r.ctx == n && r.first == cq s n QCTX.SQHEAD && r.data == some ((List.range (fetchCount s n)).map fun i => ofBytes 1024 (ownRead s (ringAddr s n (cq s n QCTX.SQHEAD) + 128 * i) 128))) = true)
  ∧ (∀ n first (ds l : List Desc) r s u, live s = true →
    (s.que.reads.find? fun r => r.ctx == n && r.first == first) = some r → ringData s r ds = some l →
    u = { ringErr s r with que := { (ringErr s r).que with reads := (ringErr s r).que.reads.filter fun x => !(x.ctx == n && x.first == first) } } →
    Answers (.descriptorArrive n first ds) s ((r.seqs.zip (l ++ List.replicate (r.n - l.length) 0)).foldl (fun s e => arriveOne s arrivalState e.1 e.2) u))
  ∧ (∀ n first (ds : List Desc) r s, live s = true →
    (s.que.reads.find? fun r => r.ctx == n && r.first == first) = some r → ringData s r ds = none →
    Answers (.descriptorArrive n first ds) s s)
  ∧ (∀ sq sl s, live s = true → slotOf s sq = some sl → sl.ph = .waiting → covered s sl = [] → canLaunch s sl = true →
    Answers (.descriptorLaunch sq) s (launchIt s sl))
  ∧ (∀ sq sl s, live s = true → slotOf s sq = some sl → hasDeadline s sl.ctx sl.d = true → sl.ph = .untranslated →
    Answers (.descriptorDeadline sq) s (complete s sq stTimeout 0 0))
  ∧ (∀ sq sl s, live s = true → slotOf s sq = some sl → hasDeadline s sl.ctx sl.d = true → sl.ph = .running →
    opcode sl.d ≠ ocLayer → opcode sl.d ≠ ocPublish → tierWait s sq = none →
    Answers (.descriptorDeadline sq) s (stopRunning s sq stTimeout 0))
  ∧ (∀ sq sl s st sub, live s = true → slotOf s sq = some sl → hasDeadline s sl.ctx sl.d = true → sl.ph = .running →
    opcode sl.d ≠ ocLayer → opcode sl.d ≠ ocPublish → tierWait s sq = some (st, sub) →
    Answers (.descriptorDeadline sq) s (modSlot (stopRunning s sq st sub) sq fun x => { x with lateAt := x.lateAt.or (some s.tim.now) }))
  ∧ (∀ sq sl s, live s = true → slotOf s sq = some sl → hasDeadline s sl.ctx sl.d = true → sl.ph = .finishing →
    Answers (.descriptorDeadline sq) s (deadlineFin s sq))
  ∧ (∀ sq sl s, live s = true → slotOf s sq = none → (s.que.retryWait.find? fun sl => sl.seq == sq) = some sl →
    hasDeadline s sl.ctx sl.d = true → Answers (.descriptorDeadline sq) s (completeWaiting s sl stTimeout 0))
  ∧ (∀ id cause s, live s = true →
    Answers (.hostReadFail true id cause) s (ringFail s (id / 65536) (id % 65536) cause))
  ∧ (∀ id cause sq off n sl s u, live s = true → (s.que.hreads.find? fun h => h.1 == id) = some (id, sq, off, n) →
    u = { s with que := { s.que with hreads := s.que.hreads.filter fun h => h.1 != id } } → slotOf u sq = some sl →
    Answers (.hostReadFail false id cause) s (finish (hostErr u (qFn u sl.ctx) (opF sl.d 0 OPND.VA + off) cause) sq (hostFailStatus cause) 0x00D0 0))

/-- After R78, R108, R110, R182, R183, R209 to R211: what each of these descriptors does once it has launched. A tally set by
TALLY_SET wakes those whose target it reaches; a tally of another tenant completes with ACCESS, substatus 0x0030. -/
def Obligations.ControlCommands : Prop :=
  (∀ sq sl s, Begins s ocNop sq sl → Answers (.nop sq) s (finish s sq stOk 0 0))
  ∧ (∀ sq sl s, Begins s ocTallyWait sq sl → Answers (.tallyWait sq) s (finish s sq stOk 0 (keptRes sl)))
  ∧ (∀ sq sl s i, Begins s ocTallySet sq sl → i = par sl.d 56 2 →
    tallyMine s i (qTen s sl.ctx) (qPrv s sl.ctx) = true →
    Answers (.tallySet sq) s (layerTick (finish (tallyTouch (setTally s i (bset (tallyRec s i) TALLY.COUNT (par sl.d 48 8))) i) sq stOk 0 0)))
  ∧ (∀ sq sl s, Begins s ocTallySet sq sl → tallyMine s (par sl.d 56 2) (qTen s sl.ctx) (qPrv s sl.ctx) = false →
    Answers (.tallySet sq) s (layerTick (finish s sq stAccess 0x0030 0)))
  ∧ (∀ sq sl s, Begins s ocPrefetch sq sl → opLen sl.d 0 ≠ 0 → canIssue s (qFn s sl.ctx) = true → ops0 sl.d 1 1 = 0 →
    Answers (.prefetch sq) s (prefetchIn s sl))
  ∧ (∀ sq sl s, Begins s ocPrefetch sq sl → opLen sl.d 0 ≠ 0 → canIssue s (qFn s sl.ctx) = true → ops0 sl.d 1 1 = 1 →
    Answers (.prefetch sq) s (prefetchOut s sl))
  ∧ (∀ tag data sq off n sl s u, live s = true → (s.que.hreads.find? fun h => h.1 == tag) = some (tag, sq, off, n) →
    u = { s with que := { s.que with hreads := s.que.hreads.filter fun h => h.1 != tag } } → slotOf u sq = some sl →
    sl.ph = .running → sl.stop = none → heldBack u sq = false →
    Answers (.hostReadData tag data) s  (layerTick (if (storeBytes u sq 1 off ((data ++ List.replicate (n - data.length) 0).take n)).que.hreads.any (fun h => h.2.1 == sq)   then storeBytes u sq 1 off ((data ++ List.replicate (n - data.length) 0).take n)   else finish (storeBytes u sq 1 off ((data ++ List.replicate (n - data.length) 0).take n)) sq stOk 0 (opLen sl.d 1))))
  ∧ (∀ sq sl s, Begins s ocAdvise sq sl → subOp sl.d = 0 →
    Answers (.adviseNone sq) s (finish (adviseHint s sl 0) sq stOk 0 0))
  ∧ (∀ sq sl s, Begins s ocAdvise sq sl → subOp sl.d = 1 →
    Answers (.adviseHot sq) s (if (adviseFill (adviseHint s sl 1) sl).1 then finish (adviseFill (adviseHint s sl 1) sl).2 sq stOk 0 0 else finish (adviseFill (adviseHint s sl 1) sl).2 sq stQuota 3 0))
  ∧ (∀ sq sl s, Begins s ocAdvise sq sl → subOp sl.d = 2 →
    Answers (.adviseCold sq) s (finish (adviseHint s sl 2) sq stOk 0 0))
  ∧ (∀ sq sl s, Begins s ocAdvise sq sl → subOp sl.d = 3 →
    Answers (.adviseStream sq) s (finish (adviseHint s sl 3) sq stOk 0 0))
  ∧ (∀ sq sl s, Begins s ocAdvise sq sl → subOp sl.d = 4 →
    Answers (.adviseXltPreload sq) s (finish s sq stOk 0 (keptRes sl)))

/-- After R392, R395, R397, R399, R400, R407, R413: a launched pool operation that wants no scribe begins; one that wants one takes a
free scribe that no earlier descriptor waits for; a piece ends at a tile boundary once every byte it reads is there; a freed
scribe goes to the next waiting descriptor. -/
def Obligations.PoolCommands : Prop :=
  (∀ sq sl s, Begins s ocFill sq sl → wantsScribe sl.d = false → Answers (.fill sq) s (poolRun s sq))
  ∧ (∀ sq sl s, Begins s ocCopy sq sl → wantsScribe sl.d = false → Answers (.copy sq) s (poolRun s sq))
  ∧ (∀ sq sl s, Begins s ocCopy sq sl → wantsScribe sl.d = true → freeScribes s ≠ [] → scribeRoom s sl = true →
    nextForScribe s = none →
    ∃ n, n ∈ freeScribes s ∧ Answers (.copy sq) s (poolRun (takeScribe { s with fresh := s.fresh + 1 } n sq) sq))
  ∧ (∀ sq sl s, Begins s ocCompare sq sl → wantsScribe sl.d = false → Answers (.compare sq) s (poolRun s sq))
  ∧ (∀ sq sl s, Begins s ocReduce sq sl → wantsScribe sl.d = false → Answers (.reduce sq) s (poolRun s sq))
  ∧ (∀ sq sl s, Begins s ocScribe sq sl → wantsScribe sl.d = true → freeScribes s ≠ [] → scribeRoom s sl = true →
    nextForScribe s = none →
    ∃ n, n ∈ freeScribes s ∧ Answers (.scribeRun sq) s (poolRun (takeScribe { s with fresh := s.fresh + 1 } n sq) sq))
  ∧ (∀ sq p sl s done res x u, live s = true → slotOf s sq = some sl → sl.ph = .running → sl.stop = none →
    heldBack s sq = false → sl.work = .pool done res none → sl.err = none → p ∉ done → p < pieces sl.d →
    u = (pieceReads sl.d p).foldl (fun s r => askBytes s sq r.1 r.2.1 r.2.2) s → slotOf u sq = some x → x.err = none →
    ((pieceReads sl.d p).all fun r => haveBytes x r.1 r.2.1 r.2.2) = true →
    Answers (.poolPieceEnd sq p) s (layerTick (poolCheck (pieceDo u x p) sq)))
  ∧ (∀ n sl x s u, live s = true → n ∈ freeScribes s → nextForScribe s = some sl → u = takeScribe s n sl.seq →
    slotOf u sl.seq = some x → x.ph = .launched → x.stop = none → heldBack u sl.seq = false →
    Answers (.scribeGrant n) s (poolRun u sl.seq))

/-- After R405, R406, R408, R410, R411, R643: the writes of a scribe that its writer may reach. START loads the start value and
empties the count; each data write feeds its bytes, low byte first, to a running scribe and counts them; FINISH leaves the
check value in SCR_RES and ends the run; SCR_VAL, SCR_CNT, SCR_FOLD, SCR_EXP and SCR_CFG hold what is written; DONE and
MISMATCH clear by writing 1. -/
def Obligations.ScribeRegisterCommands : Prop :=
  (∀ fw n (v : W64) s poly fold, live s = true → scrMine s fw n = true → bget (v ||| 1#64) ⟨0, 3⟩ = 1 →
    poly = getF s SCR_CFG.POLY n → fold = getF s SCR_CFG.FOLDSEL n → poly ≠ 3 → fold < 2 →
    ∃ t, exec (.scrStart fw n v) s = .next t ∧ getF t SCR_VAL.VAL n = crcStart (polyOf poly) (if fold = 1 then some (getF s SCR_FOLD.FOLD n) else none) % 2 ^ 64 ∧ getF t SCR_CNT.COUNT n = 0 ∧ getF t SCR_STAT.ACTIVE n = 1 ∧ mgetD 0 t.nmo.cfg n = regGet s .SCR_CFG n)
  ∧ (∀ fw n (v : W64) s, live s = true → scrMine s fw n = true → bget (v ||| 2#64) ⟨0, 3⟩ = 2 →
    tstF s SCR_STAT.ACTIVE n = true →
    ∃ t, exec (.scrFinish fw n v) s = .next t ∧ getF t SCR_RES.RES n = crcEnd (scrRunPoly s n) (getF s SCR_VAL.VAL n) % 2 ^ 64 ∧ getF t SCR_STAT.ACTIVE n = 0 ∧ getF t SCR_STAT.DONE n = 1 ∧ (getF t SCR_STAT.MISMATCH n = 1 ∨ getF t SCR_STAT.MISMATCH n = getF s SCR_STAT.MISMATCH n))
  ∧ (∀ fw n (v : W64) s, live s = true → scrMine s fw n = true → bget (v ||| 4#64) ⟨0, 3⟩ = 4 →
    tstF s SCR_STAT.ACTIVE n = true → Answers (.scrAbort fw n v) s (setF s SCR_STAT.ACTIVE n 0))
  ∧ (∀ fw n (v : W64) s, live s = true → scrMine s fw n = true → tstF s SCR_STAT.ACTIVE n = true →
    ∃ t, exec (.scrData8 fw n v) s = .next t ∧ getF t SCR_VAL.VAL n = crcFeed (scrRunPoly s n) (getF s SCR_VAL.VAL n) (leBytes 1 v.toNat) % 2 ^ 64 ∧ getF t SCR_CNT.COUNT n = (getF s SCR_CNT.COUNT n + 1) % 2 ^ 64)
  ∧ (∀ fw n (v : W64) s, live s = true → scrMine s fw n = true → tstF s SCR_STAT.ACTIVE n = true →
    ∃ t, exec (.scrData16 fw n v) s = .next t ∧ getF t SCR_VAL.VAL n = crcFeed (scrRunPoly s n) (getF s SCR_VAL.VAL n) (leBytes 2 v.toNat) % 2 ^ 64 ∧ getF t SCR_CNT.COUNT n = (getF s SCR_CNT.COUNT n + 2) % 2 ^ 64)
  ∧ (∀ fw n (v : W64) s, live s = true → scrMine s fw n = true → tstF s SCR_STAT.ACTIVE n = true →
    ∃ t, exec (.scrData32 fw n v) s = .next t ∧ getF t SCR_VAL.VAL n = crcFeed (scrRunPoly s n) (getF s SCR_VAL.VAL n) (leBytes 4 v.toNat) % 2 ^ 64 ∧ getF t SCR_CNT.COUNT n = (getF s SCR_CNT.COUNT n + 4) % 2 ^ 64)
  ∧ (∀ fw n (v : W64) s, live s = true → scrMine s fw n = true → tstF s SCR_STAT.ACTIVE n = true →
    ∃ t, exec (.scrValWrite fw n v) s = .next t ∧ getF t SCR_VAL.VAL n = v.toNat % 2 ^ (scrRunPoly s n).w % 2 ^ 64 ∧ getF t SCR_CNT.COUNT n = getF s SCR_CNT.COUNT n)
  ∧ (∀ fw n (v : W64) s, live s = true → scrMine s fw n = true → tstF s SCR_STAT.ACTIVE n = true →
    ∃ t, exec (.scrCntWrite fw n v) s = .next t ∧ getF t SCR_CNT.COUNT n = v.toNat ∧ getF t SCR_VAL.VAL n = getF s SCR_VAL.VAL n)
  ∧ (∀ fw n (v : W64) s, live s = true → (scrMine s fw n || (fw && n < 32)) = true →
    ∃ t, exec (.scrCfgWrite fw n v) s = .next t ∧ getF t SCR_CFG.POLY n = bget v SCR_CFG.POLY.bf ∧ getF t SCR_CFG.FOLDSEL n = bget v SCR_CFG.FOLDSEL.bf ∧ getF t SCR_CFG.EXPEN n = bget v SCR_CFG.EXPEN.bf ∧ getF t SCR_CFG.OWNER n = (if fw && !tstF s SEC_BOOT.SEALED then bget v SCR_CFG.OWNER.bf else getF s SCR_CFG.OWNER n))
  ∧ (∀ fw n (v : W64) s, live s = true → scrMine s fw n = true →
    ∃ t, exec (.scrFoldWrite fw n v) s = .next t ∧ getF t SCR_FOLD.FOLD n = v.toNat)
  ∧ (∀ fw n (v : W64) s, live s = true → scrMine s fw n = true →
    ∃ t, exec (.scrExpWrite fw n v) s = .next t ∧ getF t SCR_EXP.EXP n = v.toNat)
  ∧ (∀ fw n (v : W64) s, live s = true → scrMine s fw n = true →
    ∃ t, exec (.scrStatClear fw n v) s = .next t ∧ getF t SCR_STAT.DONE n = (if maskBit v 0 then 0 else getF s SCR_STAT.DONE n) ∧ getF t SCR_STAT.MISMATCH n = (if maskBit v 1 then 0 else getF s SCR_STAT.MISMATCH n) ∧ getF t SCR_STAT.ACTIVE n = getF s SCR_STAT.ACTIVE n)

/-- After R237, R257, R261, R269 to R271, R293, R298, R302, R304: a kernel whose first bytes are there takes arrays or waits for them;
a free array goes to the next waiting kernel; a pass ends at a tile boundary, the last pass with the kernel; an array is
fenced once. -/
def Obligations.ArrayKernelCommands : Prop :=
  (∀ sq sl s u x, Begins s ocGemm sq sl → u = askBytes s sq 3 0 (opLen sl.d 3) → slotOf u sq = some x →
    hardErr x = none → haveBytes x 3 0 (opLen x.d 3) = true → gemmSizeBad x = false →
    Answers (.sparseGemm sq) s (kernelStart u x (if x.work = .idle then .gemm {} else x.work)))
  ∧ (∀ sq sl s, Begins s ocAttn sq sl → sl.work ≠ .idle → Answers (.attnDecode sq) s (kernelStart s sl sl.work))
  ∧ (∀ sq sl s z y, Begins s ocAttn sq sl → sl.work = .idle → hardErr sl = none →
    askMaps s sq sl.leases (attnLayer sl.d) = (true, z) → slotOf z sq = some y →
    ∃ groups, Answers (.attnDecode sq) s (kernelStart z y (.attn (attnSeqs z y) groups)))
  ∧ (∀ sq sl s, Begins s ocExpert sq sl →
    Answers (.expertFfn sq) s (kernelStart s sl (if sl.work = .idle then .ffn {} else sl.work)))
  ∧ (∀ a sl x s, live s = true → arrayFree s a = true → nextKernel s = some sl → slotOf s sl.seq = some x →
    x.ph = .launched → x.stop = none → heldBack s sl.seq = false → Answers (.arrayGrant a) s (takeArrays s x a))
  ∧ (∀ a sq sl s r i p u x ts acc, live s = true → mget s.arr.held a = some sq → slotOf s sq = some sl → sl.seq = sq →
    a ∉ s.arr.waking → plumbBusy s sq = false → opcode sl.d = ocGemm → sl.ph = .running → sl.stop = none →
    heldBack s sq = false → hardErr sl = none → sl.work = .gemm r →
    r.parts.findIdx? (fun q => q.arr == a && !q.over) = some i → r.parts[i]? = some p →
    u = askAll s sq (gemmReads sl.d) → slotOf u sq = some x → haveAll x (gemmReads x.d) = true →
    p.ts[p.ran]? = some ts → acc = (if p.ran = 0 then accInit u x p else readAcc (unitOf u a) (chunkRows x.d p.mt)) →
    passSkips u x p.mt ts = [] →
    Answers (.passEnd a) s (layerTick (passDone (passCount a { u with fresh := u.fresh + 65536 } x) x { r with skips := min (r.skips + 0) (2 ^ 32 - 1) } i p a (accPass u x p.mt (cellsFor u x a p.nt ts) [] acc))))
  ∧ (∀ a sq sl s r i p u x, live s = true → mget s.arr.held a = some sq → slotOf s sq = some sl → sl.seq = sq →
    a ∉ s.arr.waking → plumbBusy s sq = false → opcode sl.d = ocGemm → sl.ph = .running → sl.stop = none →
    heldBack s sq = false → hardErr sl = none → sl.work = .gemm r →
    r.parts.findIdx? (fun q => q.arr == a && !q.over) = some i → r.parts[i]? = some p →
    u = askAll s sq (gemmReads sl.d) → slotOf u sq = some x → haveAll x (gemmReads x.d) = true → p.ran = 0 →
    p.ts = [] → Answers (.passEnd a) s (layerTick (passDone (unitUse u a) x r i p a (accInit u x p))))
  ∧ (∀ a sq sl s r, live s = true → mget s.arr.held a = some sq → slotOf s sq = some sl → sl.seq = sq →
    a ∉ s.arr.waking → plumbBusy s sq = false → opcode sl.d = ocExpert → sl.ph = .running → sl.stop = none →
    heldBack s sq = false → hardErr sl = none → sl.work = .ffn r →
    Answers (.passEnd a) s (layerTick (ffnPass s sl r a (passCount a))))
  ∧ (∀ a sq sl s e u, live s = true → mget s.arr.held a = some sq → slotOf s sq = some sl → sl.seq = sq →
    a ∉ s.arr.waking → plumbBusy s sq = false → opcode sl.d ≠ ocAttn → sl.ph = .running → sl.stop = some e →
    heldBack s sq = false → arraysOf s sq = [a] →
    u = undefOut { s with arr := { s.arr with bound := (insRising s.arr.bound a).filter (fun b => !([a] : List Nat).contains b) } } sl →
    slotOf u sq = some sl → heldBack u sq = false → Answers (.passEnd a) s (layerTick (finish u sq e.1 e.2 0)))
  ∧ (∀ sq pair sl s (seqs : List AttnSeq) (groups : List AttnGroup), live s = true → slotOf s sq = some sl →
    sl.seq = sq → opcode sl.d = ocAttn → sl.ph = .running → (arraysOf s sq).all s.arr.waking.contains = false →
    plumbBusy s sq = false → sl.stop = none → heldBack s sq = false → hardErr sl = none →
    sl.work = .attn seqs groups → groups[pair]? = none → groups.all (fun g => g.done) = true →
    Answers (.attnRoundEnd sq pair) s (layerTick (attnEnd s sl seqs groups)))
  ∧ (∀ a s u, live s = true → a < 32 → (regGet s .ARR_FENCED 0).getLsbD a = false → mget s.arr.held a = none →
    u = ledger (setEvt (regSet s .ARR_FENCED 0 (maskSet (regGet s .ARR_FENCED 0) a)) ARR_EVT.FENCE) 0x0C05 3 none [a] →
    Answers (.arrayFence a) s (report u 0x08 a (maskCount (regGet u .ARR_FENCED 0) 32) 0))

/-- R494 to R496: the second execution of a selected kernel is compared with the first; after a mismatch the two arrays run
self-test, and what failed is fenced. -/
def Obligations.PlumbCommands : Prop :=
  (∀ sq a b (second : List (List Byte)) p sl s, live s = true → mget s.arr.plumb sq = some p → p.pair = none →
    p.ok = false → slotOf s sq = some sl → sl.ph = .running → sl.stop = none → heldBack s sq = false →
    ((p.out.zip (p.out.mapIdx fun i o => (o.1, second.getD i []))).all fun x => outAgree (getF (satF s RED_PLUMBSTAT.CHECKS 0) RED_PLUMB.TOL) x.1 x.2) = true →
    Answers (.plumbCompare sq a b second) s (plumbDone (satF s RED_PLUMBSTAT.CHECKS 0) sq p 0))
  ∧ (∀ sq a b (second : List (List Byte)) p sl s u, live s = true → mget s.arr.plumb sq = some p → p.pair = none →
    p.ok = false → slotOf s sq = some sl → sl.ph = .running → sl.stop = none → heldBack s sq = false →
    ((p.out.zip (p.out.mapIdx fun i o => (o.1, second.getD i []))).all fun x => outAgree (getF (satF s RED_PLUMBSTAT.CHECKS 0) RED_PLUMB.TOL) x.1 x.2) = false →
    u = setEvt (satF s RED_PLUMBSTAT.CHECKS 0) RED_EVT.PLUMB →
    Answers (.plumbCompare sq a b second) s { u with arr := { u.arr with testing := insRising (insRising u.arr.testing a) b, plumb := mput u.arr.plumb sq { p with pair := some (a, b) } } })
  ∧ (∀ sq p a b s u, live s = true → mget s.arr.plumb sq = some p → p.pair = some (a, b) →
    u = { s with arr := { s.arr with testing := s.arr.testing.filter (fun x => x != a && x != b), plumb := mput s.arr.plumb sq { p with pair := none, ok := true, sub := 0x00C0 } } } →
    (mget s.arr.held a == some sq) = false →
    Answers (.plumbSelftestDone sq true false) s (plumbDone (satF (fenceArray u a) RED_PLUMBSTAT.FENCED 0) sq p 0x00C0))

/-- After R276, R281 to R285, R290, R292: CREATE takes a FREE record and slots for its maps; ACQUIRE and RELEASE move REFS, the last
RELEASE makes the lease IDLE or RECLAIMING; RENEW sets EXPIRY; TRUNCATE shortens layers, and their blocks return once every
descriptor that pinned the lease is done; a RECLAIMING lease without pins becomes FREE; the scan ends what has expired; a
pool is enabled over extents that may hold it and disabled once no lease is left. -/
def Obligations.LeaseCommands : Prop :=
  (∀ sq sl s n j, Begins s ocKvLease sq sl → subOp sl.d = 0 → crMaps s (qTen s sl.ctx) sl.d = some n →
    n ≤ kvFree s (qTen s sl.ctx) →
    getF s TEN_KVLEASE.USED (qTen s sl.ctx) < limitQ s TEN_KVLEASE.LIMIT (qTen s sl.ctx) 65535 → 0 < j → j < 65536 →
    lease s j LEASE.STATE = lsFree →
    ∃ i maps u v, 0 < i ∧ i < 65536 ∧ lease s i LEASE.STATE = lsFree ∧ kvTake { s with fresh := s.fresh + 1 } (qTen s sl.ctx) i n = (maps, u) ∧ v = sysPut u (leaseSa u i) (newLease (leaseRec u i) (qTen s sl.ctx) sl.d maps) ∧ Answers (.kvLeaseCreate sq) s (finish ((List.range (crLayers sl.d + 1)).foldl (fun w l => storeAt w sq (layerSa w i l) (List.replicate 8 0)) (setF v TEN_KVLEASE.USED (qTen s sl.ctx) (getF v TEN_KVLEASE.USED (qTen s sl.ctx) + 1))) sq stOk 0 (lease ((List.range (crLayers sl.d + 1)).foldl (fun w l => storeAt w sq (layerSa w i l) (List.replicate 8 0)) (setF v TEN_KVLEASE.USED (qTen s sl.ctx) (getF v TEN_KVLEASE.USED (qTen s sl.ctx) + 1))) i LEASE.GEN * 65536 + i)))
  ∧ (∀ sq sl s i, Begins s ocKvLease sq sl → subOp sl.d = 1 → i = sl.leases.headD 0 →
    lease s i LEASE.STATE = lsLive ∨ lease s i LEASE.STATE = lsIdle → lease s i LEASE.REFS ≠ 65535 →
    Answers (.kvLeaseAcquire sq) s (finish (setLease (setLease s i LEASE.REFS (lease s i LEASE.REFS + 1)) i LEASE.STATE lsLive) sq stOk 0 (lease s i LEASE.REFS + 1)))
  ∧ (∀ sq sl s i, Begins s ocKvLease sq sl → subOp sl.d = 2 → i = sl.leases.headD 0 →
    lease s i LEASE.STATE = lsLive ∨ lease s i LEASE.STATE = lsIdle → 1 < lease s i LEASE.REFS →
    Answers (.kvLeaseRelease sq) s (finish (setLease s i LEASE.REFS (lease s i LEASE.REFS - 1)) sq stOk 0 (lease s i LEASE.REFS - 1)))
  ∧ (∀ sq sl s i, Begins s ocKvLease sq sl → subOp sl.d = 2 → i = sl.leases.headD 0 →
    lease s i LEASE.STATE = lsLive ∨ lease s i LEASE.STATE = lsIdle → lease s i LEASE.REFS = 1 →
    Answers (.kvLeaseRelease sq) s (finish (setLease (setLease s i LEASE.REFS 0) i LEASE.STATE (if ops0 sl.d 4 1 = 1 then lsIdle else lsReclaiming)) sq stOk 0 0))
  ∧ (∀ sq sl s i, Begins s ocKvLease sq sl → subOp sl.d = 3 → i = sl.leases.headD 0 →
    lease s i LEASE.STATE = lsLive ∨ lease s i LEASE.STATE = lsIdle →
    par sl.d 48 8 = 0 ∨ s.tim.now.toNat < par sl.d 48 8 →
    Answers (.kvLeaseRenew sq) s (finish (setLease s i LEASE.EXPIRY (par sl.d 48 8)) sq stOk 0 (lease s i LEASE.REFS)))
  ∧ (∀ sq sl s i u x ks, Begins s ocKvLease sq sl → subOp sl.d = 4 → i = sl.leases.headD 0 →
    lease s i LEASE.STATE = lsLive ∨ lease s i LEASE.STATE = lsIdle →
    par sl.d 72 1 = 0xFF ∨ par sl.d 72 1 ≤ lease s i LEASE.LAYERS →
    (trLayers s sl.d i).foldl (fun (a : Bool × State) l => (a.1 && (askMap a.2 sq i l).1, (askMap a.2 sq i l).2)) (true, s) = (true, u) →
    slotOf u sq = some x → hardErr x = none → x.seq = sq →
    ks = ((trLayers s sl.d i).map fun l => trSlots u x i l (par sl.d 68 4)).flatten → ks ≠ [] →
    ∃ w, w = (trLayers s sl.d i).foldl (fun w l => if par sl.d 68 4 < mapTokens w x i l then storeAt w sq (layerSa w i l) (leBytes 4 (par sl.d 68 4)) else w) u ∧ Answers (.kvLeaseTruncate sq) s (finish { w with kv := { w.kv with trunc := w.kv.trunc ++ [(i, ks, pinners w i sq)] } } sq stOk 0 ks.length))
  ∧ (∀ i s ks, live s = true →
    ks = ((s.kv.trunc.filter fun e => e.1 == i && truncReady s e).map fun e => e.2.1).flatten → ks ≠ [] →
    ∃ u, u = { s with kv := { s.kv with trunc := s.kv.trunc.filter fun e => !(e.1 == i && truncReady s e) } } ∧ Answers (.truncateBlockRelease i) s (setLease (kvGive u (lease u i LEASE.OWNER) ks) i LEASE.BLOCKS (lease (kvGive u (lease u i LEASE.OWNER) ks) i LEASE.BLOCKS - ks.length)))
  ∧ (∀ i s, live s = true → tstF s ARR_KVLTAB.EN = true → 0 < i → i < 65536 → lease s i LEASE.STATE = lsReclaiming →
    lease s i LEASE.PINS = 0 → Answers (.leaseReclaim i) s (leaseFree s i))
  ∧ (∀ s gone, live s = true →
    gone = (leasesUsed s).filter (fun i => (lease s i LEASE.STATE == lsLive || lease s i LEASE.STATE == lsIdle) && leaseExpired s i) →
    Answers .leaseExpiryScan s (((gone.map fun i => lease s i LEASE.OWNER).eraseDups).foldl (fun u t => expiryNote u t (gone.filter fun i => lease s i LEASE.OWNER == t).length) (gone.foldl leaseExpire s)))
  ∧ (∀ t (v : W64) s (pv : W64), s.pwr.fast = true → s.hst.only = false → t < 512 → tstF s TEN_KVPOOL.EN t = false →
    pv = v &&& ~~~ (BitVec.ofNat 64 0x1FFFF) → poolOk s t pv = true →
    Answers (.kvPoolEnable t v) s (regSet s .TEN_KVPOOL t pv))
  ∧ (∀ t (v : W64) s (pv : W64), s.pwr.fast = true → s.hst.only = false → t < 512 → tstF s TEN_KVPOOL.EN t = true →
    pv = v &&& ~~~ (BitVec.ofNat 64 0x1FFFF) → bget pv TEN_KVPOOL.EN.bf = 0 → hasLease s t = false →
    Answers (.kvPoolEnable t v) s (regSet s .TEN_KVPOOL t pv))

/-- R289 to R291, R314 to R317: a KV_APPEND that no earlier append of its layer holds back reads TOKENS, takes the slots it
needs and waits for an array; a LAYER_STREAM starts at its done count, ends with STATUS OK at the last layer, and ends with
its waiters at a deadline that a late layer meets. -/
def Obligations.AppendAndStreamCommands : Prop :=
  (∀ sq sl s u x old n, Begins s ocKvAppend sq sl → sl.work = .idle → appBlocked s sl = false →
    askMap s sq (sl.leases.headD 0) (appLayer sl.d) = (true, u) → slotOf u sq = some x → x.err = none →
    old = mapTokens u x (sl.leases.headD 0) (appLayer x.d) → n = blocksFor (old + appTok u x) - blocksFor old →
    blocksFor (old + appTok u x) ≤ lease u (sl.leases.headD 0) LEASE.MAXBLK → n ≤ kvFree u (qTen s sl.ctx) →
    ∃ ks w, kvTake u (qTen s sl.ctx) (sl.leases.headD 0) n = (ks, w) ∧ Answers (.kvAppend sq) s (kernelStart w x (.append old ks 0)))
  ∧ (∀ sq sl s d r l w bad, live s = true → slotOf s sq = some sl → sl.ph = .running → sl.stop = none →
    heldBack s sq = false → opcode sl.d = ocLayer → sl.seq = sq → sl.work = .layer d r l w bad →
    lyNL sl.d ≤ lyCount s sl d → Answers (.layerStream sq) s (finish s sq stOk 0 l))
  ∧ (∀ sq sl s u x y, Begins s ocLayer sq sl → sl.work = .idle → u = askBytes s sq 1 0 (opLen sl.d 1) →
    slotOf u sq = some x → x.err = none → haveBytes x 1 0 (opLen x.d 1) = true → lyCheck u x = 0 →
    y = { x with ph := .running, work := .layer (lyCount u x 0) 0 0 false none } →
    Answers (.layerStream sq) s (lyStep (setSlot u sq y) y true))
  ∧ (∀ sq sl s d r l bad u, live s = true → u = layerTick s → slotOf u sq = some sl → sl.ph = .running →
    sl.work = .layer d r l true bad → lyStaged u sl d = false → hasDeadline u sl.ctx sl.d = true →
    qPrv u sl.ctx = true →
    Answers (.layerWaitDeadline sq) s (tallyEnd (finish u sq stTierLate 0x0010 d) (lyRdy sl.d) stTierLate 0x0011))
  ∧ (∀ sq sl s d r l bad u, live s = true → u = layerTick s → slotOf u sq = some sl → sl.ph = .running →
    sl.work = .layer d r l true bad → lyStaged u sl d = false → hasDeadline u sl.ctx sl.d = true →
    qPrv u sl.ctx = false →
    Answers (.layerWaitDeadline sq) s (tallyEnd (finish (satF u TEN_LSTAT.LATEEND (qTen u sl.ctx)) sq stTierLate 0x0010 d) (lyRdy sl.d) stTierLate 0x0011))
  ∧ (∀ sq sl s d r l w bad u, live s = true → u = layerTick s → slotOf u sq = some sl → sl.work = .layer d r l w bad →
    lyStaged u sl d = true → Answers (.layerWaitDeadline sq) s u)

/-- After R196, R199, R200, R205 to R208, R215, R216, R486: a verified fill ends its page's fill; an uncorrectable block of a NONE
extent fails and is quarantined, one of a redundant class is read from redundancy, and what the recovery engine returns
repairs it; a DIRTY page is copied and programmed, a PARTIAL one is merge-filled first; MAXAGE chooses a page for
write-back; an eviction takes the page that R205 picks. -/
def Obligations.StagingCommands : Prop :=
  (∀ b p g s, live s = true → pageIn s b pgFilling = some (p, g) → g.redundant = false →
    Answers (.fillDataVerified b) s (homeWork (fillEnd s p (pgFill g (mediumData s b)))))
  ∧ (∀ b p g s, live s = true → pageIn s b pgFilling = some (p, g) → g.redundant = false → (farBlock s b).key = 0 →
    Answers (.fillUncorrectable b) s (homeWork s))
  ∧ (∀ b p g s, live s = true → pageIn s b pgFilling = some (p, g) → g.redundant = false → (farBlock s b).key ≠ 0 →
    bget (blkRec s b) EXT.RCLASS = 0 →
    Answers (.fillUncorrectable b) s (homeWork (lyFails (quarantineBlk (fillFail s p g 1) b (pageBlockSa s g)))))
  ∧ (∀ b p g s, live s = true → pageIn s b pgFilling = some (p, g) → g.redundant = false → (farBlock s b).key ≠ 0 →
    bget (blkRec s b) EXT.RCLASS ≠ 0 →
    Answers (.fillUncorrectable b) s (homeWork (setPage s p { g with redundant := true })))
  ∧ (∀ b (data : BitVec 32768) p g s (h : Page), live s = true → pageIn s b pgFilling = some (p, g) →
    g.redundant = true → g.foreign = 0 →
    h = { pgSet (pgFill g data) PAGE.DMASK 0xFF with sdirty := BitVec.allOnes 64 } →
    Answers (.redundantReadReturn b true data) s (homeWork (ledger (setEvt (fillEnd s p h) TIER_EVT.REPAIRED) 0x0503 1 none [pageBlockSa s g])))
  ∧ (∀ b (data : BitVec 32768) p g s, live s = true → pageIn s b pgFilling = some (p, g) → g.redundant = true →
    g.foreign = 0 →
    Answers (.redundantReadReturn b false data) s (homeWork (quarantineBlk (lyFails (fillFail s p g 2)) b (pageBlockSa (lyFails (fillFail s p g 2)) g))))
  ∧ (∀ b p g s, live s = true → (s.store.pages.find? fun e => pageKey e.2 == b) = some (p, g) → wbChosen s g = true →
    wbReady s g = true → pg g PAGE.STATE = pgDirty → Answers (.writebackStart b) s (homeWork (wbBegin s p g)))
  ∧ (∀ b p g s, live s = true → (s.store.pages.find? fun e => pageKey e.2 == b) = some (p, g) → wbChosen s g = true →
    wbReady s g = true → pg g PAGE.STATE = pgPartial →
    Answers (.writebackStart b) s (setPage s p { startFill g with wbWant := true }))
  ∧ (∀ b p g s, live s = true → pageIn s b pgWriting = some (p, g) → g.wbDone = false →
    Answers (.writebackAck b) s (homeWork (wbProgrammed s p g)))
  ∧ (∀ b p g s, live s = true → (s.store.pages.find? fun e => pageKey e.2 == b) = some (p, g) →
    tstF s TIER_STGWM.MAXAGE = true → pg g PAGE.DMASK ≠ 0 →
    Answers (.dirtyAgeExpire b) s (setPage s p { g with wbWant := true }))
  ∧ (∀ t sys p g s u, live s = true → u = homeWork s →
    pageNeeded u t sys = true ∨ (sys = false ∧ poolIsLow u = true) → evictPick u t sys = some (p, g) →
    Answers (.evictionStart t sys) s (evict u p g))

/-- After R219, R220, R493: the scrubber goes on to the next line and counts a corrected one; an uncorrectable line is rewritten from
its secondary or poisoned, and the second of its pseudo-channel fails the channel. -/
def Obligations.NearEccCommands : Prop :=
  (∀ s n ecc (sec : Option Line) u, live s = true → s.store.scrubHeld = none →
    n = getF s TIER_NEARCAP.EXTENTS * 2 ^ 24 → 0 < n → s.store.scrub < n →
    u = { s with store := { s.store with scrub := (s.store.scrub + 1) % n } } →
    u.store.failedPc.contains (pcOf u (s.store.scrub * 64)) = false →
    ownedIn u (mkSa (own u) 0 (s.store.scrub * 64)) 1 = [] →
    Answers (.patrolScrubStep ecc sec) s (if ecc = 0 then u else if ecc = 1 then satF u TIER_SCRUB.CORR 0 else scrubCount (nearUncorr u (mkSa (own u) 0 (s.store.scrub * 64)) sec) (pcOf u (s.store.scrub * 64)) s.store.scrub))
  ∧ (∀ s n ecc (sec : Option Line) u, live s = true → s.store.scrubHeld = none →
    n = getF s TIER_NEARCAP.EXTENTS * 2 ^ 24 → 0 < n → s.store.scrub < n →
    u = { s with store := { s.store with scrub := (s.store.scrub + 1) % n } } →
    u.store.failedPc.contains (pcOf u (s.store.scrub * 64)) = false →
    ownedIn u (mkSa (own u) 0 (s.store.scrub * 64)) 1 ≠ [] →
    Answers (.patrolScrubStep ecc sec) s (memPull { u with store := { u.store with scrubHeld := some (s.store.scrub, ecc, sec) } } (mkSa (own u) 0 (s.store.scrub * 64)) 1))
  ∧ (∀ n s u, live s = true → n < 512 → n ∉ s.store.failedPc →
    u = { s with store := { s.store with failedPc := insRising s.store.failedPc n } } →
    ∃ w, w = (u.store.ext.filter fun e => e.1 < 2 ^ 18 && btst e.2 EXT.VALID && bget e.2 EXT.RCLASS == 1 && bget e.2 EXT.ROLE == 0).foldl (fun w e => degrade w 0 e.1 2) u ∧ Answers (.pseudoChannelFail n) s (report w 0x0A n w.store.failedPc.length 0))

/-- After R125, R143, R147, R152: a request that the home admits starts a transaction or waits behind one; in tier 2 an admitted
RD_CUR answers its 64 bytes and an admitted WR_FULL writes them; a WB or EVICT_CLEAN of an admitted sender is taken at once. -/
def Obligations.AgentRequestCommands : Prop :=
  (∀ (hdr : BitVec 128) chip ep s (m : CohMsg), live s = true → m = ⟨hdr, chip, ep, 0⟩ → saTier m.sa ≠ 2 →
    admitReq s .rdShared m = .serve → Answers (.rdShared hdr chip ep) s (homeWork (homeStart s (m.req .rdShared))))
  ∧ (∀ (hdr : BitVec 128) chip ep s (m : CohMsg), live s = true → m = ⟨hdr, chip, ep, 0⟩ → saTier m.sa ≠ 2 →
    admitReq s .rdOwn m = .serve → Answers (.rdOwn hdr chip ep) s (homeWork (homeStart s (m.req .rdOwn))))
  ∧ (∀ (hdr : BitVec 128) chip ep s (m : CohMsg), live s = true → m = ⟨hdr, chip, ep, 0⟩ → saTier m.sa ≠ 2 →
    admitReq s .rdCur m = .serve → Answers (.rdCur hdr chip ep) s (homeWork (homeStart s (m.req .rdCur))))
  ∧ (∀ (hdr : BitVec 128) chip ep (data : Line) s (m : CohMsg), live s = true → m = ⟨hdr, chip, ep, data⟩ →
    saTier m.sa ≠ 2 → admitReq s .wrFull m = .serve →
    Answers (.wrFull hdr chip ep data) s (homeWork (homeStart s (m.req .wrFull))))
  ∧ (∀ (hdr : BitVec 128) chip ep s (m : CohMsg), live s = true → m = ⟨hdr, chip, ep, 0⟩ → saTier m.sa = 2 →
    admitReq s .rdCur m = .serve →
    Answers (.rdCur hdr chip ep) s (homeWork (toAgent s m.agent opDataCur 0 (m.req .rdCur) [] (bytesOf (t2Read s false m.ten (saOff m.sa) 64)))))
  ∧ (∀ (hdr : BitVec 128) chip ep (data : Line) s (m : CohMsg), live s = true → m = ⟨hdr, chip, ep, data⟩ →
    saTier m.sa = 2 → admitReq s .wrFull m = .serve →
    Answers (.wrFull hdr chip ep data) s (homeWork (toAgent (t2Write64 s (saOff m.sa) data) m.agent opCmp 0 (m.req .wrFull) [])))
  ∧ (∀ (hdr : BitVec 128) chip ep (data : Line) s (m : CohMsg), live s = true → m = ⟨hdr, chip, ep, data⟩ →
    saTier m.sa ≠ 2 → admitReq s .wb m = .serve → Answers (.wb hdr chip ep data) s (homeWork (takeWb s m)))
  ∧ (∀ (hdr : BitVec 128) chip ep s (m : CohMsg), live s = true → m = ⟨hdr, chip, ep, 0⟩ → saTier m.sa ≠ 2 →
    admitReq s .wb m = .serve → Answers (.evictClean hdr chip ep) s (homeWork (takeEvict s m)))

/-- After R134, R142, R143, R152, R154, R157, R219: an awaited answer moves its transaction on, RSP_DATA with its line written;
CMP_ACK of the requester ends a granted transaction; a near-tier read that returns is granted, a write lands; a waiting
request starts once nothing before it waits on its line; a timeout ends what it finds as Table COH-13 says; the sweep after
a dead agent reports what it found. -/
def Obligations.SnoopAnswerCommands : Prop :=
  (∀ (hdr : BitVec 128) chip ep s (m : CohMsg) (h : Nat) (t : Txn), live s = true → m = ⟨hdr, chip, ep, 0⟩ →
    m.from_ ∉ s.home.dead → servedBy s m.sa = own s → m.reservedSet = false → answered s m = some (h, t) →
    m.from_ ∈ t.owed → Answers (.rspI hdr chip ep) s (homeWork (whenAnswered s h (takeAnswer t .i m m.from_))))
  ∧ (∀ (hdr : BitVec 128) chip ep s (m : CohMsg) (h : Nat) (t : Txn), live s = true → m = ⟨hdr, chip, ep, 0⟩ →
    m.from_ ∉ s.home.dead → servedBy s m.sa = own s → m.reservedSet = false → answered s m = some (h, t) →
    m.from_ ∈ t.owed → Answers (.rspS hdr chip ep) s (homeWork (whenAnswered s h (takeAnswer t .s m m.from_))))
  ∧ (∀ (hdr : BitVec 128) chip ep s (m : CohMsg) (h : Nat) (t : Txn), live s = true → m = ⟨hdr, chip, ep, 0⟩ →
    m.from_ ∉ s.home.dead → servedBy s m.sa = own s → m.reservedSet = false → answered s m = some (h, t) →
    m.from_ ∈ t.owed → Answers (.rspFwd hdr chip ep) s (homeWork (whenAnswered s h (takeAnswer t .fwd m m.from_))))
  ∧ (∀ (hdr : BitVec 128) chip ep s (m : CohMsg) (h : Nat) (t : Txn), live s = true → m = ⟨hdr, chip, ep, 0⟩ →
    m.from_ ∉ s.home.dead → servedBy s m.sa = own s → m.reservedSet = false → answered s m = some (h, t) →
    m.from_ ∈ t.owed → Answers (.rspGone hdr chip ep) s (homeWork (whenAnswered s h (takeAnswer t .gone m m.from_))))
  ∧ (∀ (hdr : BitVec 128) chip ep (data : Line) s (m : CohMsg) (h : Nat) (t : Txn), live s = true →
    m = ⟨hdr, chip, ep, data⟩ → m.from_ ∉ s.home.dead → servedBy s m.sa = own s → m.reservedSet = false →
    answered s m = some (h, t) → m.from_ ∈ t.owed →
    Answers (.rspData hdr chip ep data) s (homeWork (whenAnswered (writeBack s m.sa data m.poison) h (takeAnswer t .data m m.from_))))
  ∧ (∀ (hdr : BitVec 128) chip ep s (m : CohMsg) (h : Nat) (t : Txn), live s = true → m = ⟨hdr, chip, ep, 0⟩ →
    m.from_ ∉ s.home.dead → servedBy s m.sa = own s → m.reservedSet = false → answered s m = some (h, t) →
    t.tr = .ack → m.from_ = m.agent → Answers (.cmpAck hdr chip ep) s (homeWork (endTxn s h t t.goal t.shr)))
  ∧ (∀ (h : Nat) ecc (sec : Option Line) s (t : Txn) sa (d : Line) (p : Bool) u, live s = true →
    mget s.home.htx h = some t → t.tr = .memRd → sa = (localSa s t.req.sa).getD t.req.sa →
    needsSecondary s sa = false → ecc < 2 → lineRead s t.req sa = (.got d p, u) →
    Answers (.nearReadReturn h ecc sec) s (homeWork (grantRead u h t d p)))
  ∧ (∀ (h : Nat) ecc (d : Line) s (t : Txn) sa, live s = true → mget s.home.htx h = some t → t.tr = .memRd →
    sa = (localSa s t.req.sa).getD t.req.sa → needsSecondary s sa = true →
    Answers (.nearReadReturn h ecc (some d)) s (homeWork (grantRead s h t d false)))
  ∧ (∀ (h : Nat) s (t : Txn), live s = true → mget s.home.htx h = some t → t.tr = .memWr →
    Answers (.nearWriteDone h) s (homeWork (landTxn s h t)))
  ∧ (∀ n s (wr : Waiting), live s = true → (s.home.retry.find? fun x => x.num == n) = some wr →
    (s.home.retry.any fun x => saLine x.req.sa == saLine wr.req.sa && decide (x.num < n)) = false →
    (startReq s wr.req wr.t0 true wr.made).1 = true →
    ∃ u, u = (startReq s wr.req wr.t0 true wr.made).2 ∧ Answers (.retryQueueStart n) s (homeWork { u with home := { u.home with retry := u.home.retry.filter (·.num != n) } }))
  ∧ (∀ n s (wr : Waiting) u, live s = true → (s.home.retry.find? fun x => x.num == n) = some wr →
    u = { s with home := { s.home with retry := s.home.retry.filter (·.num != n) } } →
    Answers (.homeTransactionTimeout true n) s (homeWork (timeoutTo (timeoutNote u wr.req) wr.req 0)))
  ∧ (∀ n s (t : Txn) ag tg u, live s = true → mget s.home.htx n = some t → t.req.who = .agent ag tg →
    u = timeoutEnd (timeoutNote s t.req) n t →
    Answers (.homeTransactionTimeout false n) s (homeWork { u with home := { u.home with quarantine := (n, s.tim.now.toNat + 4000 * 256000) :: u.home.quarantine } }))
  ∧ (∀ a (ps : List (Nat × Nat)) s u y, live s = true → mget s.home.sweep a = some ps →
    u = ((ps.map (·.2)).eraseDups).foldl (fun u t => sweepTenant u a t (ps.filter (·.2 == t)).length) { s with home := { s.home with sweep := mdel s.home.sweep a } } →
    y = setEvt (setF (setF u HOME_DEAD.AGENT 0 a) HOME_DEAD.POISONED 0 ps.length) HOME_EVT.DEAD →
    Answers (.deadAgentSweepEnd a) s (report ((ps.take 64).foldl (fun z p => ledger z 0x0403 2 (some p.2) [p.1, a]) y) 0x02 a ps.length 0))

/-- After R147, R166, R173, R175, R179, R470, R641: an admitted ENG_RD opens one operation over its lines, or answers tier 2 at once; an
admitted ENG_WR is performed line by line with its tally; ENG_RDATA completes the line it was read for; ENG_ACK and ENG_ERR
end a posted write, ENG_ERR or a timeout without recovery with its loss recorded. -/
def Obligations.EngineMessageCommands : Prop :=
  (∀ (hdr : BitVec 128) chip ep s (m : EngIn), live s = true → ep ≤ 8 → m = ⟨hdr, chip, []⟩ →
    engAdmit s m false = none → saTier m.sa ≠ 2 →
    Answers (.engRd hdr chip ep) s (homeWork ((cutLines m.sa m.len).foldl (fun u x => homeStart u { kind := .engRd, who := .remote m.chip m.tag, ten := m.ten, prv := m.prv, sa := x.1 }) (engOpen s m true))))
  ∧ (∀ (hdr : BitVec 128) chip ep s (m : EngIn), live s = true → ep ≤ 8 → m = ⟨hdr, chip, []⟩ →
    engAdmit s m false = none → saTier m.sa = 2 →
    Answers (.engRd hdr chip ep) s (homeWork (send s (engMsg s 2 m.chip m.ten m.tag 0 m.len m.prv m.sa ((cutLines m.sa m.len).map fun x => sliceBytes (if x.2.2.1 = 64 then t2Read s m.prv m.ten (saOff x.1) 64 else t2Line s (saOff x.1)) x.2.1 x.2.2.1).flatten))))
  ∧ (∀ (hdr : BitVec 128) chip ep data s (m : EngIn) (qs : List HomeReq), live s = true → ep ≤ 8 →
    m = ⟨hdr, chip, data⟩ → isMirrorWrite s m = false → engAdmit s m true = none → saTier m.sa ≠ 2 →
    qs = (cutLines m.sa m.len).map (fun x => engWrReq m x.1 x.2.1 x.2.2.1 x.2.2.2) →
    qs.length ≤ 1 ∨ qs.filter (fun q => saTier q.sa == 1 && q.mask != fullMask) = [] →
    Answers (.engWr hdr chip ep data) s (homeWork (qs.foldl homeStart (engOpen s m false))))
  ∧ (∀ (hdr : BitVec 128) chip ep data s (m : EngIn) (qs part : List HomeReq), live s = true → ep ≤ 8 →
    m = ⟨hdr, chip, data⟩ → isMirrorWrite s m = false → engAdmit s m true = none → saTier m.sa ≠ 2 →
    qs = (cutLines m.sa m.len).map (fun x => engWrReq m x.1 x.2.1 x.2.2.1 x.2.2.2) →
    part = qs.filter (fun q => saTier q.sa == 1 && q.mask != fullMask) → 1 < qs.length → part ≠ [] →
    Answers (.engWr hdr chip ep data) s (homeWork (part.foldl (fun u q => homeStart u { q with kind := .engRd, data := 0, mask := 0, tally := 0 }) { s with home := { s.home with rem := s.home.rem ++ [{ remOp m false with owed := part.length, hold := qs }] } })))
  ∧ (∀ (hdr : BitVec 128) chip ep data poison s (m : EngIn) (r : RemRead), live s = true → ep ≤ 8 →
    m = ⟨hdr, chip, data⟩ → (s.eng.reads.find? fun x => x.tag == m.tag) = some r →
    ((s.eng.reads.filter (·.tag != m.tag)).find? fun x => x.seq == r.seq && x.sa == r.sa) = none →
    Answers (.engRdata hdr chip ep data poison) s (gotLine { s with eng := { s.eng with reads := s.eng.reads.filter (·.tag != m.tag) } } { kind := .engRd, who := .slot r.seq, ten := m.ten, prv := m.prv, sa := r.sa } (r.acc ||| placeBytes r.off (m.data.take r.len)) poison))
  ∧ (∀ (hdr : BitVec 128) chip ep s (p : Pend), live s = true → ep ≤ 8 → p ∈ s.eng.pend → p.tag = bget hdr ENGH.TAG →
    p.held = false → Answers (.engAck hdr chip ep) s (homeWork (dropPend s p.tag)))
  ∧ (∀ (hdr : BitVec 128) chip ep s (p : Pend) st, live s = true → ep ≤ 8 →
    (s.eng.pend.find? fun x => x.tag == bget hdr ENGH.TAG && !x.held) = some p → st = bget hdr ENGH.TALLY →
    Answers (.engErr hdr chip ep) s (homeWork (dropPend (lostWrite s p st (if st = stRegionLost then 0x0040 else if st = stAccess then 0x0017 else 0)) (bget hdr ENGH.TAG))))
  ∧ (∀ (hdr : BitVec 128) chip ep s (r : RemRead), live s = true → ep ≤ 8 →
    (s.eng.pend.find? fun x => x.tag == bget hdr ENGH.TAG && !x.held) = none →
    (s.eng.reads.find? fun x => x.tag == bget hdr ENGH.TAG) = some r → bget hdr ENGH.TALLY = stRegionLost →
    Answers (.engErr hdr chip ep) s (homeWork (failed { s with eng := { s.eng with reads := s.eng.reads.filter (·.tag != bget hdr ENGH.TAG) } } { kind := .engRd, who := .slot r.seq, ten := bget hdr ENGH.TENANT, prv := btst hdr ENGH.PRIV, sa := r.sa } stRegionLost 0x0041)))
  ∧ (∀ tag s (p : Pend), live s = true → (s.eng.pend.find? fun x => x.tag == tag && !x.held) = some p →
    servedBy s p.sa ≠ own s → fencedChip s (servedBy s p.sa) = true →
    Answers (.postedWriteTimeout tag) s (homeWork (dropPend (lostWrite s p stRegionLost 0x0040) tag)))
  ∧ (∀ tag s (p p' : Pend), live s = true → (s.eng.pend.find? fun x => x.tag == tag && !x.held) = some p →
    servedBy s p.sa ≠ own s → fencedChip s (servedBy s p.sa) = false → servedBy s p.sa ≠ saChip p.sa →
    p' = { p with dst := servedBy s p.sa } →
    Answers (.postedWriteTimeout tag) s (homeWork (send { s with eng := { s.eng with pend := s.eng.pend.map fun x => if x.tag = tag then p' else x } } (pendMsg s p'))))
  ∧ (∀ tag s (p : Pend), live s = true → (s.eng.pend.find? fun x => x.tag == tag && !x.held) = some p →
    servedBy s p.sa ≠ own s → fencedChip s (servedBy s p.sa) = false → servedBy s p.sa = saChip p.sa →
    ((mget s.xlt.extc (p.sa / 2 ^ 30)).any fun r => bget r EXT.RCLASS != 0) = false →
    Answers (.postedWriteTimeout tag) s (homeWork (dropPend (lostWrite s p stRegionLost 0x0040) tag)))
  ∧ (∀ tag s (p : Pend) u (m : EngIn), live s = true → (s.eng.pend.find? fun x => x.tag == tag && !x.held) = some p →
    servedBy s p.sa = own s →
    u = { s with eng := { s.eng with pend := s.eng.pend.map fun x => if x.tag = tag then { p with dst := own s } else x } } →
    m = { hdr := (pendMsg u p).hdr, chip := own u, data := (pendMsg u p).data } → extentStop u p.sa = none →
    redirect u p.sa = .serve →
    Answers (.postedWriteTimeout tag) s (homeWork (homeStart (engOpen u m false) { p.req with who := .remote (own u) tag })))
  ∧ (∀ tag s (m : MirrorWrite), live s = true → (s.store.mirrors.find? fun x => x.tag == tag) = some m →
    Answers (.mirrorWriteTimeout tag) s (degrade s (saTier m.sa) (saExt m.sa) 1))

/-- After R176, R177, R184, R224: allocating a free tally sets OWNER and EN with COUNT 0 and charges the owner; a privileged write of
COUNT sets it and rechecks the waiters; releasing a tally clears EN, returns the charge and ends its waiters with ACCESS. -/
def Obligations.TallyCommands : Prop :=
  (∀ i (v : W64) s o, live s = true → 0 < i → i < 65536 → tallyReserved (maskSet v 9) = false →
    btst (tallyRec s i) TALLY.EN = false → maskBit (maskSet v 9) 9 = true → o = bget (maskSet v 9) ⟨0, 9⟩ →
    getF s TEN_QUOTA_TALLY.USED o < limitQ s TEN_QUOTA_TALLY.LIMIT o 65535 →
    Answers (.tallyAllocate i v) s (chargeQ (setTally s i (bset (bset 0 TALLY.OWNER o) TALLY.EN 1)) TEN_QUOTA_TALLY.USED o true))
  ∧ (∀ i (v : W64) s, live s = true → 0 < i → i < 65536 →
    Answers (.tallyCountWrite i v) s (tallyTouch (setTally s i (bset (tallyRec s i) TALLY.COUNT v.toNat)) i))
  ∧ (∀ i (v : W64) s u, live s = true → 0 < i → i < 65536 → tallyReserved (maskClr v 9) = false →
    btst (tallyRec s i) TALLY.EN = true → bget (maskClr v 9) ⟨0, 9⟩ = bget (tallyRec s i) TALLY.OWNER →
    maskBit (maskClr v 9) 9 = false →
    u = chargeQ (setTally s i (bset (tallyRec s i) TALLY.EN 0)) TEN_QUOTA_TALLY.USED (bget (tallyRec s i) TALLY.OWNER) false →
    Answers (.tallyRelease i v) s (tallyEnd u i stAccess 0x0031))

/-- After R326, R331, R333, R335, R338, R346, R349, R355, R471: a look-up or update of a table in service takes the current version and
pins its slot; once nothing is awaited a look-up writes its output and completes; a PARTIAL joins its look-up, an UPD_ACK
its update; an error exchange ends the descriptor it names; ENG_OPX is put together by exchange. -/
def Obligations.EmbeddingRequestCommands : Prop :=
  (∀ sq sl s, Begins s ocEmbGather sq sl → sl.work = .idle → embOk s sl = true → gatherLenBad s sl = false →
    embVer s (tabOf sl.d) (embCur s (tabOf sl.d)) ≠ 0 → Answers (.embGather sq) s (takeVersion s sl))
  ∧ (∀ sq sl s run idx, live s = true → slotOf s sq = some sl → sl.ph = .running → sl.stop = none →
    heldBack s sq = false → opcode sl.d = ocEmbGather → sl.work = .emb run → sl.err = none → run.out = true →
    run.await_ = [] → embIdxs s sl = some idx → placesCome s sl run (gatherHots s sl run idx) = true →
    Answers (.embGather sq) s (embFinish (storeBytes { s with fresh := s.fresh + 2 ^ 40 } sq 3 0 (gatherOut s sl run idx (gatherHots s sl run idx))) sq stOk 0 (run.repl * 2 ^ 32 + run.shard)))
  ∧ (∀ sq sl s, Begins s ocEmbUpdate sq sl → sl.work = .idle → embOk s sl = true → updLenBad s sl = false →
    updRefused s sl = false → embVer s (tabOf sl.d) (embCur s (tabOf sl.d)) ≠ 0 →
    Answers (.embUpdate sq) s (takeVersion s sl))
  ∧ (∀ sq sl s run idx, live s = true → slotOf s sq = some sl → sl.ph = .running → sl.stop = none →
    heldBack s sq = false → opcode sl.d = ocEmbUpdate → sl.work = .emb run → sl.err = none → run.out = false →
    haveBytes sl 0 0 (opLen sl.d 0) = true → haveBytes sl 1 0 (opLen sl.d 1) = true → embIdxs s sl = some idx →
    Answers (.embUpdate sq) s (updSend s sl run idx))
  ∧ (∀ s n (x : Exch) sl run (e : EmbSent) u r2, live s = true → nextExch s xPartial = some (n, x) →
    answers (dropExch s n) x xLookup = some (sl, run, e) →
    r2 = { run with await_ := run.await_.filter (· != e), parts := run.parts ++ partialSplit (dropExch s n) x } →
    u = modSlot (dropExch s n) sl.seq (fun y => { y with work := .emb r2, err := if x.poison && y.err.isNone then some (stPoison, 0) else y.err }) →
    Answers .partialRsp s (atBoundary u sl.seq fun _ => gatherEnd u sl.seq))
  ∧ (∀ s n (x : Exch) u sl run r2 y, live s = true → nextExch s xUpdAck = some (n, x) → u = dropExch s n →
    ((mvals u.que.slots).find? fun z => opcode z.d == ocEmbUpdate && awaits x z) = some sl → sl.work = .emb run →
    r2 = { run with await_ := run.await_.filter (·.chip != x.chip), applied := run.applied + leNat (x.data.take 4), winto := run.winto || leNat ((x.data.drop 4).take 4) != 0 } →
    y = modSlot u sl.seq (fun z => { z with work := .emb r2 }) → Answers .updAck s (updEnd y sl.seq))
  ∧ (∀ s n (x : Exch) u sl, live s = true → nextExch s xErr = some (n, x) → u = dropExch s n →
    (mvals u.que.slots).find? (awaits x) = some sl →
    Answers .opxErr s (atBoundary u sl.seq fun _ => embFinish u sl.seq (leNat (x.data.take 2)) (leNat ((x.data.drop 2).take 2)) 0))
  ∧ (∀ (hdr : BitVec 128) chip ep data poison s (h : BitVec 128), live s = true → ep ≤ 8 → 16 ≤ data.length →
    h = ofBytes 128 (data.take 16) → xBad s (bget h XCH.KIND) (bget h XCH.OBJ) (bget hdr ENGH.TENANT) = false →
    (s.emb.xin.find? fun e => e.2.chip == chip && e.2.xslot == bget h XCH.XSLOT && e.2.tag == bget hdr ENGH.TAG && e.2.kind == bget h XCH.KIND && !e.2.whole) = none →
    Answers (.engOpx hdr chip ep ⟨data, poison⟩) s (putExch s (xDrain 65536 { chip := chip, ten := bget hdr ENGH.TENANT, xslot := bget h XCH.XSLOT, tag := bget hdr ENGH.TAG, kind := bget h XCH.KIND, obj := bget h XCH.OBJ, ver := bget h XCH.VER, param := bget h XCH.PARAM, ahead := mput [] (bget h XCH.MSGNO) (if btst h XCH.EMPTY then [] else data.drop 16, btst h XCH.LAST), poison := poison })))

/-- After R334, R335, R347, R349 to R351: an owner answers a LOOKUP once its rows are read, applies an UPDATE in the window of its
key, records an UPD_END and closes the window when every member has ended, or when its time is up. -/
def Obligations.EmbeddingOwnerCommands : Prop :=
  (∀ s n (x y : Exch) u (b : Bool) ps, live s = true → nextExch s xLookup = some (n, x) → ownerRefuses s x = none →
    embSlot s x.obj x.ver = some b → ps = (lookupRecs x).map (·.1) →
    u = ps.foldl (fun u p => xAsk u n x.ten (embBase u x.obj b + p * embTS u x.obj) (embTS u x.obj)) s →
    mget u.emb.xin n = some y →
    ps.all (fun p => xHave y (embBase u x.obj b + p * embTS u x.obj) (embTS u x.obj)) = true → y.err = none →
    ∃ v, v = ps.eraseDups.foldl (fun v p => bump v 0x0701 1 { ten := some y.ten, sa := some (embBase v x.obj b + p * embTS v x.obj) }) u ∧ Answers .lookup s (sendExch (dropExch (sketchAll { v with fresh := v.fresh + 2 ^ 40 } x.obj (ps.map (rowAt v x.obj (myPos v x.obj)))) n) y.chip y.ten y.xslot y.tag xPartial x.obj y.ver y.param (partialRecs v y b) y.poison))
  ∧ (∀ s n (x : Exch) (b : Bool), live s = true → nextUpd s = some (n, x) → mget s.emb.xin n = some x →
    x.wrote = false → x.param = 1 → ownerRefuses s x = none → embSlot s x.obj x.ver = some b →
    winClosed s x.obj (winKey x) = false →
    Answers .update s (updApply (modWin (openWin s x.obj (winKey x)) x.obj (winKey x) fun w => modPart w x id) n x b))
  ∧ (∀ s n (x : Exch), live s = true → nextUpd s = some (n, x) → x.wrote = true → x.owed = 0 → x.err = none →
    Answers .update s (winCheck (dropExch s n) x.obj (winKey x)))
  ∧ (∀ s n (x : Exch) e, live s = true → nextUpd s = some (n, x) → x.wrote = true → x.owed = 0 → x.err = some e →
    Answers .update s (updRefuse (sendErr (dropExch s n) x e.1 e.2) x))
  ∧ (∀ s n (x : Exch), live s = true → nextExch s xUpdEnd = some (n, x) → embHeld (dropExch s n) x.obj x.ten = true →
    winClosed (dropExch s n) x.obj (winKey x) = false →
    Answers .updEnd s (winCheck (modWin (openWin (dropExch s n) x.obj (winKey x)) x.obj (winKey x) fun w => modPart w x fun p => { p with sent := some (leNat ((x.data.drop 8).take 4)), tag := x.tag }) x.obj (winKey x)))
  ∧ (∀ t i s (w : EmbWin), live s = true → (embTab s t).wins[i]? = some w →
    Answers (.updateWindowTimeout t i) s (closeWin (satF (setEvt s EMB_EVT.WINTO) TEN_EMBSTAT.WINTO (etab (setEvt s EMB_EVT.WINTO) t ETAB.OWNER)) t w true))

/-- After R325, R327, R342 to R344, R352 to R354: a table that R325 admits becomes active with its private fields zero; an idle one is
taken out of service; LOAD sets the shard and version of the slot that is not current, SWITCH makes it current, PIN and
UNPIN set the pinned rows; REFRESH gathers the hot rows, and pushes of the others end it. -/
def Obligations.EmbeddingTableCommands : Prop :=
  (∀ t s u, s.pwr.fast = true → s.hst.only = false → t < 4096 → embRefuse s t = 0 → etab s t ETAB.ACTIVE = 0 →
    etab s t ETAB.HOTMAX = 0 → (embTab s t).sketch = false → u = embCount s EMB_TSTAT.ACTIVE true →
    etab u t ETAB.HOTMAX = 0 → (embTab u t).sketch = false →
    Answers (.embActivate t) s ([(ETAB.ACTIVE, 1), (ETAB.CURSEL, 0), (ETAB.VERA, 0), (ETAB.BASEA, 0), (ETAB.PINSA, 0), (ETAB.VERB, 0), (ETAB.BASEB, 0), (ETAB.PINSB, 0), (ETAB.HOTGEN, 0)].foldl (fun y e => setEtab y t e.1 e.2) (setEmbTab u t {})))
  ∧ (∀ t s, s.pwr.fast = true → s.hst.only = false → t < 4096 → etab s t ETAB.PINSA = 0 → etab s t ETAB.PINSB = 0 →
    (embTab s t).wins = [] → refreshing s t = false → etab s t ETAB.ACTIVE = 1 → (embTab s t).sketch = false →
    (embTab (embCount s EMB_TSTAT.ACTIVE false) t).sketch = false →
    Answers (.embDeactivate t) s (setEtab (setEmbTab (embCount s EMB_TSTAT.ACTIVE false) t {}) t ETAB.ACTIVE 0))
  ∧ (∀ sq sl s t (b : Bool) u, Begins s ocEmbSwitch sq sl → subOp sl.d = 0 → embOk s sl = true → t = tabOf sl.d →
    b = !embCur s t → loadBad s sl t = false → etab s t (embPins b) = 0 →
    u = setEtab s t (if b then ETAB.BASEB else ETAB.BASEA) ((saAt (extsOf sl 0) 0).getD 0) →
    Answers (.embLoad sq) s (finish (setEtab u t (if b then ETAB.VERB else ETAB.VERA) (swVersion sl.d)) sq stOk 0 0))
  ∧ (∀ sq sl s t (b : Bool) u y, Begins s ocEmbSwitch sq sl → subOp sl.d = 1 → embOk s sl = true → t = tabOf sl.d →
    b = !embCur s t → embVer s t b = swVersion sl.d → u = setEtab s t ETAB.CURSEL (if b then 1 else 0) →
    y = setEtab u t ETAB.SWTIME u.tim.now.toNat →
    Answers (.embSwitch sq) s (finish (setEtab y t ETAB.HOTGEN (etab y t ETAB.HOTGEN + 1)) sq stOk 0 (embVer (setEtab y t ETAB.HOTGEN (etab y t ETAB.HOTGEN + 1)) t b)))
  ∧ (∀ sq sl s t (l : List Nat), Begins s ocEmbSwitch sq sl → subOp sl.d = 3 → embOk s sl = true → t = tabOf sl.d →
    sl.err = none → haveBytes sl 0 0 (opLen sl.d 0) = true → pinList s sl = some l →
    ((l.filter fun r => (embOwner s t r).1 == myPos s t).eraseDups).length ≤ embH s t →
    ∃ kept, kept = (l.filter fun r => (embOwner s t r).1 == myPos s t).eraseDups ∧ Answers (.embPin sq) s (finish (modEmbTab s t fun x => { x with pinned := kept }) sq stOk 0 kept.length))
  ∧ (∀ sq sl s, Begins s ocEmbSwitch sq sl → subOp sl.d = 4 → embOk s sl = true →
    Answers (.embUnpin sq) s (finish (modEmbTab s (tabOf sl.d) fun x => { x with pinned := [] }) sq stOk 0 0))
  ∧ (∀ sq sl s t u x, Begins s ocEmbSwitch sq sl → subOp sl.d = 2 → sl.work = .idle → embOk s sl = true →
    t = tabOf sl.d → embVer s t (embCur s t) ≠ 0 → (embTab s t).refresh = none →
    u = modEmbTab s t (fun y => { y with hot := hotSet (embH s t) y, cnt := [], cand := [], refresh := some sq }) →
    (embTab u t).hot = [] → slotOf u sq = some x → Answers (.embRefresh sq) s (pushAll u x t))
  ∧ (∀ s n (x : Exch), live s = true → nextExch s xPush (fun y => !bufferHeld s y.obj) = some (n, x) →
    Answers .push s (pushTake s n x))
  ∧ (∀ t s, live s = true → bufferHeld s t = false →
    Answers (.hotBufferPushRelease t) s (refreshCheck ((s.emb.xin.filter fun e => e.2.kind == xPush && e.2.whole && e.2.obj == t).foldl (fun u e => pushTake u e.1 e.2) s) t))
  ∧ (∀ s n (x : Exch), live s = true → nextExch s xPushEnd = some (n, x) →
    ∃ p, p = posOf s x.obj x.chip ∧ Answers .pushEnd s (pushEnded (modEmbTab (dropExch s n) x.obj fun y => { y with due := mput y.due p (leNat (x.data.take 4)) }) x.obj p x.chip))

/-- After R362, R363, R365, R367 to R370: ACTIVATE sets the geometry with SEQ and NEXTSLOT zero, ADOPT keeps them; a collection
without scans and mutations is deactivated; a mutation whose turn it is starts and goes on as its writes are performed, and
at its end SEQ (and NEXTSLOT) advance with the completion. -/
def Obligations.CollectionCommands : Prop :=
  (∀ c s u, s.pwr.fast = true → s.hst.only = false → c < 4096 → vscRefuse s c = 0 → coll s c VCOLL.ACTIVE ≠ 1 →
    u = setF s VSC_CSTAT.ACTIVE 0 (getF s VSC_CSTAT.ACTIVE + 1) →
    Answers (.vscActivate c) s (setColl (setColl (setColl (setGeometry u c) c VCOLL.SEQ 0) c VCOLL.NEXTSLOT 0) c VCOLL.ACTIVE 1))
  ∧ (∀ c s u, s.pwr.fast = true → s.hst.only = false → c < 4096 → vscRefuse s c = 0 → coll s c VCOLL.ACTIVE ≠ 1 →
    u = setF s VSC_CSTAT.ACTIVE 0 (getF s VSC_CSTAT.ACTIVE + 1) →
    Answers (.vscAdopt c) s (setColl (setGeometry u c) c VCOLL.ACTIVE 1))
  ∧ (∀ c s, s.pwr.fast = true → s.hst.only = false → c < 4096 → coll s c VCOLL.SCANS = 0 →
    (mvals s.que.slots).any (mutOf c) = false → coll s c VCOLL.ACTIVE = 1 →
    Answers (.vscDeactivate c) s (setColl (setF s VSC_CSTAT.ACTIVE 0 (getF s VSC_CSTAT.ACTIVE - 1)) c VCOLL.ACTIVE 0))
  ∧ (∀ sq sl s, Begins s ocVinsert sq sl → sl.work = .idle → mutTurn s sl = true → collOk s sl = true →
    vscCheck s sl.d = 0 → hardErr sl = none → Answers (.vinsert sq) s (insertStart s sl))
  ∧ (∀ sq sl s k, live s = true → slotOf s sq = some sl → sl.ph = .running → sl.work = .vwrite k →
    opcode sl.d = ocVinsert → sl.owed = 0 → heldBack s sq = false → sl.stop = none → sl.err = none →
    Answers (.vinsert sq) s (insertNext s k sl))
  ∧ (∀ sq sl s, Begins s ocVdelete sq sl → sl.work = .idle → mutTurn s sl = true → collOk s sl = true →
    vscCheck s sl.d = 0 → hardErr sl = none → Answers (.vdelete sq) s (deleteStart s sl))
  ∧ (∀ sq sl s k, live s = true → slotOf s sq = some sl → sl.ph = .running → sl.work = .vwrite k →
    opcode sl.d = ocVdelete → sl.owed = 0 → heldBack s sq = false → sl.stop = none → sl.err = none →
    Answers (.vdelete sq) s (finish (setColl s (collOf sl.d) VCOLL.SEQ (mutSeq s sl)) sq stOk 0 (mutSeq s sl)))

/-- After R374, R378, R379, R381, R384, R493, R545: a VSCAN or VRERANK whose queries have come starts on its engines or on an array; an
engine scores the next block of its channel; woken engines join their scans; a failed engine or channel leaves them. -/
def Obligations.ScanCommands : Prop :=
  (∀ sq sl s r u x, Begins s ocVscan sq sl → s.arr.waiting.contains sq = false → vscCheck s sl.d = 0 →
    hardErr sl = none → sl.work = .scan r → u = askAll s sq [0] → slotOf u sq = some x → haveAll x [0] = true →
    coll u (collOf x.d) VCOLL.TIER = 1 → Answers (.vscan sq) s (farStart u x r))
  ∧ (∀ sq sl s r u x, Begins s ocVscan sq sl → s.arr.waiting.contains sq = false → vscCheck s sl.d = 0 →
    hardErr sl = none → sl.work = .scan r → u = askAll s sq [0] → slotOf u sq = some x → haveAll x [0] = true →
    coll u (collOf x.d) VCOLL.TIER ≠ 1 → r.m ≠ 0 →
    Answers (.vscan sq) s (kernelStart u x (.scan { r with tot := mput [] 64 (ceilDiv r.m 1024) })))
  ∧ (∀ sq sl s r u x, Begins s ocVrerank sq sl → s.arr.waiting.contains sq = false → vscCheck s sl.d = 0 →
    hardErr sl = none → sl.work = .scan r → u = askAll s sq [0, 1] → slotOf u sq = some x → haveAll x [0, 1] = true →
    Answers (.vrerank sq) s (kernelStart u x (.scan { r with tot := mput [] 64 (vecCount u x.d) })))
  ∧ (∀ sq ch uncorr (red : Option (BitVec 32768)) sl s r, live s = true → slotOf s sq = some sl → sl.work = .scan r →
    farScan s sl = true → scanTurn s sl = true → engineShare s sl = true → engineUp s ch = true →
    plumbBusy s sq = false → chanDone r ch = false → mgetD 0 r.pos ch % coll s (collOf sl.d) VCOLL.G ≠ 0 →
    Answers (.scanBlockRead sq ch uncorr red) s (scanGoOn (scanBlock s sl r ch uncorr red).2 sl (scanBlock s sl r ch uncorr red).1))
  ∧ (∀ ch s, live s = true →
    ∃ sqs, sqs = ((mvals s.que.slots).filter fun x => farScan s x && (scanEngines s (collOf x.d)).contains ch && !s.vsc.up.contains (ch, x.seq)).map (·.seq) ∧ Answers (.planeEngineWakeDone ch) s { s with vsc := { s.vsc with up := s.vsc.up ++ sqs.map fun q => (ch, q) } })
  ∧ (∀ ch s, live s = true → ch < 64 → (regGet s .VSC_PESTAT 0).getLsbD ch = false →
    Answers (.planeEngineFail ch false) s (scanSweep (report (scanLose s ch) 0x09 ch 0 0)))
  ∧ (∀ ch s, live s = true → ch < 64 → (regGet s .VSC_PESTAT 0).getLsbD ch = false →
    Answers (.planeEngineFail ch true) s (scanSweep (lyFails (channelFail s ch))))
  ∧ (∀ ch s, live s = true → ch < 64 →
    Answers (.flashChannelUnresponsive ch) s (scanSweep (lyFails (channelFail s ch))))
  ∧ (∀ ch s u, live s = true → ch < 64 →
    u = { s with store := { s.store with sledRetired := mput s.store.sledRetired (ch / 16) (mgetD 0 s.store.sledRetired (ch / 16) + 1) } } →
    ∃ y x, y = ledger (satF u TIER_WEAR.RETIRED (ch / 16)) 0x0506 1 none [ch] ∧ x ≤ getF y TIER_WEAR.SPARE (ch / 16) ∧ Answers (.eraseBlockFail ch false) s (setF { y with fresh := y.fresh + 1 } TIER_WEAR.SPARE (ch / 16) x))

/-- After R423, R425 to R427, R431: the parent port's exchange sends TIME_REQ, a port answers one with TIME_RSP, and the reply awaited
gives the offset; a holdover that lasts too long is LOST; an external reference sets the epoch once, then steers the rate. -/
def Obligations.TimeCommands : Prop :=
  (∀ s p, live s = true → tstF s TIM_CFG.EN = true → p = getF s TIM_SYNC.PORT → s.tim.out = none → s.tim.miss < 8 →
    p < 12 → portUp s p = true →
    Answers .timeExchangeStart s (portSend { s with tim := { s.tim with xid := (s.tim.xid + 1) % 65536, out := some (s.tim.xid, s.tim.now) } } p (ctlHdr ctTimeReq [(⟨104, 16⟩, s.tim.xid)]) []))
  ∧ (∀ p xid s, live s = true → tstF s TIM_CFG.EN = true → portUp s p = true →
    isEdge s p = false ∨ tstF s TIM_CFG.EDGESYNC = true →
    Answers (.timeReq p xid) s (portSend s p (ctlHdr ctTimeRsp [(⟨104, 16⟩, xid), (⟨94, 10⟩, getF s TIM_SYNC.GM), (⟨90, 4⟩, getF s TIM_SYNC.DEPTH), (⟨0, 64⟩, s.tim.now.toNat)]) (leBytes 8 s.tim.now.toNat ++ leBytes 8 (getF s TIM_EPOCH.EPOCH))))
  ∧ (∀ p (w0 w1 : BitVec 128) s x (t1 : W64) u y, live s = true → s.tim.out = some (x, t1) →
    p = getF s TIM_SYNC.PORT → bget w0 ⟨104, 16⟩ = x → u = { s with tim := { s.tim with out := none, miss := 0 } } →
    y = setF (regSet u .TIM_EPOCH 0 (w1.extractLsb' 64 64)) TIM_SYNC.DEPTH 0 (min 15 (bget w0 ⟨90, 4⟩ + 1)) →
    Answers (.timeRsp p w0 w1) s (exchanged y t1 (w0.extractLsb' 0 64) (w1.extractLsb' 0 64) s.tim.now))
  ∧ (∀ s, live s = true → timSt s = tsHoldover → Answers .holdoverLimit s (enterLost s))
  ∧ (∀ ref locked s, live s = true → eligible s = true → getF s TIM_SYNC.GM = own s → s.tim.known = true →
    tstF s TIM_CFG.EXTREF = true → locked = true → s.tim.refOff = false → getF s TIM_EPOCH.EPOCH = 0 →
    Answers (.ptpReferenceMessage ref locked) s (regSet s .TIM_EPOCH 0 (ref - BitVec.ofNat 64 (s.tim.now.toNat / 256))))
  ∧ (∀ ref locked s, live s = true → eligible s = true → getF s TIM_SYNC.GM = own s → s.tim.known = true →
    tstF s TIM_CFG.EXTREF = true → locked = true → s.tim.refOff = false → getF s TIM_EPOCH.EPOCH ≠ 0 →
    (ref - (regGet s .TIM_EPOCH 0 + BitVec.ofNat 64 (s.tim.now.toNat / 256))).toInt.natAbs ≤ 1000000 →
    Answers (.ptpReferenceMessage ref locked) s (freeRate s 10 1000000))

/-- After R449, R451 to R453, R455, R457, R467, R468: a port in service sends the flit asked again or its next one; a flit in sequence
with good CRC, CNT and tag is accepted, one with bad CRC is rejected; NAK is renewed each microsecond; RETRAIN ends in
replay or DOWN; heartbeats are sent, taken and missed. -/
def Obligations.LinkCommands : Prop :=
  (∀ p s, s.pwr.fast = true → p < 12 → portSt s p = psActive → (portOf s p).replay = none →
    (portOf s p).buf.length < 512 → Answers (.flitTransmit p) s (newFlit s p))
  ∧ (∀ p q s, s.pwr.fast = true → p < 12 → portSt s p = psActive → (portOf s p).replay = some q →
    Answers (.flitTransmit p) s (resendFlit s p q))
  ∧ (∀ p (hdr : BitVec 128) msgs cnt tagOk stomp s, s.pwr.fast = true → p < 12 → portSt s p = psActive →
    bget hdr FLIT.SEQ = (portOf s p).rxSeq → (portOf s p).rxNew = false → bget hdr FLIT.KEYSEL = (portOf s p).rxSel →
    cnt = (portOf s p).rxCnt → tagOk = true →
    Answers (.flitReceive p hdr msgs cnt true tagOk stomp false) s (acceptFlit s p hdr msgs stomp false))
  ∧ (∀ p (hdr : BitVec 128) msgs cnt tagOk stomp s, s.pwr.fast = true → p < 12 → portSt s p = psActive →
    Answers (.flitReceive p hdr msgs cnt false tagOk stomp false) s (rejectFlit (satF s LNK_ERRFLIT.CRC p) p))
  ∧ (∀ p s, s.pwr.fast = true → p < 12 → (portOf s p).discard = true →
    Answers (.nakResendTimer p) s (modPort s p fun x => { x with nak := true, nakHeld := false }))
  ∧ (∀ p s, live s = true → p < 12 → portSt s p = psRetrain → (portOf s p).hbHeld = false →
    Answers (.retrainDone p) s (modPort (setPortSt s p psActive) p fun x => { x with replay := if x.buf.isEmpty then none else some (ackBase x), nak := false, nakHeld := false, discard := false, hbHeld := false }))
  ∧ (∀ p s, live s = true → p < 12 → portSt s p = psRetrain → Answers (.retrainTimeout p) s (portDown s p 3))
  ∧ (∀ p (hdr : BitVec 128) s, live s = true → p < 12 → portUp s p = true → bget hdr HB.HEALTH ≠ 2 →
    tstF s TIM_CFG.EN = false →
    Answers (.heartbeat p hdr) s (setF (setF (modPort s p fun x => { x with hb := hdr, hbGot := true }) LNK_HB.RXSEQ p (bget hdr HB.HBSEQ)) LNK_HB.MISSES p 0))
  ∧ (∀ p s, live s = true → p < 12 → portSt s p = psActive →
    ∃ health, health < 2 ∧ Answers (.heartbeatSend p) s (sendHeartbeat { s with fresh := s.fresh + 1 } p health))
  ∧ (∀ p s, live s = true → p < 12 → portUp s p = true → (portOf s p).hbGot = true →
    Answers (.heartbeatWindowEnd p) s (modPort s p fun x => { x with hbGot := false }))
  ∧ (∀ p s n, live s = true → p < 12 → portUp s p = true → (portOf s p).hbGot = false →
    n = getF s LNK_HB.MISSES p + 1 →
    Answers (.heartbeatWindowEnd p) s (if 3 ≤ n then portDown (setF s LNK_HB.MISSES p n) p 0 else setF s LNK_HB.MISSES p n))

/-- R442 to R444, R450, R534 to R536: enabling a port starts DETECT; training goes through its stages to PARAM and SECURE; a limit
that expires counts a failure; the exchange's bodies are checked and the keys installed; a seed whose FSID was shown enters
the vault. What certificates, encapsulations and signatures prove is an implementation's (Config). -/
def Obligations.TrainingCommands : Prop :=
  (∀ p (v : W64) s u, s.pwr.fast = true → s.hst.only = false → p < 12 → tstF s SEC_BOOT.SEALED = true →
    tstF s LNK_CFG.EN p = false → btst v LNK_CFG.EN.bf = true → u = setF s LNK_CFG.EN p 1 →
    (isPeer u p || isEdge u p) = true → slotTaken u p = false →
    Answers (.portEnable p v) s (setPortSt (setPort u p { keyNo := (portOf u p).keyNo }) p psDetect))
  ∧ (∀ p (v : W64) s u, s.pwr.fast = true → s.hst.only = false → p < 12 → tstF s SEC_BOOT.SEALED = true →
    btst v LNK_CFG.EN.bf = false → u = setF s LNK_CFG.EN p 0 →
    Answers (.portEnable p v) s (setPortSt (setPort u p { keyNo := (portOf u p).keyNo }) p psDisabled))
  ∧ (∀ p s, live s = true → p < 12 → portSt s p = psDetect → Answers (.detectPoll p true) s (setPortSt s p psPhy))
  ∧ (∀ p s, live s = true → p < 12 → portSt s p = psPhy → Answers (.portTrainingStageDone p) s (setPortSt s p psFec))
  ∧ (∀ p s, live s = true → p < 12 → portSt s p = psFec →
    Answers (.portTrainingStageDone p) s (sendParam (setPortSt s p psParam) p))
  ∧ (∀ p s, live s = true → p < 12 → psPhy ≤ portSt s p → portSt s p ≤ psSecure →
    Answers (.trainingLimitExpire p) s (trainFail s p))
  ∧ (∀ p (w0 w1 : BitVec 128) s u, live s = true → p < 12 → portSt s p = psParam → isPeer s p = true →
    isEdge s p = false → bget w0 ⟨112, 8⟩ = 1 → bget w0 ⟨110, 2⟩ = 1 → bget w0 ⟨100, 10⟩ ≠ own s →
    [0, 1, 2, 3, 4, 5].all (fun i => decide (22 ≤ bget w1 ⟨16 * i, 16⟩)) = true →
    u = setF (setF s LNK_STAT.PEER p (bget w0 ⟨100, 10⟩)) LNK_STAT.NRANK p (bget w0 ⟨76, 16⟩) →
    Answers (.param p w0 w1) s (secStart (setPortSt (modPort u p fun x => { x with adv := (List.range 6).foldl (fun m i => mputD 0 m i (bget w1 ⟨16 * i, 16⟩)) [] }) p psSecure) p))
  ∧ (∀ p (body : List Byte) s u, live s = true → secOpen s p = true →
    u = (if (mget (portOf s p).sent secHello).isSome then s else secStart s p) →
    Answers (.hello p body) s (if !Config.chainOk body || leNat (body.take 4) != body.length || decide (body.length < 1278) then secFail u p else sendEncap (modPort u p fun x => { x with got := mput x.got secHello body }) p))
  ∧ (∀ p (body : List Byte) s, live s = true → secOpen s p = true → (mget (portOf s p).got secHello).isSome = true →
    body.length = 1092 →
    Answers (.encap p body) s (if Config.encapOk body then sendFinish (modPort s p fun x => { x with got := mput x.got secEncap body }) p else secFail s p))
  ∧ (∀ p (body : List Byte) s h e, live s = true → secOpen s p = true → portSt s p = psSecure → isPeer s p = false →
    mget (portOf s p).got secHello = some h → mget (portOf s p).got secEncap = some e → body.length = 3313 →
    Answers (.linkFinish p body) s (if Config.finishOk body ([h, e] ++ (portOf s p).sent.map (·.2)) then offerSeed (modPort (portActive s p) p fun x => { x with sent := [], frag := [] }) p (helloFsid h) else secFail s p))
  ∧ (∀ p s, live s = true → p < 12 → portSt s p = psActive → tstF s LNK_KEYCFG.NEWKEY p = false →
    Answers (.rekeyInterval p) s (secStart s p))
  ∧ (∀ p (fsid : W64) (seed : List Byte) s h, live s = true → p < 12 → portSt s p = psActive → isPeer s p = true →
    tstF s SEC_BOOT.VAULT = false → mget (portOf s p).got secHello = some h → helloFsid h = fsid.toNat → fsid ≠ 0 →
    Answers (.seedxfer p fsid seed) s (if Config.fsidOf seed = fsid then takeSeed s fsid else s))

/-- After R475, R478, R479, R498: after the wait a neighbour whose ports are lost is declared dead; a FENCE fences the chip or agent it
names, and a FENCE that names this chip makes it fence itself; unacknowledged reports are sent again, oldest first. -/
def Obligations.FenceCommands : Prop :=
  (∀ chip s u, live s = true → chip ∈ s.lnk.dying →
    u = { s with lnk := { s.lnk with dying := s.lnk.dying.filter (· != chip) } } → fencedChip u chip = false →
    Answers (.deathDeclareWait chip) s (declare_ u 1 chip))
  ∧ (∀ subj fr tm s, live s = true → fencedChip s fr = false → subj ≠ own s → fencedChip s subj = false →
    Answers (.fence 1 subj fr tm) s (fenceChip s subj tm fr))
  ∧ (∀ ag fr tm s, live s = true → fencedChip s fr = false → ag ∉ s.home.dead →
    Answers (.fence 0 ag fr tm) s (setEvt (ledger (agentDead s ag) 0x0C01 3 none [ag, 0]) RED_EVT.FENCE))
  ∧ (∀ fr tm s, live s = true → fencedChip s fr = false → Answers (.fence 1 (own s) fr tm) s (selfFence s))
  ∧ (∀ s n, s.pwr.fast = true → s.hst.only = false → n = getF s RED_RPTSTAT.UNACK →
    Answers .reportResend s ((List.range n).foldl (fun u i => match mget u.red.reports ((getF s RED_RPTSTAT.NEXTSEQ + 2 ^ 32 - n + i) % 256) with | some r => sendReport u r | none => u) s))

/-- After R492, R500, R537, R604: an authentic order with a rising OSEQ is carried out and advances SEC_OSEQ: ACK acknowledges reports,
REBUILD gives the target extent its record and the source its new partner, REBUILD_STOP ends it, LEDGER_READ sends records;
a finished copy makes the extent NORMAL. Any other order is discarded with its record. -/
def Obligations.OrderCommands : Prop :=
  (∀ oseq (sq : Nat) s u n, s.pwr.fast = true → s.hst.only = false → getF s SEC_OSEQ.OSEQ < oseq →
    u = setF s SEC_OSEQ.OSEQ 0 oseq → n = (getF u RED_RPTSTAT.NEXTSEQ + 2 ^ 32 - (sq + 1)) % 2 ^ 32 →
    n < getF u RED_RPTSTAT.UNACK → Answers (.ack oseq true sq) s (setF u RED_RPTSTAT.UNACK 0 n))
  ∧ (∀ oseq ok (sq : Nat) s, s.pwr.fast = true → s.hst.only = false → ok = false ∨ oseq ≤ getF s SEC_OSEQ.OSEQ →
    Answers (.ack oseq ok sq) s (setEvt (ledger s 0x0D01 1 none [oseq]) SEC_EVT.ORDER))
  ∧ (∀ oseq src dst (r : BitVec 128) s u y, live s = true → getF s SEC_OSEQ.OSEQ < oseq →
    u = setF s SEC_OSEQ.OSEQ 0 oseq → u.red.rebuild = none → saChip dst = own u → saChip src ≠ own u →
    saTier dst ≤ 1 → populated u (saTier dst) (saExt dst) = true →
    btst (extRec u (saTier dst) (saExt dst)) EXT.VALID = false → btst r EXT.SYS = true →
    y = setExt u (saTier dst) (saExt dst) (rebuildRec src r) →
    Answers (.rebuild oseq true src dst r) s { y with red := { y.red with rebuild := some (src, dst, true) } })
  ∧ (∀ oseq src dst (r : BitVec 128) s u y x, live s = true → getF s SEC_OSEQ.OSEQ < oseq →
    u = setF s SEC_OSEQ.OSEQ 0 oseq → u.red.rebuild = none → saChip dst ≠ own u → saChip src = own u →
    x = extRec u (saTier src) (saExt src) → btst x EXT.VALID = true → fencedChip u (saChip dst) = false →
    bget x EXT.RCLASS = 1 →
    y = setExt u (saTier src) (saExt src) (bset (bset (bset (bset (bset x EXT.ROLE 0) EXT.PCHIP (saChip dst)) EXT.PEXT (saExt dst)) EXT.PTIER (saTier dst)) EXT.STATE exRebuilding) →
    Answers (.rebuild oseq true src dst r) s (emit (memPull { y with red := { y.red with rebuild := some (src, dst, false) } } src (2 ^ 24)) (.copyExtent src dst)))
  ∧ (∀ src dst s u, live s = true → s.red.rebuild = some (src, dst, false) →
    u = wardCopy (setExtState s (saTier src) (saExt src) exNormal) (saTier src) (saExt src) →
    Answers (.rebuildCopyDone []) s (report (setEvt { u with red := { u.red with rebuild := none } } RED_EVT.REBUILD) 0x06 0 src dst))
  ∧ (∀ oseq src dst s u, live s = true → getF s SEC_OSEQ.OSEQ < oseq →
    u = { setF s SEC_OSEQ.OSEQ 0 oseq with red := { s.red with rebuild := none } } →
    s.red.rebuild = some (src, dst, false) →
    Answers (.rebuildStop oseq true dst) s (setEvt (setExtState u (saTier src) (saExt src) exDegraded) RED_EVT.REBUILD))
  ∧ (∀ oseq first count s u, s.pwr.fast = true → s.hst.only = false → getF s SEC_OSEQ.OSEQ < oseq → 1 ≤ count →
    count ≤ 1024 → u = setF s SEC_OSEQ.OSEQ 0 oseq →
    Answers (.ledgerRead oseq true first count) s (ledgerSend u ((List.range count).filterMap fun i => match mget s.obs.lring ((first + i + 16383) % 16384) with | some r => if bget r LDGR.SEQ = first + i then some r else none | none => none)))

/-- R501 to R507: a CUT with a rising CUTID and a valid area freezes the chip and recalls what agents own; once nothing is owned
the freeze ends and the protected pages drain one by one; when all are drained the cut is sealed; a hold too long abandons
it; writes that wait for reserve pages proceed when there is room. -/
def Obligations.CutCommands : Prop :=
  (∀ sq sl s n u, Begins s ocCut sq sl → s.red.cut = none → getF s RED_CUTSEAL.CUTID < cutId sl.d →
    cutAreaOk s = true → n = (match s.red.newest with | some k => 1 - k | none => 0) →
    u = setF (setF (setF (modSlot s sq fun x => { x with ph := .running, work := .await sq }) RED_CUTSTAT.STATE 0 csFreeze) RED_CUTSTAT.SLOT 0 n) RED_CUTSTAT.HOLDMS 0 0 →
    Answers (.cut sq) s (recallAll { u with red := { u.red with freeze := true, cut := some { sq := sq, id := cutId sl.d, stepb := cutStep sl.d, slot := n, t0 := s.tim.now } } }))
  ∧ (∀ s (c : CutRun), live s = true → s.red.cut = some c → c.frozen = true → recallLines s = [] →
    Answers .cutFreezeEnd s (freezeEnd s c))
  ∧ (∀ s (c : CutRun), live s = true → s.red.cut = some c → c.frozen = true → recallLines s ≠ [] →
    Answers .cutFreezeEnd s (recallAll s))
  ∧ (∀ s (c : CutRun) k sa (l : List NearLine) u, live s = true → s.red.cut = some c → c.frozen = false →
    nextNear c = some k → k < 2 ^ 36 →
    (mget c.held k).isSome = true ∨ (c.pull ≠ some (4096 * k) ∧ ownedIn s (mkSa (own s) 0 (4096 * k)) 64 = []) →
    l = mgetD (nearPage s k) c.held k → sa = mkSa (own s) 0 (4096 * k) →
    u = setCutSlot s c.slot { mgetD {} s.red.slots c.slot with near := mput (mgetD {} s.red.slots c.slot).near k l, index := mput (mgetD {} s.red.slots c.slot).index (sa / 4096) (pageCrc sa (linesBytes l)) } →
    Answers .cutPageDrain s { u with red := { u.red with cut := some { c with held := mdel c.held k, gone := insRising c.gone k, bytes := c.bytes + 4096 } } })
  ∧ (∀ s (c : CutRun) k sa, live s = true → s.red.cut = some c → c.frozen = false → nextNear c = some k → k < 2 ^ 36 →
    (mget c.held k).isSome = false → c.pull ≠ some (4096 * k) → sa = mkSa (own s) 0 (4096 * k) →
    ownedIn s sa 64 ≠ [] →
    Answers .cutPageDrain s (memPull { s with red := { s.red with cut := some { c with pull := some (4096 * k) } } } sa 64))
  ∧ (∀ s (c : CutRun) u, live s = true → s.red.cut = some c → c.waiting ≠ [] → reserveRoom s = true →
    u = { s with red := { s.red with cut := some { c with waiting := [], since := none, hold := cutHeld s c } } } →
    ∃ y, y = c.waiting.foldl resumeReq u ∧ Answers .cutReservePageFree s (match y.red.cut with | some x => setF y RED_CUTSTAT.HOLDMS 0 (msOf (cutHeld y x)) | none => y))
  ∧ (∀ s (c : CutRun) u y, live s = true → s.red.cut = some c → c.frozen = false → nextNear c = none →
    c.stg.all c.stgGone.contains = true →
    u = setCutSlot s c.slot { mgetD {} s.red.slots c.slot with sealed := true } →
    y = regSet (setF (cutRelease { u with red := { u.red with newest := some c.slot } } c) RED_CUTSTAT.STATE 0 csSealed) .RED_CUTSEAL 0 (BitVec.ofNat 64 c.id) →
    Answers .cutDrainEnd s (report (setEvt (if c.stepb then finish y c.sq stOk 0 c.id else y) RED_EVT.CUT) 0x0D 0 c.id c.bytes))
  ∧ (∀ s (c : CutRun), live s = true → s.red.cut = some c → Answers .cutHoldLimit s (cutAbandon s c))

/-- R592 to R595, R601, R602, R604: NOW dumps at once, a due dump is written when frame time reaches it; the oldest sample goes to
its ring where it has room; the next queued record gets its SEQ and its ring place; a window's suppressed counts are
recorded; the stream goes out 16 records to a datagram. -/
def Obligations.CounterCommands : Prop :=
  (∀ (v : W64) s, s.pwr.fast = true → s.hst.only = false → btst v CNT_DUMPCTL.NOW.bf = true →
    btst v CNT_DUMPCTL.MODE.bf = false →
    ∃ u, u = setF (setF (setF s CNT_DUMPCTL.PERIOD 0 (bget v CNT_DUMPCTL.PERIOD.bf)) CNT_DUMPCTL.CLR 0 (bget v CNT_DUMPCTL.CLR.bf)) CNT_DUMPCTL.MODE 0 0 ∧ Answers (.cntDumpNow v) s (dump { u with obs := { u.obs with ddue := none } } 0 false true))
  ∧ (∀ s (d : W64), s.pwr.fast = true → s.hst.only = false → s.obs.ddue = some d → 0 ≤ ftDiff s.tim.now d →
    Answers .timedDump s (dump { s with obs := { s.obs with ddue := nextDue s d } } d (decide (256000 < ftDiff s.tim.now d)) false))
  ∧ (∀ s, live s = true → s.obs.ddue = none →
    Answers .raiseMatch s (((dueRaisings s).take 16).foldl (fun u x => launch u x.seq) s))
  ∧ (∀ s (r : BitVec 512) l n t u, s.pwr.fast = true → s.hst.only = false → s.obs.sbuf = r :: l →
    sampleRoom s = true → n = 2 ^ (min 15 (max 4 (getF s CNT_SRING.LOG2N))) → t = getF s CNT_SSTAT.TAIL →
    u = { s with obs := { s.obs with sbuf := l } } →
    Answers .sampleWrite s (setEvt (setF (cntWrite u (tstF u CNT_SRING.LOC) (adrF u CNT_SRING.ADDR + 64 * (t % n)) (bytesOf (bset r SMP.PHASE (ringPhase t n)))) CNT_SSTAT.TAIL 0 (t + 1)) CNT_EVT.SMP))
  ∧ (∀ s r l w, s.pwr.sill = true → s.obs.lqueue = r :: l → s.obs.lfull = 0 → r.sev < 2 →
    tstF s LDG_STREAM.EN = false → w = ledgerRec s r →
    Answers .ledgerRecordWrite s { s with obs := { s.obs with lqueue := l, lring := mput s.obs.lring ((s.obs.lseq - 1) % 16384) w, lseq := s.obs.lseq + 1 } })
  ∧ (∀ s u, s.pwr.sill = true → u = { s with obs := { s.obs with lwin := [] } } →
    Answers .ledgerWindowEnd s ((s.obs.lwin.filter fun e => e.2.2 != 0).foldl (fun y e => suppressed y e.1 e.2.2) u))
  ∧ (∀ s, s.pwr.sill = true →
    Answers .ledgerStreamSend s (ledgerSend { s with obs := { s.obs with lstream := s.obs.lstream.drop 16 } } (s.obs.lstream.take 16)))

/-- After R516, R568, R576 to R578, R580: a warm reset of a chip whose bring-up has begun, a cold reset over MCTP, PERST#, function-level
resets and tenant reset act as Tables HST-3 and HST-5 say. -/
def Obligations.ResetCommands : Prop :=
  (∀ s, s.pwr.sill = true → 1 ≤ getF s GLB_STAT.STAGE → Answers .glbRstWarm s (warmReset s))
  ∧ (∀ s, s.pwr.sill = true → getF s PWR_STATE.CUR ≠ 3 → Answers (.glbRstCold true) s (startBringup (coldReset s)))
  ∧ (∀ s, s.pwr.sill = true → getF s PWR_STATE.CUR ≠ 3 →
    Answers .perstAssert s (coldReset { s with pwr := { s.pwr with perst := true } }))
  ∧ (∀ s, s.pwr.sill = true → getF s PWR_STATE.CUR ≠ 3 →
    Answers .perstDeassert s (startBringup { s with pwr := { s.pwr with perst := false } }))
  ∧ (∀ s, s.pwr.sill = true → getF s PWR_STATE.CUR = 3 →
    Answers .perstDeassert s (railsUp (coldReset { s with pwr := { s.pwr with perst := false, railFault := false } })))
  ∧ (∀ hot s, s.pwr.sill = true → 2 ≤ getF s GLB_STAT.STAGE →
    Answers (.pfFunctionReset hot) s (pfReset s (if hot then 3 else 2)))
  ∧ (∀ n s, s.pwr.sill = true → 2 ≤ getF s GLB_STAT.STAGE → s.hst.vfEn = true → 1 ≤ n → n ≤ s.hst.numVfs →
    Answers (.vfFunctionReset n) s (vfReset s n))
  ∧ (∀ n s u, s.pwr.sill = true → 2 ≤ getF s GLB_STAT.STAGE → u = vfsLeave s n →
    Answers (.vfEnableClear true n) s { u with hst := { u.hst with vfEn := true, numVfs := min n 512 } })
  ∧ (∀ n s u, s.pwr.sill = true → 2 ≤ getF s GLB_STAT.STAGE → u = vfsLeave s 0 →
    Answers (.vfEnableClear false n) s { u with hst := { u.hst with vfEn := false, numVfs := min n 512 } })
  ∧ (∀ t s, s.pwr.fast = true → s.hst.only = false → t < 512 → t ∉ s.sec.resetting →
    Answers (.tenantReset t) s (tenantReset s t))
  ∧ (∀ t s u, s.pwr.fast = true → s.hst.only = false → t ∈ s.sec.resetting → tenClean s t = true → u = tenFree s t →
    tenPages u t = [] →
    Answers (.tenantResetDone t) s (setF { u with sec := { u.sec with resetting := u.sec.resetting.filter (· != t), keys := u.sec.keys.filter (· != t) } } TEN_SECCTL.RSTDONE t 1))
  ∧ (∀ t s, s.pwr.fast = true → s.hst.only = false → t ∈ s.sec.resetting → tenClean s t = true →
    tenPages (tenFree s t) t ≠ [] → Answers (.tenantResetDone t) s (tenFree s t))

/-- After R515, R520, R527, R536: EN written 1 on a READY chip starts key derivation, which ends with EN set and the keys installed; EN
written 0 disables; ERASE of a tenant that owns nothing advances KGEN in the register and the vault; CREATE makes a seed on
a chip that holds none. -/
def Obligations.TenancyCommands : Prop :=
  (∀ t (v : W64) s u, s.pwr.fast = true → s.hst.only = false → t < 512 → btst v TEN_SECCTL.RESET.bf = false →
    btst v TEN_SECCTL.ERASE.bf = false →
    u = plainWrite s .TEN_SECCTL t (bset (bset v TEN_SECCTL.EN.bf 1) TEN_SECCTL.EN.bf (getF s TEN_SECCTL.EN t)) →
    tstF u TEN_SECCTL.EN t = false → t ∉ u.sec.enabling → tstF u GLB_STAT.READY = true → partitioned u = false →
    Answers (.tenantEnable t v) s { u with sec := { u.sec with enabling := insRising u.sec.enabling t } })
  ∧ (∀ t s, s.pwr.fast = true → s.hst.only = false → t ∈ s.sec.enabling → t ∉ s.sec.resetting → seedHeld s = true →
    Answers (.tenantKeysInstalled t) s (setF { s with sec := { s.sec with enabling := s.sec.enabling.filter (· != t), keys := insRising s.sec.keys t, seed := true, sysKeys := true } } TEN_SECCTL.EN t 1))
  ∧ (∀ t (v : W64) s u y, s.pwr.fast = true → s.hst.only = false → t < 512 → btst v TEN_SECCTL.RESET.bf = false →
    btst v TEN_SECCTL.EN.bf = false →
    u = tenantDisable (plainWrite s .TEN_SECCTL t (bset (bset v TEN_SECCTL.ERASE.bf 1) TEN_SECCTL.EN.bf (getF s TEN_SECCTL.EN t))) t →
    tstF u TEN_SECCTL.EN t = false → t ∉ u.sec.enabling → owns u t = false →
    y = setF u TEN_SECCTL.KGEN t ((getF u TEN_SECCTL.KGEN t + 1) % 65536) →
    Answers (.tenantErase t v) s { y with sec := { y.sec with vKgen := mputD 0 y.sec.vKgen t ((getF u TEN_SECCTL.KGEN t + 1) % 65536), erasing := insRising y.sec.erasing t } })
  ∧ (∀ t s, s.pwr.fast = true → s.hst.only = false → t ∈ s.sec.erasing →
    Answers (.tenantEraseDone t) s (setF { s with sec := { s.sec with erasing := s.sec.erasing.filter (· != t) } } TEN_SECCTL.EDONE t 1))
  ∧ (∀ (v : W64) s, s.pwr.fast = true → s.hst.only = false → btst v SEC_FSCMD.CREATE.bf = true →
    tstF s SEC_BOOT.VAULT = false →
    ∃ b u, (b, u) = freeBytes s 32 ∧ Answers (.frameSeedCreate v) s (takeSeed u (Config.fsidOf b)))

/-- After R561, R563, R569, R571: clearing Bus Master Enable holds back what a function would send, setting it or returning from D3hot
sends it; unmasking a vector sends its pending message; a retrained link shows its rate and width. -/
def Obligations.HostFunctionCommands : Prop :=
  (∀ fn s, s.pwr.sill = true → 2 ≤ getF s GLB_STAT.STAGE → fnExists s fn = true →
    Answers (.busMasterEnableClear fn) s (setFn s fn { fnOf s fn with bme := false }))
  ∧ (∀ fn s, s.pwr.sill = true → 2 ≤ getF s GLB_STAT.STAGE → fnExists s fn = true →
    Answers (.busMasterEnableSet fn) s (fnFlush (setFn s fn { fnOf s fn with bme := true }) fn))
  ∧ (∀ fn enter s, s.pwr.sill = true → 2 ≤ getF s GLB_STAT.STAGE → fnExists s fn = true →
    Answers (.d3hotTransition fn enter) s (fnFlush (setFn s fn { fnOf s fn with d3hot := enter }) fn))
  ∧ (∀ fn s, s.pwr.sill = true → 2 ≤ getF s GLB_STAT.STAGE → fnExists s fn = true →
    Answers (.msixUnmask fn none) s (msixFlush (setFn s fn { fnOf s fn with msixEn := true, fmask := false }) fn))
  ∧ (∀ fn n s, s.pwr.sill = true → 2 ≤ getF s GLB_STAT.STAGE → fnExists s fn = true →
    n < (if fn = 0 then 2048 else 128) →
    Answers (.msixUnmask fn (some n)) s (msixFlush (setFn s fn { fnOf s fn with unmasked := insRising (fnOf s fn).unmasked n }) fn))
  ∧ (∀ speed width flit s, s.pwr.sill = true → 2 ≤ getF s GLB_STAT.STAGE → linkOk speed width = true →
    Answers (.hostLinkRetrain speed width flit) s (linkTrained (satF s HST_LINK.RETRAINS 0) speed width flit))

/-- R538 to R540, R618: reading word 0 of the nonce draws a new one; the check of a token draws a new nonce whatever its outcome,
and unlocks only for a token that is addressed to this chip, answers its nonce and verifies; the responder answers
each SPDM request in the state of the connection that the request needs, and with an error before. -/
def Obligations.DebugAndMeasureCommands : Prop :=
  (∀ s, s.pwr.sill = true → mctpFast s = true →
    Answers .debugNonceRead s (mctpAnswer (nonceDraw s) 0 (some (BitVec.ofNat 64 (leNat ((freeBytes s 32).1.take 8))))))
  ∧ (∀ len s, s.pwr.sill = true → mctpFast s = true → len ≠ 3361 →
    Answers (.debugTokenCheck len) s (mctpAnswer (nonceDraw s) 0 none))
  ∧ (∀ s l, s.pwr.sill = true → mctpFast s = true → l = leNat (((tokenBytes s).drop 48).take 1) →
    Answers (.debugTokenCheck 3361) s (mctpAnswer (nonceDraw (if tokenGood s 3361 then { setF (setF (zeroise (selfFence s)) SEC_DBG.UNLOCKED 0 1) SEC_DBG.LEVEL 0 l with sec := { (setF (setF (zeroise (selfFence s)) SEC_DBG.UNLOCKED 0 1) SEC_DBG.LEVEL 0 l).sec with dbg := true } } else s)) 0 none))
  ∧ (∀ doe s, spdmReach s doe = true → spdmUp s = true →
    Answers (.getVersion doe) s (spdmSay (setSpdm s doe 1) doe 0x04 (leBytes 2 0x1300)))
  ∧ (∀ doe s, spdmReach s doe = true → spdmUp s = true → 1 ≤ spdmSt s doe →
    Answers (.getCapabilities doe) s (spdmSay (setSpdm s doe 2) doe 0x61 (leBytes 4 0x16)))
  ∧ (∀ doe s, spdmReach s doe = true → spdmUp s = true → spdmSt s doe < 1 →
    Answers (.getCapabilities doe) s (spdmError s doe 4))
  ∧ (∀ doe s, spdmReach s doe = true → spdmUp s = true → 2 ≤ spdmSt s doe →
    Answers (.negotiateAlgorithms doe true true) s (spdmSay (setSpdm s doe 3) doe 0x63 (leBytes 4 0x10 ++ leBytes 2 0x1F4C ++ leBytes 2 1)))
  ∧ (∀ doe hash asym s, spdmReach s doe = true → spdmUp s = true → spdmSt s doe < 2 →
    Answers (.negotiateAlgorithms doe hash asym) s (spdmError s doe 4))
  ∧ (∀ doe s, spdmReach s doe = true → spdmUp s = true → 3 ≤ spdmSt s doe →
    Answers (.getDigests doe) s (spdmSay s doe 0x01 (Config.sha3 chain0)))
  ∧ (∀ doe off len s, spdmReach s doe = true → spdmUp s = true → 3 ≤ spdmSt s doe →
    Answers (.getCertificate doe 0 off len) s (if chain0.length ≤ off then spdmError s doe 1 else spdmSay s doe 0x02 ((chain0.drop off).take len)))
  ∧ (∀ doe slot off len s, spdmReach s doe = true → spdmUp s = true → 3 ≤ spdmSt s doe → slot ≠ 0 →
    Answers (.getCertificate doe slot off len) s (spdmError s doe 1))
  ∧ (∀ doe s, spdmReach s doe = true → spdmUp s = true → 3 ≤ spdmSt s doe →
    Answers (.challenge doe 0) s (spdmSay (freeBytes s 3341).2 doe 0x03 (Config.sha3 chain0 ++ (freeBytes s 3341).1)))
  ∧ (∀ doe idx raw s, spdmReach s doe = true → spdmUp s = true → 3 ≤ spdmSt s doe → 1 ≤ idx → idx ≤ 8 →
    Answers (.getMeasurements doe idx raw true) s (spdmSay (freeBytes s 3341).2 doe 0x60 (measured s raw idx ++ (freeBytes s 3341).1)))
  ∧ (∀ doe raw s, spdmReach s doe = true → spdmUp s = true → 3 ≤ spdmSt s doe →
    Answers (.getMeasurements doe 0 raw true) s (spdmSay (freeBytes s 3341).2 doe 0x60 (leBytes 1 8 ++ (freeBytes s 3341).1)))
  ∧ (∀ doe idx raw sig s, spdmReach s doe = true → spdmUp s = true → 3 ≤ spdmSt s doe → 8 < idx → idx ≠ 255 →
    Answers (.getMeasurements doe idx raw sig) s (spdmError s doe 1))

/-- R573 to R575: discovery lists the mailbox's protocols; a key exchange begins a new session; KEY_PROG writes a key, K_SET_GO brings
a programmed key set into use and K_SET_STOP takes it out, each inside a session whose object verifies; an object that
fails ends the session with IDEFAIL. -/
def Obligations.IdeCommands : Prop :=
  (∀ s, s.pwr.sill = true → 2 ≤ getF s GLB_STAT.STAGE →
    Answers (.doeDiscovery 0) s (emit s (.doe 0 (leBytes 2 0x0001 ++ leBytes 1 0x00 ++ leBytes 1 1))))
  ∧ (∀ s, s.pwr.sill = true → 2 ≤ getF s GLB_STAT.STAGE →
    Answers (.doeDiscovery 1) s (emit s (.doe 0 (leBytes 2 0x0001 ++ leBytes 1 0x01 ++ leBytes 1 2))))
  ∧ (∀ s, s.pwr.sill = true → 2 ≤ getF s GLB_STAT.STAGE →
    Answers (.doeDiscovery 2) s (emit s (.doe 0 (leBytes 2 0x1F4C ++ leBytes 1 0x01 ++ leBytes 1 0))))
  ∧ (∀ nonce ek s, s.pwr.sill = true → 2 ≤ getF s GLB_STAT.STAGE → nonce.length = 32 → ek.length = 1184 →
    spdmUp s = true →
    Answers (.idekmKeyExchange nonce ek) s (emit { s with fresh := s.fresh + 4397, sec := { s.sec with ideSess := s.sec.ideSess + 1, ideN := 0 } } (.doe 2 (freeBytes s 4397).1)))
  ∧ (∀ port s, s.pwr.sill = true → 2 ≤ getF s GLB_STAT.STAGE → s.sec.ideSess ≠ 0 →
    Answers (.query true port) s { ideAnswer s 1 [port] with sec := { s.sec with ideN := s.sec.ideN + 1 } })
  ∧ (∀ stream set dir sub s u, s.pwr.sill = true → 2 ≤ getF s GLB_STAT.STAGE → s.sec.ideSess ≠ 0 → stream ≤ 4 →
    set ≤ 1 → dir ≤ 1 → sub ≤ 2 →
    u = { s with sec := { s.sec with ideKeys := insRising s.sec.ideKeys (ideKey stream set dir sub), ideN := s.sec.ideN + 1 } } →
    Answers (.keyProg true stream set dir sub) s (ideAnswer u 3 [stream, 0, set, dir, sub]))
  ∧ (∀ stream set dir sub s, s.pwr.sill = true → 2 ≤ getF s GLB_STAT.STAGE → s.sec.ideSess ≠ 0 →
    ideKeyOk stream set dir sub = false →
    Answers (.keyProg true stream set dir sub) s { ideAnswer s 3 [stream, 3, set, dir, sub] with sec := { s.sec with ideN := s.sec.ideN + 1 } })
  ∧ (∀ stream set dir sub s u, s.pwr.sill = true → 2 ≤ getF s GLB_STAT.STAGE → s.sec.ideSess ≠ 0 →
    ideKey stream set dir sub ∈ s.sec.ideKeys →
    u = ideAnswer (ideActive { s with sec := { s.sec with ideGo := insRising s.sec.ideGo (ideKey stream set dir sub) } }) 6 [stream, set, dir, sub] →
    Answers (.kSetGo true stream set dir sub) s { u with sec := { u.sec with ideN := u.sec.ideN + 1 } })
  ∧ (∀ stream set dir sub s u, s.pwr.sill = true → 2 ≤ getF s GLB_STAT.STAGE → s.sec.ideSess ≠ 0 →
    ideKey stream set dir sub ∉ s.sec.ideKeys → u = ideAnswer (ideActive s) 6 [stream, set, dir, sub] →
    Answers (.kSetGo true stream set dir sub) s { u with sec := { u.sec with ideN := u.sec.ideN + 1 } })
  ∧ (∀ stream set dir sub s u, s.pwr.sill = true → 2 ≤ getF s GLB_STAT.STAGE → s.sec.ideSess ≠ 0 →
    u = ideAnswer (ideActive { s with sec := { s.sec with ideGo := s.sec.ideGo.filter (· != ideKey stream set dir sub) } }) 6 [stream, set, dir, sub] →
    Answers (.kSetStop true stream set dir sub) s { u with sec := { u.sec with ideN := u.sec.ideN + 1 } })
  ∧ (∀ stream set dir sub port s, s.pwr.sill = true → 2 ≤ getF s GLB_STAT.STAGE →
    ∃ u, u = setEvt { s with sec := { s.sec with ideSess := 0 } } HST_EVT.IDEFAIL ∧ Answers (.query false port) s u ∧ Answers (.keyProg false stream set dir sub) s u ∧ Answers (.kSetGo false stream set dir sub) s u ∧ Answers (.kSetStop false stream set dir sub) s u)

/-- R544 to R548: PARKED is entered from RUN or IDLE once the chip left the store and no descriptor is left, SILL from PARKED, RUN
from PARKED, or from SILL over MCTP unless a rail fault put the chip there; any other write sets BADREQ. An idle array is
gated, and a woken array or plane engine works again. -/
def Obligations.PowerStateCommands : Prop :=
  (∀ mctp s, pwrReach s mctp = true → powerSt s = psParked → Answers (.pwrReqRun mctp) s (leaveParked s))
  ∧ (∀ s, s.pwr.sill = true → powerSt s = psSill → s.pwr.railFault = false →
    Answers (.pwrReqRun true) s (railsUp (coldReset { s with pwr := { s.pwr with lref := true } })))
  ∧ (∀ mctp s, pwrReach s mctp = true → powerSt s ≤ psIdle → Answers (.pwrReqRun mctp) s (badReq s))
  ∧ (∀ mctp s, pwrReach s mctp = true → powerSt s ≤ psIdle → tstF s HOME_DIRCFG.EN = false → s.pwr.parking = false →
    Answers (.pwrReqParked mctp) s (parkCheck { s with pwr := { s.pwr with parking := true } }))
  ∧ (∀ mctp s, pwrReach s mctp = true → tstF s HOME_DIRCFG.EN = true ∨ psIdle < powerSt s →
    Answers (.pwrReqParked mctp) s (badReq s))
  ∧ (∀ mctp s, pwrReach s mctp = true → powerSt s = psParked → Answers (.pwrReqSill mctp) s (enterSill s))
  ∧ (∀ mctp s, pwrReach s mctp = true → powerSt s ≠ psParked → Answers (.pwrReqSill mctp) s (badReq s))
  ∧ (∀ s, live s = true → powerSt s = psRun → s.que.slots = [] → s.arr.held = [] → s.arr.waiting = [] →
    allGated s = true → Answers .idleEnter s (setF s PWR_STATE.CUR 0 psIdle))
  ∧ (∀ a s, s.pwr.fast = true → tstF s PWR_CFG.AGATE = true → partitioned s = false → arrayFree s a = true →
    Answers (.arrayPowerGate a) s { s with arr := { s.arr with gated := insRising s.arr.gated a } })
  ∧ (∀ a s, s.pwr.fast = true →
    Answers (.arrayWakeDone a) s { s with arr := { s.arr with waking := s.arr.waking.filter (· != a) } })

/-- After R549, R550, R552, R635: a sample enters the monitor's registers and runs the counts that the rules name; STEP rises by one at a
mark with a cause, to 12 at most, and falls by one after 100 µs without; a package that trips fences itself, enters SILL
and lowers THERMTRIP#. -/
def Obligations.PowerLimitCommands : Prop :=
  (∀ w temp sensor s, s.pwr.sill = true → s.pwr.parking = false → temp < 105 → w ≤ sustLimit s →
    s.pwr.cnt + 1 < 100000 → s.pwr.hot12 < 10000 →
    ∃ u, u = setF (setF s PWR_MON.LAST 0 w) PWR_MON.TMAX 0 temp ∧ Answers (.powerSample w temp sensor) s { u with pwr := { u.pwr with sum := s.pwr.sum + w, cnt := s.pwr.cnt + 1, over8 := 0, hot12 := 0, clear := if throttleCause { u with pwr := { u.pwr with sum := s.pwr.sum + w, cnt := s.pwr.cnt + 1, over8 := 0, hot12 := 0 } } then 0 else s.pwr.clear + 1 } })
  ∧ (∀ w temp sensor s, s.pwr.sill = true → s.pwr.parking = false → 115 ≤ temp → temp < 65536 → w ≤ sustLimit s →
    s.pwr.cnt + 1 < 100000 → s.pwr.fast = true → tstF s PWR_EVT.THERMTRIP = false → powerSt s ≠ psSill →
    getF s PWR_MON.STEP < 12 →
    ∃ u, u = setF (setF s PWR_MON.LAST 0 w) PWR_MON.TMAX 0 temp ∧ Answers (.powerSample w temp sensor) s (emit (enterSill (setEvt (ledger (selfFence { u with pwr := { u.pwr with sum := s.pwr.sum + w, cnt := s.pwr.cnt + 1, over8 := 0, hot12 := 0, clear := 0 } }) 0x0E01 3 none [sensor, temp]) PWR_EVT.THERMTRIP)) (.pin "THERMTRIP#" 0 false)))
  ∧ (∀ s, s.pwr.sill = true → throttleCause s = true → 0 < getF s PWR_MON.STEP →
    Answers .throttleMark s (setF s PWR_MON.STEP 0 (min 12 (getF s PWR_MON.STEP + 1))))
  ∧ (∀ s, s.pwr.sill = true → throttleCause s = true → getF s PWR_MON.STEP = 0 →
    Answers .throttleMark s (setEvt (setF s PWR_MON.STEP 0 1) PWR_EVT.THROT))
  ∧ (∀ s, s.pwr.sill = true → throttleCause s = false → 0 < getF s PWR_MON.STEP → 100 ≤ s.pwr.clear →
    getF s PWR_MON.LAST * 100 ≤ sustLimit s * 95 →
    Answers .throttleMark s (setF { s with pwr := { s.pwr with clear := 0 } } PWR_MON.STEP 0 (getF s PWR_MON.STEP - 1)))

/-- After R547, R560, R598, R626 to R628: rails raise the next RAILEN line in order; a rail fault or the loss of LREF puts the chip into SILL
with a record; the loss of PREF acts as a function-level reset; the internal oscillator takes over from the crystal; the
loss of VSTBY stops everything, and the sill domain's power-on is a cold reset too. -/
def Obligations.RailCommands : Prop :=
  (∀ rail s u, s.pwr.sill = true → rail < 6 → railNeeds rail ≤ s.pwr.railen → ¬ (rail = 0 ∧ s.pwr.railen = 1) →
    ¬ (rail = 3 ∧ s.pwr.railen = 2) → u = { s with pwr := { s.pwr with rails := insRising s.pwr.rails rail } } →
    Answers (.railWithinTolerance rail) s (startBringup u))
  ∧ (∀ s u, s.pwr.sill = true → s.pwr.railen = 1 →
    u = { s with pwr := { s.pwr with rails := insRising s.pwr.rails 0, railen := 2 } } →
    Answers (.railWithinTolerance 0) s (startBringup (emit u (.pin "RAILEN" 1 true))))
  ∧ (∀ s u, s.pwr.sill = true → s.pwr.railen = 2 →
    u = { s with pwr := { s.pwr with rails := insRising s.pwr.rails 3, railen := 3 } } →
    Answers (.railWithinTolerance 3) s (startBringup (emit u (.pin "RAILEN" 2 true))))
  ∧ (∀ rail s u, s.pwr.sill = true → powerSt s ≠ psSill →
    u = ledgerFF (if s.pwr.fast then selfFence s else s) 0xE rail →
    Answers (.railFault rail) s (enterSill { u with pwr := { u.pwr with railFault := true } }))
  ∧ (∀ s, s.pwr.sill = true → powerSt s ≠ psSill →
    Answers .lrefLoss s (enterSill (ledgerFF { s with pwr := { s.pwr with lref := false } } 0xE 0)))
  ∧ (∀ s, s.pwr.sill = true → 2 ≤ getF s GLB_STAT.STAGE →
    Answers .prefLoss s (pfReset { s with pwr := { s.pwr with pref := false } } 2))
  ∧ (∀ s, s.pwr.sill = true → s.pwr.crystal = true →
    Answers .crystalStop s (ledgerFF { s with pwr := { s.pwr with crystal := false } } 0xE 0))
  ∧ (∀ s, s.pwr.sill = true →
    Answers .vstbyLoss s { fastClear s with pwr := { sill := false, railen := 0, perst := s.pwr.perst } })
  ∧ (∀ s, s.pwr.sill = false →
    Answers .sillPowerOn s (resetRecord (sillClear (clearRegs (clearRegs (fastClear s) .cold) .sill)) 0))

/-- R554 to R559, R633: a press moves a sled as Table PWR-5 says; the abort window's end starts quiescing, which ends in SAFE once no
dirty page is left and every secondary has reported, or in FAILED at its limit; opening the latch removes the sled, from
SAFE alone without surprise; closing it powers and tests the sled that was put in. -/
def Obligations.SledCommands : Prop :=
  (∀ n s, s.pwr.sill = true → n < 4 → sledSt s n = slActive → Answers (.sledButtonPress n) s (setSled s n slAbortwin))
  ∧ (∀ n s, s.pwr.sill = true → n < 4 → sledSt s n = slAbortwin →
    Answers (.sledButtonPress n) s (setSled s n slActive))
  ∧ (∀ n s, s.pwr.sill = true → n < 4 → sledSt s n ∈ [slStandby, slTesting, slFailed] →
    Answers (.sledButtonPress n) s (setSled (sledPower s n false) n slSafe))
  ∧ (∀ mctp n (v : W64) s u, pwrReach s mctp = true → n < 4 → u = setF s PWR_SLED.LEFT n (bget v PWR_SLED.LEFT.bf) →
    sledSt s n = slActive → Answers (.pwrSledPress mctp n v) s (setSled u n slAbortwin))
  ∧ (∀ n s, s.pwr.sill = true → n < 4 → sledSt s n = slAbortwin → Answers (.abortWindowEnd n) s (quiesceStart s n))
  ∧ (∀ n s, s.pwr.sill = true → n < 4 → sledSt s n = slQuiescing → s.red.selfFenced = false → sledDirty s n = [] →
    (∀ c ∈ mgetD [] s.pwr.mirrors n, fencedChip s c = true) →
    Answers (.quiesceWritebackDone n) s (setSled (sledOut s n) n slSafe))
  ∧ (∀ n s, s.pwr.sill = true → n < 4 → sledSt s n = slQuiescing → s.red.selfFenced = false →
    Answers (.quiesceTimeout n) s (sledFailed (sledOut (setF s PWR_SLED.LEFT n (sledDirty s n).length) n) n))
  ∧ (∀ chip exts s, live s = true →
    Answers (.mirrorWritebackRequest chip exts) s (flushCheck { s with pwr := { s.pwr with flush := s.pwr.flush ++ [(chip, exts)] } }))
  ∧ (∀ chip n s, live s = true →
    Answers (.mirrorPagesWritten chip n) s { s with pwr := { s.pwr with mirrors := mmod s.pwr.mirrors n fun l => l.filter (· != chip) } })
  ∧ (∀ n s, s.pwr.sill = true → n < 4 → sledSt s n = slSafe →
    Answers (.sledLatchOpen n) s (setEvt (setF (setSled s n slAbsent) PWR_SLED.SURPRISE n 0) PWR_EVT.SLED))
  ∧ (∀ n s, s.pwr.sill = true → n < 4 → sledSt s n ≠ slAbsent → sledSt s n ≠ slSafe →
    Answers (.sledLatchOpen n) s (setEvt (sledSurprise s n) PWR_EVT.SLED))
  ∧ (∀ n s, s.pwr.sill = true → n < 4 → sledSt s n = slAbsent →
    Answers (.sledLatchClose n) s (setSled (sledPower s n true) n slTesting))
  ∧ (∀ n s, s.pwr.sill = true → n ∈ s.pwr.sledOn →
    Answers (.sledPowerGood n) s { s with pwr := { s.pwr with sledGood := insRising s.pwr.sledGood n } })
  ∧ (∀ n s, s.pwr.sill = true → n < 4 → sledSt s n = slTesting → n ∉ s.pwr.sledGood →
    Answers (.sledPowerGoodTimeout n) s (sledFailed s n))
  ∧ (∀ n k s, s.pwr.sill = true → n < 4 → sledSt s n = slTesting → n ∈ s.pwr.sledGood →
    Answers (.sledTestDone n true k none) s (setEvt (setSled { s with store := { s.store with sledExtents := mputD 0 s.store.sledExtents n (min k sledUsable) } } n slStandby) PWR_EVT.SLED))
  ∧ (∀ n k m a b s u, s.pwr.sill = true → n < 4 → sledSt s n = slTesting → n ∈ s.pwr.sledGood →
    u = sledContent s n m a b →
    Answers (.sledTestDone n true k (some (m, a, b))) s (setEvt (setSled { u with store := { u.store with sledExtents := mputD 0 u.store.sledExtents n (min k sledUsable) } } n slStandby) PWR_EVT.SLED))
  ∧ (∀ n k content s, s.pwr.sill = true → n < 4 → sledSt s n = slTesting → n ∈ s.pwr.sledGood →
    Answers (.sledTestDone n false k content) s (sledFailed s n))

/-- After R508, R529, R579 to R582, R584, R638: each stage's end starts the next; stage 6 ends once a RESTART order was accepted; stage 7
ends in READY, with the named cut restored; a stage that exceeds its limit, or a boot stage that fails, sets FAILED; a
RESTART order after bring-up starts a warm reset. -/
def Obligations.BringupCommands : Prop :=
  (∀ e s, bringupRuns s = true → stage s = 1 → linkOk e.speed e.width = true →
    Answers (.bringupStageEnd e) s (toStage (emit (linkTrained s e.speed e.width e.flit) .readiness) 2))
  ∧ (∀ e s, bringupRuns s = true → stage s = 2 →
    Answers (.bringupStageEnd e) s (toStage (boot { s with sec := { s.sec with manifest := e.manifest, tcount := e.tcount } } 4) 3))
  ∧ (∀ e s u, bringupRuns s = true → stage s = 3 →
    u = setF (boot ((manifestSettings s.sec.manifest).foldl applySetting s) 5) SEC_BOOT.SEALED 0 1 →
    Answers (.bringupStageEnd e) s (toStage { u with pwr := { u.pwr with fast := true } } 4))
  ∧ (∀ e s b u, bringupRuns s = true → stage s = 4 →
    b = (e.badPc.filter fun p => decide (p < 512)).foldl insRising s.store.retiredPc →
    u = setF (setF { s with store := { s.store with near := [], failedPc := [], retiredPc := b } } TIER_NEARCAP.RETIRED 0 (min 255 b.length)) TIER_NEARCAP.EXTENTS 0 (576 - 2 * b.length) →
    Answers (.bringupStageEnd e) s (toStage (unwrapVault u e.vaultOk) 5))
  ∧ (∀ e s, bringupRuns s = true → stage s = 5 → Answers (.bringupStageEnd e) s (toStage (boot s 6) 6))
  ∧ (∀ e s x u, bringupRuns s = true → stage s = 6 → s.red.restore = some x →
    u = ((List.range 4).filter (sledJoins s)).foldl sledReload (setF s TIER_QUARCNT.BLOCKS 0 0) →
    Answers (.bringupStageEnd e) s (toStage { u with home := { u.home with caching := e.caching.foldl insRising [], hops := e.hops, caps := e.caps } } 7))
  ∧ (∀ e s p, bringupRuns s = true → stage s = 7 → tstF s GLB_STAT.READY = false → mayJoin s = true →
    s.red.restore = some (0, p) → Answers (.bringupStageEnd e) s (join s))
  ∧ (∀ e s id p c, bringupRuns s = true → stage s = 7 → tstF s GLB_STAT.READY = false → mayJoin s = true →
    s.red.restore = some (id, p) → id ≠ 0 → cutToRestore s id e.slot = some c →
    Answers (.bringupStageEnd e) s (join (restoreCut s c)))
  ∧ (∀ s, bringupRuns s = true → mayFail s 0 = true → Answers (.bringupStageLimit 0) s (setF s GLB_STAT.FAILED 0 1))
  ∧ (∀ i s, bringupRuns s = true → 1 ≤ i → i ≤ 6 → stage s = failStage i →
    Answers (.bringupStageLimit i) s (setF (boot (setF s GLB_STAT.FAILED 0 1) (i - 1)) SEC_BOOT.ERR 0 i))
  ∧ (∀ oseq cut plan s u, s.pwr.sill = true → 4 ≤ getF s SEC_BOOT.STAGE → s.hst.only = false →
    getF s SEC_OSEQ.OSEQ < oseq → u = setF s SEC_OSEQ.OSEQ 0 oseq → stage u ≠ 7 →
    Answers (.restart oseq true cut plan) s { u with red := { u.red with restore := some (cut, plan) } })
  ∧ (∀ oseq cut plan s u, s.pwr.sill = true → 4 ≤ getF s SEC_BOOT.STAGE → s.hst.only = false →
    getF s SEC_OSEQ.OSEQ < oseq → u = setF s SEC_OSEQ.OSEQ 0 oseq → stage u = 7 →
    Answers (.restart oseq true cut plan) s { warmReset u with red := { (warmReset u).red with restore := some (cut, plan) } })

/-- After R565, R566, R583, R606 to R608, R613: an aligned 8-byte access reads or writes one register; a 4-byte read of the low half latches
the high half and a 4-byte write of the low half waits for the other; an access of another size or alignment reads
zero or changes nothing, and sets BADACC. A function that is in D3hot answers nothing. -/
def Obligations.HostAccessCommands : Prop :=
  (∀ fn off s, fnServes s fn = true → ideOk s = true → inBar0 fn off = true → inAlias fn off = false → off % 8 = 0 →
    (fnOf s fn).wlatch = none →
    Answers (.registerRead fn 0 off 8) s (emit s (.readData fn (bar0Word s (bar0Off fn off)))))
  ∧ (∀ fn off s, fnServes s fn = true → ideOk s = true → inBar0 fn off = true → inAlias fn off = false → off % 8 = 0 →
    (fnOf s fn).wlatch = none →
    Answers (.registerRead fn 0 off 4) s (emit (setFn s fn { fnOf s fn with rlatch := some (off, hiHalf (bar0Word s (bar0Off fn off))) }) (.readData fn ((loHalf (bar0Word s (bar0Off fn off))).setWidth 64))))
  ∧ (∀ fn off h s, fnServes s fn = true → ideOk s = true → inBar0 fn off = true → inAlias fn off = false →
    off % 8 = 4 → (fnOf s fn).wlatch = none → (fnOf s fn).rlatch = some (off - 4, h) →
    Answers (.registerRead fn 0 off 4) s (emit s (.readData fn (h.setWidth 64))))
  ∧ (∀ fn off size s, fnServes s fn = true → ideOk s = true → inBar0 fn off = true → inAlias fn off = false →
    accessOk off size = false → Answers (.registerRead fn 0 off size) s (emit (badAccess s) (.readData fn 0)))
  ∧ (∀ fn off size s, fnServes s fn = true → ideOk s = true →
    Answers (.registerRead fn 4 off size) s (emit s (.readData fn (bar4Read s fn off size))))
  ∧ (∀ off (v : Line) r i s, fnServes s 0 = true → ideOk s = true → inBar0 0 off = true → inAlias 0 off = false →
    off % 8 = 0 → (fnOf s 0).wlatch = none → regAt off = some (r, i) → regOpen s r = true →
    Answers (.registerWrite 0 0 off 8 v) s (writeReg s r i (v.setWidth 64)))
  ∧ (∀ fn off (v : Line) s, fnServes s fn = true → ideOk s = true → inBar0 fn off = true → inAlias fn off = false →
    off % 8 = 0 → (fnOf s fn).wlatch = none →
    Answers (.registerWrite fn 0 off 4 v) s (setFn s fn { fnOf s fn with wlatch := some (off, loHalf (v.setWidth 64)) }))
  ∧ (∀ off (v : Line) l r i s, fnServes s 0 = true → ideOk s = true → inBar0 0 off = true → inAlias 0 off = false →
    off % 8 = 4 → (fnOf s 0).wlatch = some (off - 4, l) → regAt (off - 4) = some (r, i) → regOpen s r = true →
    Answers (.registerWrite 0 0 off 4 v) s (writeReg (setFn s 0 { fnOf s 0 with wlatch := none }) r i (loHalf (v.setWidth 64) ++ l)))
  ∧ (∀ fn off size (v : Line) s, fnServes s fn = true → ideOk s = true → inBar0 fn off = true →
    inAlias fn off = false → accessOk off size = false → Answers (.registerWrite fn 0 off size v) s (badAccess s))
  ∧ (∀ fn off (v : Line) b o s, fnServes s fn = true → ideOk s = true → live s = true → bellAt fn off = some (b, o) →
    off % 8 = 0 →
    Answers (.registerWrite fn 2 off 8 v) s (confine workParts s (layerTick (ringWord s b o (v.setWidth 64)))))
  ∧ (∀ fn off (v : Line) b o s, fnServes s fn = true → ideOk s = true → live s = true → bellAt fn off = some (b, o) →
    off % 64 = 0 → Answers (.registerWrite fn 2 off 64 v) s (confine workParts s (layerTick (ringWide s b v))))
  ∧ (∀ fn off size (v : Line) s, fnServes s fn = true → ideOk s = true →
    Answers (.registerWrite fn 4 off size v) s (bar4Write s fn off size (v.setWidth 64)))
  ∧ (∀ fn bar off size (v : Line) s, fnServes s fn = false →
    ∃ t, t = s ∧ Answers (.registerRead fn bar off size) s t ∧ Answers (.registerWrite fn bar off size v) s t)

/-- After R603, R616 to R618: an access to a register that MCTP reaches reads or writes it and answers 0; one to a register of the fast
domain without its power answers 2; any other offset answers 1. -/
def Obligations.MctpAccessCommands : Prop :=
  (∀ off r i s, s.pwr.sill = true → mctpAt off = .reg r i → sillReg r = true ∨ mctpFast s = true → r ≠ .LDG_WINSEL →
    r ≠ .LDG_WIN → Answers (.mctpRead off) s (mctpAnswer s 0 (some (readReg s r i))))
  ∧ (∀ off i s, s.pwr.sill = true → mctpAt off = .reg .LDG_WIN i →
    Answers (.mctpRead off) s (mctpAnswer s 0 (some (ledgerWord s s.hst.mctpPage i))))
  ∧ (∀ off r i s v, s.pwr.sill = true → mctpAt off = .reg r i → sillReg r = false → mctpFast s = false →
    ∃ t, t = mctpAnswer s 2 none ∧ Answers (.mctpRead off) s t ∧ Answers (.mctpWrite off v) s t)
  ∧ (∀ off v s, s.pwr.sill = true → mctpAt off = .nothing →
    ∃ t, t = mctpAnswer s 1 none ∧ Answers (.mctpRead off) s t ∧ Answers (.mctpWrite off v) s t)
  ∧ (∀ off r i v s, s.pwr.sill = true → mctpAt off = .reg r i → sillReg r = true ∨ mctpFast s = true →
    Answers (.mctpWrite off v) s (mctpAnswer (mctpPut s r i v) 0 none))
  ∧ (∀ off w v s, s.pwr.sill = true → mctpAt off = .token w → mctpFast s = true → w ≠ 0 →
    Answers (.mctpWrite off v) s (mctpAnswer { s with sec := { s.sec with token := mputD 0 s.sec.token w v } } 0 none))
end

