-- ==== Sys2Proof/Laws/Bits.lean ====
section
/-! SUPPORT. Laws/Bits.lean: a bit field read after a write of it, and of one apart from it. -/
namespace Sys2Proof.Machine

section Fields
variable {n : Nat}

theorem getLsbD_bmask (f : BF) (i : Nat) (h : f.lo + f.w ≤ n) :
    (bmask n f).getLsbD i = (decide (f.lo ≤ i) && decide (i < f.lo + f.w)) := by
  unfold bmask
  simp only [BitVec.getLsbD_shiftLeft, BitVec.getLsbD_ofNat, Nat.testBit_two_pow_sub_one]
  by_cases h1 : i < f.lo
  · simp [h1, Nat.not_le.mpr h1]
  · have : f.lo ≤ i := by omega
    by_cases h2 : i < f.lo + f.w
    · simp [h1, this, h2, show i < n by omega, show i - f.lo < n by omega, show i - f.lo < f.w by omega]
    · simp [h1, h2, show ¬ (i - f.lo < f.w) by omega]

theorem getLsbD_bset (v : BitVec n) (f : BF) (x i : Nat) (h : f.lo + f.w ≤ n) :
    (bset v f x).getLsbD i =
      if f.lo ≤ i ∧ i < f.lo + f.w then x.testBit (i - f.lo) else v.getLsbD i := by
  unfold bset
  simp only [BitVec.getLsbD_or, BitVec.getLsbD_and, BitVec.getLsbD_not, getLsbD_bmask f i h,
    BitVec.getLsbD_shiftLeft, BitVec.getLsbD_ofNat, Nat.testBit_mod_two_pow]
  by_cases h1 : i < f.lo
  · simp only [h1, Nat.not_le.mpr h1, false_and, if_false, decide_false, Bool.false_and, Bool.not_false, Bool.and_true,
      decide_true, Bool.not_true, Bool.and_false, Bool.or_false]
    by_cases hi : i < n
    · simp [hi]
    · simp [hi, BitVec.getLsbD_of_ge v i (by omega)]
  · have h1' : f.lo ≤ i := by omega
    by_cases h2 : i < f.lo + f.w
    · simp [h1', h2, show i < n by omega, show i - f.lo < n by omega, show i - f.lo < f.w by omega, h1]
    · simp only [h1, h1', h2, and_false, if_false, decide_false, Bool.and_false, Bool.not_false,
        show ¬ (i - f.lo < f.w) by omega, Bool.false_and, Bool.or_false]
      by_cases hi : i < n
      · simp [hi]
      · simp [hi, BitVec.getLsbD_of_ge v i (by omega)]

/-- A field reads as the low bits written to it. -/
theorem bget_bset_same (v : BitVec n) (f : BF) (x : Nat) (h : f.lo + f.w ≤ n) :
    bget (bset v f x) f = x % 2 ^ f.w := by
  unfold bget
  rw [show x % 2 ^ f.w = (BitVec.ofNat f.w x).toNat from (BitVec.toNat_ofNat x f.w).symm]
  congr 1
  apply BitVec.eq_of_getLsbD_eq
  intro i hi
  rw [BitVec.getLsbD_extractLsb', getLsbD_bset v f x _ h, BitVec.getLsbD_ofNat]
  simp [hi]

/-- A write of a field leaves every field apart from it alone. -/
theorem bget_bset_apart (v : BitVec n) (f g : BF) (x : Nat) (h : f.lo + f.w ≤ n)
    (hd : g.lo + g.w ≤ f.lo ∨ f.lo + f.w ≤ g.lo) : bget (bset v f x) g = bget v g := by
  unfold bget
  congr 1
  apply BitVec.eq_of_getLsbD_eq
  intro i hi
  rw [BitVec.getLsbD_extractLsb', BitVec.getLsbD_extractLsb', getLsbD_bset v f x _ h]
  have : ¬ (f.lo ≤ g.lo + i ∧ g.lo + i < f.lo + f.w) := by omega
  simp [this]

/-- A field never exceeds its width. -/
theorem bget_lt (v : BitVec n) (f : BF) : bget v f < 2 ^ f.w := (v.extractLsb' f.lo f.w).isLt

end Fields

end Sys2Proof.Machine
end

