-- ==== Sys2Proof/Laws/Map.lean ====
section
/-! SUPPORT. Laws/Map.lean: sparse maps: a read after a write, and the canonical form that every operation keeps. -/
namespace Sys2Proof.Machine

section Read
variable {α : Type}

@[simp] theorem mget_nil (k : Nat) : mget ([] : AMap α) k = none := rfl

@[simp] theorem mgetD_nil (d : α) (k : Nat) : mgetD d ([] : AMap α) k = d := rfl

@[simp] theorem mget_mput_same (m : AMap α) (k : Nat) (v : α) : mget (mput m k v) k = some v := by
  induction m with
  | nil => simp [mput, mget]
  | cons e m ih =>
    obtain ⟨k', v'⟩ := e
    simp only [mput]
    split
    · simp [mget]
    · split
      · simp [mget]
      · rename_i h1 h2
        have : ¬ k' = k := fun h => h2 h.symm
        simp [mget, this, ih]

theorem mget_mput_ne (m : AMap α) {k j : Nat} (v : α) (h : j ≠ k) : mget (mput m k v) j = mget m j := by
  induction m with
  | nil => simp [mput, mget, Ne.symm h]
  | cons e m ih =>
    obtain ⟨k', v'⟩ := e
    simp only [mput]
    split
    · simp [mget, Ne.symm h]
    · split
      · rename_i h2
        subst h2
        simp [mget, Ne.symm h]
      · simp only [mget, ih]

@[simp] theorem mget_mdel_same (m : AMap α) (k : Nat) : mget (mdel m k) k = none := by
  induction m with
  | nil => rfl
  | cons e m ih =>
    obtain ⟨k', v'⟩ := e
    simp only [mdel]
    split
    · exact ih
    · rename_i h
      simp [mget, h, ih]

theorem mget_mdel_ne (m : AMap α) {k j : Nat} (h : j ≠ k) : mget (mdel m k) j = mget m j := by
  induction m with
  | nil => rfl
  | cons e m ih =>
    obtain ⟨k', v'⟩ := e
    simp only [mdel]
    split
    · rename_i h2
      subst h2
      simp [mget, Ne.symm h, ih]
    · simp only [mget, ih]

/-- A read after a write to the same key gives the value written. -/
@[simp] theorem mgetD_mputD_same [DecidableEq α] (d : α) (m : AMap α) (k : Nat) (v : α) :
    mgetD d (mputD d m k v) k = v := by
  unfold mgetD mputD
  split
  · rename_i h
    simp [h]
  · simp

/-- A write leaves every other key alone. -/
theorem mgetD_mputD_ne [DecidableEq α] (d d' : α) (m : AMap α) {k j : Nat} (v : α) (h : j ≠ k) :
    mgetD d' (mputD d m k v) j = mgetD d' m j := by
  unfold mgetD mputD
  split
  · rw [mget_mdel_ne m h]
  · rw [mget_mput_ne m v h]

@[simp] theorem mgetD_mput_same (d : α) (m : AMap α) (k : Nat) (v : α) : mgetD d (mput m k v) k = v := by
  simp [mgetD]

theorem mgetD_mput_ne (d : α) (m : AMap α) {k j : Nat} (v : α) (h : j ≠ k) :
    mgetD d (mput m k v) j = mgetD d m j := by
  unfold mgetD
  rw [mget_mput_ne m v h]

end Read

section Canonical
variable {α : Type}

/-- Every key of `m` lies above `k`. -/
def mabove (k : Nat) (m : AMap α) : Prop := ∀ e ∈ m, k < e.1

/-- Sorted maps, by their first entry. -/
theorem msorted_cons {k : Nat} {v : α} {m : AMap α} :
    msorted ((k, v) :: m) = true ↔ mabove k m ∧ msorted m = true := by
  induction m generalizing k v with
  | nil => simp [msorted, mabove]
  | cons e m ih =>
    obtain ⟨k', v'⟩ := e
    simp only [msorted, Bool.and_eq_true, decide_eq_true_eq]
    constructor
    · rintro ⟨h, hs⟩
      refine ⟨?_, hs⟩
      intro e he
      rcases List.mem_cons.mp he with rfl | he
      · exact h
      · exact Nat.lt_trans h ((ih.mp hs).1 e he)
    · rintro ⟨h, hs⟩
      exact ⟨h (k', v') (by simp), hs⟩

theorem mabove_mput {k j : Nat} {v : α} {m : AMap α} (h : mabove k m) (hj : k < j) : mabove k (mput m j v) := by
  induction m with
  | nil =>
    intro e he
    simp only [mput, List.mem_singleton] at he
    subst he
    exact hj
  | cons e m ih =>
    obtain ⟨k', v'⟩ := e
    have ht : mabove k m := fun e he => h e (List.mem_cons_of_mem _ he)
    have hk : k < k' := h (k', v') (by simp)
    simp only [mput]
    split
    · intro e he
      rcases List.mem_cons.mp he with rfl | he
      · exact hj
      · exact h e he
    · split
      · intro e he
        rcases List.mem_cons.mp he with rfl | he
        · exact hj
        · exact ht e he
      · intro e he
        rcases List.mem_cons.mp he with rfl | he
        · exact hk
        · exact ih ht e he

theorem mabove_mdel {k j : Nat} {m : AMap α} (h : mabove k m) : mabove k (mdel m j) := by
  induction m with
  | nil => exact h
  | cons e m ih =>
    obtain ⟨k', v'⟩ := e
    have ht : mabove k m := fun e he => h e (List.mem_cons_of_mem _ he)
    simp only [mdel]
    split
    · exact ih ht
    · intro e he
      rcases List.mem_cons.mp he with rfl | he
      · exact h (k', v') (by simp)
      · exact ih ht e he

/-- A write keeps the keys rising. -/
theorem msorted_mput {m : AMap α} (h : msorted m = true) (k : Nat) (v : α) : msorted (mput m k v) = true := by
  induction m with
  | nil => simp [mput, msorted]
  | cons e m ih =>
    obtain ⟨k', v'⟩ := e
    obtain ⟨ha, hs⟩ := msorted_cons.mp h
    simp only [mput]
    split
    · rename_i hlt
      refine msorted_cons.mpr ⟨?_, h⟩
      intro e he
      rcases List.mem_cons.mp he with rfl | he
      · exact hlt
      · exact Nat.lt_trans hlt (ha e he)
    · split
      · rename_i heq
        subst heq
        exact msorted_cons.mpr ⟨ha, hs⟩
      · refine msorted_cons.mpr ⟨mabove_mput ha ?_, ih hs⟩
        omega

/-- A removal keeps the keys rising. -/
theorem msorted_mdel {m : AMap α} (h : msorted m = true) (k : Nat) : msorted (mdel m k) = true := by
  induction m with
  | nil => exact h
  | cons e m ih =>
    obtain ⟨k', v'⟩ := e
    obtain ⟨ha, hs⟩ := msorted_cons.mp h
    simp only [mdel]
    split
    · exact ih hs
    · exact msorted_cons.mpr ⟨mabove_mdel ha, ih hs⟩

theorem msorted_filter {m : AMap α} (h : msorted m = true) (p : Nat × α → Bool) : msorted (m.filter p) = true := by
  induction m with
  | nil => exact h
  | cons e m ih =>
    obtain ⟨k', v'⟩ := e
    obtain ⟨ha, hs⟩ := msorted_cons.mp h
    simp only [List.filter_cons]
    split
    · exact msorted_cons.mpr ⟨fun e he => ha e (List.mem_filter.mp he).1, ih hs⟩
    · exact ih hs

theorem mem_mput {m : AMap α} {k : Nat} {v : α} {e : Nat × α} (h : e ∈ mput m k v) : e = (k, v) ∨ e ∈ m := by
  induction m with
  | nil => exact .inl (List.mem_singleton.mp h)
  | cons x m ih =>
    obtain ⟨k', v'⟩ := x
    simp only [mput] at h
    split at h
    · rcases List.mem_cons.mp h with rfl | h
      · exact .inl rfl
      · exact .inr h
    · split at h
      · rcases List.mem_cons.mp h with rfl | h
        · exact .inl rfl
        · exact .inr (List.mem_cons_of_mem _ h)
      · rcases List.mem_cons.mp h with rfl | h
        · exact .inr (by simp)
        · exact (ih h).imp id (List.mem_cons_of_mem _)

theorem mem_mdel {m : AMap α} {k : Nat} {e : Nat × α} (h : e ∈ mdel m k) : e ∈ m := by
  induction m with
  | nil => exact h
  | cons x m ih =>
    obtain ⟨k', v'⟩ := x
    simp only [mdel] at h
    split at h
    · exact List.mem_cons_of_mem _ (ih h)
    · rcases List.mem_cons.mp h with rfl | h
      · simp
      · exact List.mem_cons_of_mem _ (ih h)

@[simp] theorem mcanon_nil [DecidableEq α] (d : α) : mcanon d ([] : AMap α) = true := rfl

/-- A write keeps the canonical form. -/
theorem mcanon_mputD [DecidableEq α] {d : α} {m : AMap α} (h : mcanon d m = true) (k : Nat) (v : α) :
    mcanon d (mputD d m k v) = true := by
  simp only [mcanon, Bool.and_eq_true, List.all_eq_true, decide_eq_true_eq] at h ⊢
  unfold mputD
  split
  · exact ⟨msorted_mdel h.1 k, fun e he => h.2 e (mem_mdel he)⟩
  · rename_i hv
    refine ⟨msorted_mput h.1 k v, fun e he => ?_⟩
    rcases mem_mput he with rfl | he
    · exact hv
    · exact h.2 e he

/-- Keeping some of the entries keeps the canonical form. -/
theorem mcanon_mfilter [DecidableEq α] {d : α} {m : AMap α} (h : mcanon d m = true) (p : Nat → α → Bool) :
    mcanon d (mfilter m p) = true := by
  simp only [mcanon, Bool.and_eq_true, List.all_eq_true] at h ⊢
  exact ⟨msorted_filter h.1 _, fun e he => h.2 e (List.mem_filter.mp he).1⟩

end Canonical

end Sys2Proof.Machine
end

