-- ==== Sys2Proof/Laws/State.lean ====
section
/-! SUPPORT. Laws/State.lean: the register file's laws, and what the shared operations of Flags.lean and Ops.lean leave
alone: writing a register changes the registers, raising an event, sending an interrupt, logging and counting change the
observations, sending a message changes the messages that wait. -/
namespace Sys2Proof.Machine

/-! ## The register file -/

theorem code_inj {r r' : Reg} (h : r.code = r'.code) : r = r' := by
  rw [← Reg.ofNat_ctorIdx r, ← Reg.ofNat_ctorIdx r']
  exact congrArg Reg.ofNat h

/-- Distinct registers, or distinct words of one, have distinct keys. -/
theorem regKey_ne {r r' : Reg} {i j : Nat} (hi : i < 65536) (hj : j < 65536) (h : r ≠ r' ∨ i ≠ j) :
    regKey r i ≠ regKey r' j := by
  intro hk
  unfold regKey at hk
  have hc : r.code = r'.code := by omega
  rcases h with h | h
  · exact h (code_inj hc)
  · omega

/-- A register reads as the value written. -/
@[simp] theorem regGet_regSet_same (s : State) (r : Reg) (i : Nat) (v : W64) : regGet (regSet s r i v) r i = v := by
  unfold regGet regSet
  cases isEvtReg r <;> simp

/-- A write leaves every other register, and every other word of a register array, alone. -/
theorem regGet_regSet_ne (s : State) {r r' : Reg} {i j : Nat} (v : W64) (hi : i < 65536) (hj : j < 65536)
    (h : r' ≠ r ∨ (isEvtReg r = false ∧ j ≠ i)) : regGet (regSet s r i v) r' j = regGet s r' j := by
  unfold regGet regSet
  cases hr : isEvtReg r <;> cases hr' : isEvtReg r' <;> simp only [Bool.false_eq_true, if_false, if_true]
  · apply mgetD_mputD_ne
    exact regKey_ne hj hi (h.imp id fun h => h.2)
  · have hne : r' ≠ r := by
      rcases h with h | h
      · exact h
      · exact absurd h.1 (by simp [hr])
    exact mgetD_mputD_ne _ _ _ _ fun hc => hne (code_inj hc)

/-- A field reads as the low bits written to it. -/
theorem getF_setF_same (s : State) (f : Fld) (i x : Nat) (h : f.bf.lo + f.bf.w ≤ 64) :
    getF (setF s f i x) f i = x % 2 ^ f.bf.w := by
  unfold getF setF
  rw [regGet_regSet_same, bget_bset_same _ _ _ h]

/-- A field of another register, or of another word, keeps its value. -/
theorem getF_setF_ne (s : State) (f g : Fld) (i j x : Nat) (hi : i < 65536) (hj : j < 65536)
    (h : g.reg ≠ f.reg ∨ (isEvtReg f.reg = false ∧ j ≠ i)) : getF (setF s f i x) g j = getF s g j := by
  unfold getF setF
  rw [regGet_regSet_ne s _ hi hj h]

/-- A field apart from the one written keeps its value. -/
theorem getF_setF_apart (s : State) (f g : Fld) (i x : Nat) (hr : g.reg = f.reg) (h : f.bf.lo + f.bf.w ≤ 64)
    (hd : g.bf.lo + g.bf.w ≤ f.bf.lo ∨ f.bf.lo + f.bf.w ≤ g.bf.lo) : getF (setF s f i x) g i = getF s g i := by
  unfold getF setF
  rw [hr, regGet_regSet_same, bget_bset_apart _ _ _ _ h hd]

/-! ## What the shared operations leave alone -/

@[simp] theorem regSet_pending (s : State) (r : Reg) (i : Nat) (v : W64) : (regSet s r i v).pending = s.pending := by
  unfold regSet; split <;> rfl

@[simp] theorem regSet_txq (s : State) (r : Reg) (i : Nat) (v : W64) : (regSet s r i v).txq = s.txq := by
  unfold regSet; split <;> rfl

@[simp] theorem regSet_store (s : State) (r : Reg) (i : Nat) (v : W64) : (regSet s r i v).store = s.store := by
  unfold regSet; split <;> rfl

@[simp] theorem regSet_home (s : State) (r : Reg) (i : Nat) (v : W64) : (regSet s r i v).home = s.home := by
  unfold regSet; split <;> rfl

@[simp] theorem regSet_xlt (s : State) (r : Reg) (i : Nat) (v : W64) : (regSet s r i v).xlt = s.xlt := by
  unfold regSet; split <;> rfl

@[simp] theorem regSet_que (s : State) (r : Reg) (i : Nat) (v : W64) : (regSet s r i v).que = s.que := by
  unfold regSet; split <;> rfl

@[simp] theorem regSet_eng (s : State) (r : Reg) (i : Nat) (v : W64) : (regSet s r i v).eng = s.eng := by
  unfold regSet; split <;> rfl

@[simp] theorem regSet_arr (s : State) (r : Reg) (i : Nat) (v : W64) : (regSet s r i v).arr = s.arr := by
  unfold regSet; split <;> rfl

@[simp] theorem regSet_kv (s : State) (r : Reg) (i : Nat) (v : W64) : (regSet s r i v).kv = s.kv := by
  unfold regSet; split <;> rfl

@[simp] theorem regSet_nmo (s : State) (r : Reg) (i : Nat) (v : W64) : (regSet s r i v).nmo = s.nmo := by
  unfold regSet; split <;> rfl

@[simp] theorem regSet_emb (s : State) (r : Reg) (i : Nat) (v : W64) : (regSet s r i v).emb = s.emb := by
  unfold regSet; split <;> rfl

@[simp] theorem regSet_vsc (s : State) (r : Reg) (i : Nat) (v : W64) : (regSet s r i v).vsc = s.vsc := by
  unfold regSet; split <;> rfl

@[simp] theorem regSet_tim (s : State) (r : Reg) (i : Nat) (v : W64) : (regSet s r i v).tim = s.tim := by
  unfold regSet; split <;> rfl

@[simp] theorem regSet_lnk (s : State) (r : Reg) (i : Nat) (v : W64) : (regSet s r i v).lnk = s.lnk := by
  unfold regSet; split <;> rfl

@[simp] theorem regSet_sec (s : State) (r : Reg) (i : Nat) (v : W64) : (regSet s r i v).sec = s.sec := by
  unfold regSet; split <;> rfl

@[simp] theorem regSet_red (s : State) (r : Reg) (i : Nat) (v : W64) : (regSet s r i v).red = s.red := by
  unfold regSet; split <;> rfl

@[simp] theorem regSet_pwr (s : State) (r : Reg) (i : Nat) (v : W64) : (regSet s r i v).pwr = s.pwr := by
  unfold regSet; split <;> rfl

@[simp] theorem regSet_hst (s : State) (r : Reg) (i : Nat) (v : W64) : (regSet s r i v).hst = s.hst := by
  unfold regSet; split <;> rfl

@[simp] theorem regSet_fresh (s : State) (r : Reg) (i : Nat) (v : W64) : (regSet s r i v).fresh = s.fresh := by
  unfold regSet; split <;> rfl

@[simp] theorem setF_pending (s : State) (f : Fld) (i x : Nat) : (setF s f i x).pending = s.pending := by
  unfold setF; simp

@[simp] theorem setF_txq (s : State) (f : Fld) (i x : Nat) : (setF s f i x).txq = s.txq := by
  unfold setF; simp

@[simp] theorem setF_store (s : State) (f : Fld) (i x : Nat) : (setF s f i x).store = s.store := by
  unfold setF; simp

@[simp] theorem setF_home (s : State) (f : Fld) (i x : Nat) : (setF s f i x).home = s.home := by
  unfold setF; simp

@[simp] theorem setF_xlt (s : State) (f : Fld) (i x : Nat) : (setF s f i x).xlt = s.xlt := by
  unfold setF; simp

@[simp] theorem setF_que (s : State) (f : Fld) (i x : Nat) : (setF s f i x).que = s.que := by
  unfold setF; simp

@[simp] theorem setF_eng (s : State) (f : Fld) (i x : Nat) : (setF s f i x).eng = s.eng := by
  unfold setF; simp

@[simp] theorem setF_arr (s : State) (f : Fld) (i x : Nat) : (setF s f i x).arr = s.arr := by
  unfold setF; simp

@[simp] theorem setF_kv (s : State) (f : Fld) (i x : Nat) : (setF s f i x).kv = s.kv := by
  unfold setF; simp

@[simp] theorem setF_nmo (s : State) (f : Fld) (i x : Nat) : (setF s f i x).nmo = s.nmo := by
  unfold setF; simp

@[simp] theorem setF_emb (s : State) (f : Fld) (i x : Nat) : (setF s f i x).emb = s.emb := by
  unfold setF; simp

@[simp] theorem setF_vsc (s : State) (f : Fld) (i x : Nat) : (setF s f i x).vsc = s.vsc := by
  unfold setF; simp

@[simp] theorem setF_tim (s : State) (f : Fld) (i x : Nat) : (setF s f i x).tim = s.tim := by
  unfold setF; simp

@[simp] theorem setF_lnk (s : State) (f : Fld) (i x : Nat) : (setF s f i x).lnk = s.lnk := by
  unfold setF; simp

@[simp] theorem setF_sec (s : State) (f : Fld) (i x : Nat) : (setF s f i x).sec = s.sec := by
  unfold setF; simp

@[simp] theorem setF_red (s : State) (f : Fld) (i x : Nat) : (setF s f i x).red = s.red := by
  unfold setF; simp

@[simp] theorem setF_pwr (s : State) (f : Fld) (i x : Nat) : (setF s f i x).pwr = s.pwr := by
  unfold setF; simp

@[simp] theorem setF_hst (s : State) (f : Fld) (i x : Nat) : (setF s f i x).hst = s.hst := by
  unfold setF; simp

@[simp] theorem setF_fresh (s : State) (f : Fld) (i x : Nat) : (setF s f i x).fresh = s.fresh := by
  unfold setF; simp

@[simp] theorem satF_pending (s : State) (f : Fld) (i k : Nat) : (satF s f i k).pending = s.pending := by
  unfold satF; simp

@[simp] theorem satF_txq (s : State) (f : Fld) (i k : Nat) : (satF s f i k).txq = s.txq := by
  unfold satF; simp

@[simp] theorem satF_store (s : State) (f : Fld) (i k : Nat) : (satF s f i k).store = s.store := by
  unfold satF; simp

@[simp] theorem satF_home (s : State) (f : Fld) (i k : Nat) : (satF s f i k).home = s.home := by
  unfold satF; simp

@[simp] theorem satF_xlt (s : State) (f : Fld) (i k : Nat) : (satF s f i k).xlt = s.xlt := by
  unfold satF; simp

@[simp] theorem satF_que (s : State) (f : Fld) (i k : Nat) : (satF s f i k).que = s.que := by
  unfold satF; simp

@[simp] theorem satF_eng (s : State) (f : Fld) (i k : Nat) : (satF s f i k).eng = s.eng := by
  unfold satF; simp

@[simp] theorem satF_arr (s : State) (f : Fld) (i k : Nat) : (satF s f i k).arr = s.arr := by
  unfold satF; simp

@[simp] theorem satF_kv (s : State) (f : Fld) (i k : Nat) : (satF s f i k).kv = s.kv := by
  unfold satF; simp

@[simp] theorem satF_nmo (s : State) (f : Fld) (i k : Nat) : (satF s f i k).nmo = s.nmo := by
  unfold satF; simp

@[simp] theorem satF_emb (s : State) (f : Fld) (i k : Nat) : (satF s f i k).emb = s.emb := by
  unfold satF; simp

@[simp] theorem satF_vsc (s : State) (f : Fld) (i k : Nat) : (satF s f i k).vsc = s.vsc := by
  unfold satF; simp

@[simp] theorem satF_tim (s : State) (f : Fld) (i k : Nat) : (satF s f i k).tim = s.tim := by
  unfold satF; simp

@[simp] theorem satF_lnk (s : State) (f : Fld) (i k : Nat) : (satF s f i k).lnk = s.lnk := by
  unfold satF; simp

@[simp] theorem satF_sec (s : State) (f : Fld) (i k : Nat) : (satF s f i k).sec = s.sec := by
  unfold satF; simp

@[simp] theorem satF_red (s : State) (f : Fld) (i k : Nat) : (satF s f i k).red = s.red := by
  unfold satF; simp

@[simp] theorem satF_pwr (s : State) (f : Fld) (i k : Nat) : (satF s f i k).pwr = s.pwr := by
  unfold satF; simp

@[simp] theorem satF_hst (s : State) (f : Fld) (i k : Nat) : (satF s f i k).hst = s.hst := by
  unfold satF; simp

@[simp] theorem satF_fresh (s : State) (f : Fld) (i k : Nat) : (satF s f i k).fresh = s.fresh := by
  unfold satF; simp

@[simp] theorem setFn_pending (s : State) (n : Nat) (f : Fn) : (setFn s n f).pending = s.pending := by
  rfl

@[simp] theorem setFn_regs (s : State) (n : Nat) (f : Fn) : (setFn s n f).regs = s.regs := by
  rfl

@[simp] theorem setFn_txq (s : State) (n : Nat) (f : Fn) : (setFn s n f).txq = s.txq := by
  rfl

@[simp] theorem setFn_store (s : State) (n : Nat) (f : Fn) : (setFn s n f).store = s.store := by
  rfl

@[simp] theorem setFn_home (s : State) (n : Nat) (f : Fn) : (setFn s n f).home = s.home := by
  rfl

@[simp] theorem setFn_xlt (s : State) (n : Nat) (f : Fn) : (setFn s n f).xlt = s.xlt := by
  rfl

@[simp] theorem setFn_que (s : State) (n : Nat) (f : Fn) : (setFn s n f).que = s.que := by
  rfl

@[simp] theorem setFn_eng (s : State) (n : Nat) (f : Fn) : (setFn s n f).eng = s.eng := by
  rfl

@[simp] theorem setFn_arr (s : State) (n : Nat) (f : Fn) : (setFn s n f).arr = s.arr := by
  rfl

@[simp] theorem setFn_kv (s : State) (n : Nat) (f : Fn) : (setFn s n f).kv = s.kv := by
  rfl

@[simp] theorem setFn_nmo (s : State) (n : Nat) (f : Fn) : (setFn s n f).nmo = s.nmo := by
  rfl

@[simp] theorem setFn_emb (s : State) (n : Nat) (f : Fn) : (setFn s n f).emb = s.emb := by
  rfl

@[simp] theorem setFn_vsc (s : State) (n : Nat) (f : Fn) : (setFn s n f).vsc = s.vsc := by
  rfl

@[simp] theorem setFn_tim (s : State) (n : Nat) (f : Fn) : (setFn s n f).tim = s.tim := by
  rfl

@[simp] theorem setFn_lnk (s : State) (n : Nat) (f : Fn) : (setFn s n f).lnk = s.lnk := by
  rfl

@[simp] theorem setFn_sec (s : State) (n : Nat) (f : Fn) : (setFn s n f).sec = s.sec := by
  rfl

@[simp] theorem setFn_red (s : State) (n : Nat) (f : Fn) : (setFn s n f).red = s.red := by
  rfl

@[simp] theorem setFn_pwr (s : State) (n : Nat) (f : Fn) : (setFn s n f).pwr = s.pwr := by
  rfl

@[simp] theorem setFn_hst (s : State) (n : Nat) (f : Fn) : (setFn s n f).hst = s.hst := by
  rfl

@[simp] theorem setFn_fresh (s : State) (n : Nat) (f : Fn) : (setFn s n f).fresh = s.fresh := by
  rfl

@[simp] theorem emit_pending (s : State) (o : Out) : (emit s o).pending = s.pending := by
  rfl

@[simp] theorem emit_regs (s : State) (o : Out) : (emit s o).regs = s.regs := by
  rfl

@[simp] theorem emit_txq (s : State) (o : Out) : (emit s o).txq = s.txq := by
  rfl

@[simp] theorem emit_store (s : State) (o : Out) : (emit s o).store = s.store := by
  rfl

@[simp] theorem emit_home (s : State) (o : Out) : (emit s o).home = s.home := by
  rfl

@[simp] theorem emit_xlt (s : State) (o : Out) : (emit s o).xlt = s.xlt := by
  rfl

@[simp] theorem emit_que (s : State) (o : Out) : (emit s o).que = s.que := by
  rfl

@[simp] theorem emit_eng (s : State) (o : Out) : (emit s o).eng = s.eng := by
  rfl

@[simp] theorem emit_arr (s : State) (o : Out) : (emit s o).arr = s.arr := by
  rfl

@[simp] theorem emit_kv (s : State) (o : Out) : (emit s o).kv = s.kv := by
  rfl

@[simp] theorem emit_nmo (s : State) (o : Out) : (emit s o).nmo = s.nmo := by
  rfl

@[simp] theorem emit_emb (s : State) (o : Out) : (emit s o).emb = s.emb := by
  rfl

@[simp] theorem emit_vsc (s : State) (o : Out) : (emit s o).vsc = s.vsc := by
  rfl

@[simp] theorem emit_tim (s : State) (o : Out) : (emit s o).tim = s.tim := by
  rfl

@[simp] theorem emit_lnk (s : State) (o : Out) : (emit s o).lnk = s.lnk := by
  rfl

@[simp] theorem emit_sec (s : State) (o : Out) : (emit s o).sec = s.sec := by
  rfl

@[simp] theorem emit_red (s : State) (o : Out) : (emit s o).red = s.red := by
  rfl

@[simp] theorem emit_pwr (s : State) (o : Out) : (emit s o).pwr = s.pwr := by
  rfl

@[simp] theorem emit_hst (s : State) (o : Out) : (emit s o).hst = s.hst := by
  rfl

@[simp] theorem emit_fresh (s : State) (o : Out) : (emit s o).fresh = s.fresh := by
  rfl

@[simp] theorem ledgerCore_pending (s : State) (c v : Nat) (t : Option Nat) (a : List Nat) : (ledgerCore s c v t a).pending = s.pending := by
  unfold ledgerCore; dsimp only; repeat' split
  all_goals rfl

@[simp] theorem ledgerCore_regs (s : State) (c v : Nat) (t : Option Nat) (a : List Nat) : (ledgerCore s c v t a).regs = s.regs := by
  unfold ledgerCore; dsimp only; repeat' split
  all_goals rfl

@[simp] theorem ledgerCore_txq (s : State) (c v : Nat) (t : Option Nat) (a : List Nat) : (ledgerCore s c v t a).txq = s.txq := by
  unfold ledgerCore; dsimp only; repeat' split
  all_goals rfl

@[simp] theorem ledgerCore_store (s : State) (c v : Nat) (t : Option Nat) (a : List Nat) : (ledgerCore s c v t a).store = s.store := by
  unfold ledgerCore; dsimp only; repeat' split
  all_goals rfl

@[simp] theorem ledgerCore_home (s : State) (c v : Nat) (t : Option Nat) (a : List Nat) : (ledgerCore s c v t a).home = s.home := by
  unfold ledgerCore; dsimp only; repeat' split
  all_goals rfl

@[simp] theorem ledgerCore_xlt (s : State) (c v : Nat) (t : Option Nat) (a : List Nat) : (ledgerCore s c v t a).xlt = s.xlt := by
  unfold ledgerCore; dsimp only; repeat' split
  all_goals rfl

@[simp] theorem ledgerCore_que (s : State) (c v : Nat) (t : Option Nat) (a : List Nat) : (ledgerCore s c v t a).que = s.que := by
  unfold ledgerCore; dsimp only; repeat' split
  all_goals rfl

@[simp] theorem ledgerCore_eng (s : State) (c v : Nat) (t : Option Nat) (a : List Nat) : (ledgerCore s c v t a).eng = s.eng := by
  unfold ledgerCore; dsimp only; repeat' split
  all_goals rfl

@[simp] theorem ledgerCore_arr (s : State) (c v : Nat) (t : Option Nat) (a : List Nat) : (ledgerCore s c v t a).arr = s.arr := by
  unfold ledgerCore; dsimp only; repeat' split
  all_goals rfl

@[simp] theorem ledgerCore_kv (s : State) (c v : Nat) (t : Option Nat) (a : List Nat) : (ledgerCore s c v t a).kv = s.kv := by
  unfold ledgerCore; dsimp only; repeat' split
  all_goals rfl

@[simp] theorem ledgerCore_nmo (s : State) (c v : Nat) (t : Option Nat) (a : List Nat) : (ledgerCore s c v t a).nmo = s.nmo := by
  unfold ledgerCore; dsimp only; repeat' split
  all_goals rfl

@[simp] theorem ledgerCore_emb (s : State) (c v : Nat) (t : Option Nat) (a : List Nat) : (ledgerCore s c v t a).emb = s.emb := by
  unfold ledgerCore; dsimp only; repeat' split
  all_goals rfl

@[simp] theorem ledgerCore_vsc (s : State) (c v : Nat) (t : Option Nat) (a : List Nat) : (ledgerCore s c v t a).vsc = s.vsc := by
  unfold ledgerCore; dsimp only; repeat' split
  all_goals rfl

@[simp] theorem ledgerCore_tim (s : State) (c v : Nat) (t : Option Nat) (a : List Nat) : (ledgerCore s c v t a).tim = s.tim := by
  unfold ledgerCore; dsimp only; repeat' split
  all_goals rfl

@[simp] theorem ledgerCore_lnk (s : State) (c v : Nat) (t : Option Nat) (a : List Nat) : (ledgerCore s c v t a).lnk = s.lnk := by
  unfold ledgerCore; dsimp only; repeat' split
  all_goals rfl

@[simp] theorem ledgerCore_sec (s : State) (c v : Nat) (t : Option Nat) (a : List Nat) : (ledgerCore s c v t a).sec = s.sec := by
  unfold ledgerCore; dsimp only; repeat' split
  all_goals rfl

@[simp] theorem ledgerCore_red (s : State) (c v : Nat) (t : Option Nat) (a : List Nat) : (ledgerCore s c v t a).red = s.red := by
  unfold ledgerCore; dsimp only; repeat' split
  all_goals rfl

@[simp] theorem ledgerCore_pwr (s : State) (c v : Nat) (t : Option Nat) (a : List Nat) : (ledgerCore s c v t a).pwr = s.pwr := by
  unfold ledgerCore; dsimp only; repeat' split
  all_goals rfl

@[simp] theorem ledgerCore_hst (s : State) (c v : Nat) (t : Option Nat) (a : List Nat) : (ledgerCore s c v t a).hst = s.hst := by
  unfold ledgerCore; dsimp only; repeat' split
  all_goals rfl

@[simp] theorem ledgerCore_fresh (s : State) (c v : Nat) (t : Option Nat) (a : List Nat) : (ledgerCore s c v t a).fresh = s.fresh := by
  unfold ledgerCore; dsimp only; repeat' split
  all_goals rfl

@[simp] theorem msix_pending (s : State) (n v o : Nat) : (msix s n v o).pending = s.pending := by
  unfold msix; dsimp only; repeat' split
  all_goals simp

@[simp] theorem msix_regs (s : State) (n v o : Nat) : (msix s n v o).regs = s.regs := by
  unfold msix; dsimp only; repeat' split
  all_goals simp

@[simp] theorem msix_txq (s : State) (n v o : Nat) : (msix s n v o).txq = s.txq := by
  unfold msix; dsimp only; repeat' split
  all_goals simp

@[simp] theorem msix_store (s : State) (n v o : Nat) : (msix s n v o).store = s.store := by
  unfold msix; dsimp only; repeat' split
  all_goals simp

@[simp] theorem msix_home (s : State) (n v o : Nat) : (msix s n v o).home = s.home := by
  unfold msix; dsimp only; repeat' split
  all_goals simp

@[simp] theorem msix_xlt (s : State) (n v o : Nat) : (msix s n v o).xlt = s.xlt := by
  unfold msix; dsimp only; repeat' split
  all_goals simp

@[simp] theorem msix_que (s : State) (n v o : Nat) : (msix s n v o).que = s.que := by
  unfold msix; dsimp only; repeat' split
  all_goals simp

@[simp] theorem msix_eng (s : State) (n v o : Nat) : (msix s n v o).eng = s.eng := by
  unfold msix; dsimp only; repeat' split
  all_goals simp

@[simp] theorem msix_arr (s : State) (n v o : Nat) : (msix s n v o).arr = s.arr := by
  unfold msix; dsimp only; repeat' split
  all_goals simp

@[simp] theorem msix_kv (s : State) (n v o : Nat) : (msix s n v o).kv = s.kv := by
  unfold msix; dsimp only; repeat' split
  all_goals simp

@[simp] theorem msix_nmo (s : State) (n v o : Nat) : (msix s n v o).nmo = s.nmo := by
  unfold msix; dsimp only; repeat' split
  all_goals simp

@[simp] theorem msix_emb (s : State) (n v o : Nat) : (msix s n v o).emb = s.emb := by
  unfold msix; dsimp only; repeat' split
  all_goals simp

@[simp] theorem msix_vsc (s : State) (n v o : Nat) : (msix s n v o).vsc = s.vsc := by
  unfold msix; dsimp only; repeat' split
  all_goals simp

@[simp] theorem msix_tim (s : State) (n v o : Nat) : (msix s n v o).tim = s.tim := by
  unfold msix; dsimp only; repeat' split
  all_goals simp

@[simp] theorem msix_lnk (s : State) (n v o : Nat) : (msix s n v o).lnk = s.lnk := by
  unfold msix; dsimp only; repeat' split
  all_goals simp

@[simp] theorem msix_sec (s : State) (n v o : Nat) : (msix s n v o).sec = s.sec := by
  unfold msix; dsimp only; repeat' split
  all_goals simp

@[simp] theorem msix_red (s : State) (n v o : Nat) : (msix s n v o).red = s.red := by
  unfold msix; dsimp only; repeat' split
  all_goals simp

@[simp] theorem msix_pwr (s : State) (n v o : Nat) : (msix s n v o).pwr = s.pwr := by
  unfold msix; dsimp only; repeat' split
  all_goals simp

@[simp] theorem msix_hst (s : State) (n v o : Nat) : (msix s n v o).hst = s.hst := by
  unfold msix; dsimp only; repeat' split
  all_goals simp

@[simp] theorem msix_fresh (s : State) (n v o : Nat) : (msix s n v o).fresh = s.fresh := by
  unfold msix; dsimp only; repeat' split
  all_goals simp

theorem isEvtReg_regs (s : State) (r : Reg) (i : Nat) (v : W64) (h : isEvtReg r = true) : (regSet s r i v).regs = s.regs := by
  unfold regSet; simp [h]

@[simp] theorem ledger_pending (s : State) (c v : Nat) (t : Option Nat) (a : List Nat) : (ledger s c v t a).pending = s.pending := by
  unfold ledger; dsimp only; split <;> simp

@[simp] theorem ledger_regs (s : State) (c v : Nat) (t : Option Nat) (a : List Nat) : (ledger s c v t a).regs = s.regs := by
  unfold ledger; dsimp only; split <;> simp

@[simp] theorem ledger_txq (s : State) (c v : Nat) (t : Option Nat) (a : List Nat) : (ledger s c v t a).txq = s.txq := by
  unfold ledger; dsimp only; split <;> simp

@[simp] theorem ledger_store (s : State) (c v : Nat) (t : Option Nat) (a : List Nat) : (ledger s c v t a).store = s.store := by
  unfold ledger; dsimp only; split <;> simp

@[simp] theorem ledger_home (s : State) (c v : Nat) (t : Option Nat) (a : List Nat) : (ledger s c v t a).home = s.home := by
  unfold ledger; dsimp only; split <;> simp

@[simp] theorem ledger_xlt (s : State) (c v : Nat) (t : Option Nat) (a : List Nat) : (ledger s c v t a).xlt = s.xlt := by
  unfold ledger; dsimp only; split <;> simp

@[simp] theorem ledger_que (s : State) (c v : Nat) (t : Option Nat) (a : List Nat) : (ledger s c v t a).que = s.que := by
  unfold ledger; dsimp only; split <;> simp

@[simp] theorem ledger_eng (s : State) (c v : Nat) (t : Option Nat) (a : List Nat) : (ledger s c v t a).eng = s.eng := by
  unfold ledger; dsimp only; split <;> simp

@[simp] theorem ledger_arr (s : State) (c v : Nat) (t : Option Nat) (a : List Nat) : (ledger s c v t a).arr = s.arr := by
  unfold ledger; dsimp only; split <;> simp

@[simp] theorem ledger_kv (s : State) (c v : Nat) (t : Option Nat) (a : List Nat) : (ledger s c v t a).kv = s.kv := by
  unfold ledger; dsimp only; split <;> simp

@[simp] theorem ledger_nmo (s : State) (c v : Nat) (t : Option Nat) (a : List Nat) : (ledger s c v t a).nmo = s.nmo := by
  unfold ledger; dsimp only; split <;> simp

@[simp] theorem ledger_emb (s : State) (c v : Nat) (t : Option Nat) (a : List Nat) : (ledger s c v t a).emb = s.emb := by
  unfold ledger; dsimp only; split <;> simp

@[simp] theorem ledger_vsc (s : State) (c v : Nat) (t : Option Nat) (a : List Nat) : (ledger s c v t a).vsc = s.vsc := by
  unfold ledger; dsimp only; split <;> simp

@[simp] theorem ledger_tim (s : State) (c v : Nat) (t : Option Nat) (a : List Nat) : (ledger s c v t a).tim = s.tim := by
  unfold ledger; dsimp only; split <;> simp

@[simp] theorem ledger_lnk (s : State) (c v : Nat) (t : Option Nat) (a : List Nat) : (ledger s c v t a).lnk = s.lnk := by
  unfold ledger; dsimp only; split <;> simp

@[simp] theorem ledger_sec (s : State) (c v : Nat) (t : Option Nat) (a : List Nat) : (ledger s c v t a).sec = s.sec := by
  unfold ledger; dsimp only; split <;> simp

@[simp] theorem ledger_red (s : State) (c v : Nat) (t : Option Nat) (a : List Nat) : (ledger s c v t a).red = s.red := by
  unfold ledger; dsimp only; split <;> simp

@[simp] theorem ledger_pwr (s : State) (c v : Nat) (t : Option Nat) (a : List Nat) : (ledger s c v t a).pwr = s.pwr := by
  unfold ledger; dsimp only; split <;> simp

@[simp] theorem ledger_hst (s : State) (c v : Nat) (t : Option Nat) (a : List Nat) : (ledger s c v t a).hst = s.hst := by
  unfold ledger; dsimp only; split <;> simp

@[simp] theorem ledger_fresh (s : State) (c v : Nat) (t : Option Nat) (a : List Nat) : (ledger s c v t a).fresh = s.fresh := by
  unfold ledger; dsimp only; split <;> simp

@[simp] theorem ledgerFF_pending (s : State) (b a : Nat) (t : Option Nat) : (ledgerFF s b a t).pending = s.pending := by
  unfold ledgerFF; simp

@[simp] theorem ledgerFF_regs (s : State) (b a : Nat) (t : Option Nat) : (ledgerFF s b a t).regs = s.regs := by
  unfold ledgerFF; simp

@[simp] theorem ledgerFF_txq (s : State) (b a : Nat) (t : Option Nat) : (ledgerFF s b a t).txq = s.txq := by
  unfold ledgerFF; simp

@[simp] theorem ledgerFF_store (s : State) (b a : Nat) (t : Option Nat) : (ledgerFF s b a t).store = s.store := by
  unfold ledgerFF; simp

@[simp] theorem ledgerFF_home (s : State) (b a : Nat) (t : Option Nat) : (ledgerFF s b a t).home = s.home := by
  unfold ledgerFF; simp

@[simp] theorem ledgerFF_xlt (s : State) (b a : Nat) (t : Option Nat) : (ledgerFF s b a t).xlt = s.xlt := by
  unfold ledgerFF; simp

@[simp] theorem ledgerFF_que (s : State) (b a : Nat) (t : Option Nat) : (ledgerFF s b a t).que = s.que := by
  unfold ledgerFF; simp

@[simp] theorem ledgerFF_eng (s : State) (b a : Nat) (t : Option Nat) : (ledgerFF s b a t).eng = s.eng := by
  unfold ledgerFF; simp

@[simp] theorem ledgerFF_arr (s : State) (b a : Nat) (t : Option Nat) : (ledgerFF s b a t).arr = s.arr := by
  unfold ledgerFF; simp

@[simp] theorem ledgerFF_kv (s : State) (b a : Nat) (t : Option Nat) : (ledgerFF s b a t).kv = s.kv := by
  unfold ledgerFF; simp

@[simp] theorem ledgerFF_nmo (s : State) (b a : Nat) (t : Option Nat) : (ledgerFF s b a t).nmo = s.nmo := by
  unfold ledgerFF; simp

@[simp] theorem ledgerFF_emb (s : State) (b a : Nat) (t : Option Nat) : (ledgerFF s b a t).emb = s.emb := by
  unfold ledgerFF; simp

@[simp] theorem ledgerFF_vsc (s : State) (b a : Nat) (t : Option Nat) : (ledgerFF s b a t).vsc = s.vsc := by
  unfold ledgerFF; simp

@[simp] theorem ledgerFF_tim (s : State) (b a : Nat) (t : Option Nat) : (ledgerFF s b a t).tim = s.tim := by
  unfold ledgerFF; simp

@[simp] theorem ledgerFF_lnk (s : State) (b a : Nat) (t : Option Nat) : (ledgerFF s b a t).lnk = s.lnk := by
  unfold ledgerFF; simp

@[simp] theorem ledgerFF_sec (s : State) (b a : Nat) (t : Option Nat) : (ledgerFF s b a t).sec = s.sec := by
  unfold ledgerFF; simp

@[simp] theorem ledgerFF_red (s : State) (b a : Nat) (t : Option Nat) : (ledgerFF s b a t).red = s.red := by
  unfold ledgerFF; simp

@[simp] theorem ledgerFF_pwr (s : State) (b a : Nat) (t : Option Nat) : (ledgerFF s b a t).pwr = s.pwr := by
  unfold ledgerFF; simp

@[simp] theorem ledgerFF_hst (s : State) (b a : Nat) (t : Option Nat) : (ledgerFF s b a t).hst = s.hst := by
  unfold ledgerFF; simp

@[simp] theorem ledgerFF_fresh (s : State) (b a : Nat) (t : Option Nat) : (ledgerFF s b a t).fresh = s.fresh := by
  unfold ledgerFF; simp

@[simp] theorem alertEdge_pending (s t : State) : (alertEdge s t).pending = t.pending := by
  unfold alertEdge; split <;> simp

@[simp] theorem alertEdge_regs (s t : State) : (alertEdge s t).regs = t.regs := by
  unfold alertEdge; split <;> simp

@[simp] theorem alertEdge_txq (s t : State) : (alertEdge s t).txq = t.txq := by
  unfold alertEdge; split <;> simp

@[simp] theorem alertEdge_store (s t : State) : (alertEdge s t).store = t.store := by
  unfold alertEdge; split <;> simp

@[simp] theorem alertEdge_home (s t : State) : (alertEdge s t).home = t.home := by
  unfold alertEdge; split <;> simp

@[simp] theorem alertEdge_xlt (s t : State) : (alertEdge s t).xlt = t.xlt := by
  unfold alertEdge; split <;> simp

@[simp] theorem alertEdge_que (s t : State) : (alertEdge s t).que = t.que := by
  unfold alertEdge; split <;> simp

@[simp] theorem alertEdge_eng (s t : State) : (alertEdge s t).eng = t.eng := by
  unfold alertEdge; split <;> simp

@[simp] theorem alertEdge_arr (s t : State) : (alertEdge s t).arr = t.arr := by
  unfold alertEdge; split <;> simp

@[simp] theorem alertEdge_kv (s t : State) : (alertEdge s t).kv = t.kv := by
  unfold alertEdge; split <;> simp

@[simp] theorem alertEdge_nmo (s t : State) : (alertEdge s t).nmo = t.nmo := by
  unfold alertEdge; split <;> simp

@[simp] theorem alertEdge_emb (s t : State) : (alertEdge s t).emb = t.emb := by
  unfold alertEdge; split <;> simp

@[simp] theorem alertEdge_vsc (s t : State) : (alertEdge s t).vsc = t.vsc := by
  unfold alertEdge; split <;> simp

@[simp] theorem alertEdge_tim (s t : State) : (alertEdge s t).tim = t.tim := by
  unfold alertEdge; split <;> simp

@[simp] theorem alertEdge_lnk (s t : State) : (alertEdge s t).lnk = t.lnk := by
  unfold alertEdge; split <;> simp

@[simp] theorem alertEdge_sec (s t : State) : (alertEdge s t).sec = t.sec := by
  unfold alertEdge; split <;> simp

@[simp] theorem alertEdge_red (s t : State) : (alertEdge s t).red = t.red := by
  unfold alertEdge; split <;> simp

@[simp] theorem alertEdge_pwr (s t : State) : (alertEdge s t).pwr = t.pwr := by
  unfold alertEdge; split <;> simp

@[simp] theorem alertEdge_hst (s t : State) : (alertEdge s t).hst = t.hst := by
  unfold alertEdge; split <;> simp

@[simp] theorem alertEdge_fresh (s t : State) : (alertEdge s t).fresh = t.fresh := by
  unfold alertEdge; split <;> simp

@[simp] theorem setEvt_pending (s : State) (f : Fld) : (setEvt s f).pending = s.pending := by
  unfold setEvt; dsimp only; split
  · rfl
  · split <;> simp

@[simp] theorem setEvt_txq (s : State) (f : Fld) : (setEvt s f).txq = s.txq := by
  unfold setEvt; dsimp only; split
  · rfl
  · split <;> simp

@[simp] theorem setEvt_store (s : State) (f : Fld) : (setEvt s f).store = s.store := by
  unfold setEvt; dsimp only; split
  · rfl
  · split <;> simp

@[simp] theorem setEvt_home (s : State) (f : Fld) : (setEvt s f).home = s.home := by
  unfold setEvt; dsimp only; split
  · rfl
  · split <;> simp

@[simp] theorem setEvt_xlt (s : State) (f : Fld) : (setEvt s f).xlt = s.xlt := by
  unfold setEvt; dsimp only; split
  · rfl
  · split <;> simp

@[simp] theorem setEvt_que (s : State) (f : Fld) : (setEvt s f).que = s.que := by
  unfold setEvt; dsimp only; split
  · rfl
  · split <;> simp

@[simp] theorem setEvt_eng (s : State) (f : Fld) : (setEvt s f).eng = s.eng := by
  unfold setEvt; dsimp only; split
  · rfl
  · split <;> simp

@[simp] theorem setEvt_arr (s : State) (f : Fld) : (setEvt s f).arr = s.arr := by
  unfold setEvt; dsimp only; split
  · rfl
  · split <;> simp

@[simp] theorem setEvt_kv (s : State) (f : Fld) : (setEvt s f).kv = s.kv := by
  unfold setEvt; dsimp only; split
  · rfl
  · split <;> simp

@[simp] theorem setEvt_nmo (s : State) (f : Fld) : (setEvt s f).nmo = s.nmo := by
  unfold setEvt; dsimp only; split
  · rfl
  · split <;> simp

@[simp] theorem setEvt_emb (s : State) (f : Fld) : (setEvt s f).emb = s.emb := by
  unfold setEvt; dsimp only; split
  · rfl
  · split <;> simp

@[simp] theorem setEvt_vsc (s : State) (f : Fld) : (setEvt s f).vsc = s.vsc := by
  unfold setEvt; dsimp only; split
  · rfl
  · split <;> simp

@[simp] theorem setEvt_tim (s : State) (f : Fld) : (setEvt s f).tim = s.tim := by
  unfold setEvt; dsimp only; split
  · rfl
  · split <;> simp

@[simp] theorem setEvt_lnk (s : State) (f : Fld) : (setEvt s f).lnk = s.lnk := by
  unfold setEvt; dsimp only; split
  · rfl
  · split <;> simp

@[simp] theorem setEvt_sec (s : State) (f : Fld) : (setEvt s f).sec = s.sec := by
  unfold setEvt; dsimp only; split
  · rfl
  · split <;> simp

@[simp] theorem setEvt_red (s : State) (f : Fld) : (setEvt s f).red = s.red := by
  unfold setEvt; dsimp only; split
  · rfl
  · split <;> simp

@[simp] theorem setEvt_pwr (s : State) (f : Fld) : (setEvt s f).pwr = s.pwr := by
  unfold setEvt; dsimp only; split
  · rfl
  · split <;> simp

@[simp] theorem setEvt_hst (s : State) (f : Fld) : (setEvt s f).hst = s.hst := by
  unfold setEvt; dsimp only; split
  · rfl
  · split <;> simp

@[simp] theorem setEvt_fresh (s : State) (f : Fld) : (setEvt s f).fresh = s.fresh := by
  unfold setEvt; dsimp only; split
  · rfl
  · split <;> simp

/-- Setting a bit of an event register changes the observations alone. -/
theorem setEvt_regs (s : State) (f : Fld) (h : isEvtReg f.reg = true) : (setEvt s f).regs = s.regs := by
  unfold setEvt; dsimp only; split
  · rfl
  · split <;> simp only [msix_regs, alertEdge_regs] <;> unfold setF <;> exact isEvtReg_regs _ _ _ _ h

@[simp] theorem hostWrite_pending (s : State) (n a : Nat) (b : List Byte) : (hostWrite s n a b).pending = s.pending := by
  unfold hostWrite; split <;> simp

@[simp] theorem hostWrite_regs (s : State) (n a : Nat) (b : List Byte) : (hostWrite s n a b).regs = s.regs := by
  unfold hostWrite; split <;> simp

@[simp] theorem hostWrite_txq (s : State) (n a : Nat) (b : List Byte) : (hostWrite s n a b).txq = s.txq := by
  unfold hostWrite; split <;> simp

@[simp] theorem hostWrite_store (s : State) (n a : Nat) (b : List Byte) : (hostWrite s n a b).store = s.store := by
  unfold hostWrite; split <;> simp

@[simp] theorem hostWrite_home (s : State) (n a : Nat) (b : List Byte) : (hostWrite s n a b).home = s.home := by
  unfold hostWrite; split <;> simp

@[simp] theorem hostWrite_xlt (s : State) (n a : Nat) (b : List Byte) : (hostWrite s n a b).xlt = s.xlt := by
  unfold hostWrite; split <;> simp

@[simp] theorem hostWrite_que (s : State) (n a : Nat) (b : List Byte) : (hostWrite s n a b).que = s.que := by
  unfold hostWrite; split <;> simp

@[simp] theorem hostWrite_eng (s : State) (n a : Nat) (b : List Byte) : (hostWrite s n a b).eng = s.eng := by
  unfold hostWrite; split <;> simp

@[simp] theorem hostWrite_arr (s : State) (n a : Nat) (b : List Byte) : (hostWrite s n a b).arr = s.arr := by
  unfold hostWrite; split <;> simp

@[simp] theorem hostWrite_kv (s : State) (n a : Nat) (b : List Byte) : (hostWrite s n a b).kv = s.kv := by
  unfold hostWrite; split <;> simp

@[simp] theorem hostWrite_nmo (s : State) (n a : Nat) (b : List Byte) : (hostWrite s n a b).nmo = s.nmo := by
  unfold hostWrite; split <;> simp

@[simp] theorem hostWrite_emb (s : State) (n a : Nat) (b : List Byte) : (hostWrite s n a b).emb = s.emb := by
  unfold hostWrite; split <;> simp

@[simp] theorem hostWrite_vsc (s : State) (n a : Nat) (b : List Byte) : (hostWrite s n a b).vsc = s.vsc := by
  unfold hostWrite; split <;> simp

@[simp] theorem hostWrite_tim (s : State) (n a : Nat) (b : List Byte) : (hostWrite s n a b).tim = s.tim := by
  unfold hostWrite; split <;> simp

@[simp] theorem hostWrite_lnk (s : State) (n a : Nat) (b : List Byte) : (hostWrite s n a b).lnk = s.lnk := by
  unfold hostWrite; split <;> simp

@[simp] theorem hostWrite_sec (s : State) (n a : Nat) (b : List Byte) : (hostWrite s n a b).sec = s.sec := by
  unfold hostWrite; split <;> simp

@[simp] theorem hostWrite_red (s : State) (n a : Nat) (b : List Byte) : (hostWrite s n a b).red = s.red := by
  unfold hostWrite; split <;> simp

@[simp] theorem hostWrite_pwr (s : State) (n a : Nat) (b : List Byte) : (hostWrite s n a b).pwr = s.pwr := by
  unfold hostWrite; split <;> simp

@[simp] theorem hostWrite_hst (s : State) (n a : Nat) (b : List Byte) : (hostWrite s n a b).hst = s.hst := by
  unfold hostWrite; split <;> simp

@[simp] theorem hostWrite_fresh (s : State) (n a : Nat) (b : List Byte) : (hostWrite s n a b).fresh = s.fresh := by
  unfold hostWrite; split <;> simp

@[simp] theorem send_pending (s : State) (m : Msg) : (send s m).pending = s.pending := by
  rfl

@[simp] theorem send_regs (s : State) (m : Msg) : (send s m).regs = s.regs := by
  rfl

@[simp] theorem send_obs (s : State) (m : Msg) : (send s m).obs = s.obs := by
  rfl

@[simp] theorem send_store (s : State) (m : Msg) : (send s m).store = s.store := by
  rfl

@[simp] theorem send_home (s : State) (m : Msg) : (send s m).home = s.home := by
  rfl

@[simp] theorem send_xlt (s : State) (m : Msg) : (send s m).xlt = s.xlt := by
  rfl

@[simp] theorem send_que (s : State) (m : Msg) : (send s m).que = s.que := by
  rfl

@[simp] theorem send_eng (s : State) (m : Msg) : (send s m).eng = s.eng := by
  rfl

@[simp] theorem send_arr (s : State) (m : Msg) : (send s m).arr = s.arr := by
  rfl

@[simp] theorem send_kv (s : State) (m : Msg) : (send s m).kv = s.kv := by
  rfl

@[simp] theorem send_nmo (s : State) (m : Msg) : (send s m).nmo = s.nmo := by
  rfl

@[simp] theorem send_emb (s : State) (m : Msg) : (send s m).emb = s.emb := by
  rfl

@[simp] theorem send_vsc (s : State) (m : Msg) : (send s m).vsc = s.vsc := by
  rfl

@[simp] theorem send_tim (s : State) (m : Msg) : (send s m).tim = s.tim := by
  rfl

@[simp] theorem send_lnk (s : State) (m : Msg) : (send s m).lnk = s.lnk := by
  rfl

@[simp] theorem send_sec (s : State) (m : Msg) : (send s m).sec = s.sec := by
  rfl

@[simp] theorem send_red (s : State) (m : Msg) : (send s m).red = s.red := by
  rfl

@[simp] theorem send_pwr (s : State) (m : Msg) : (send s m).pwr = s.pwr := by
  rfl

@[simp] theorem send_hst (s : State) (m : Msg) : (send s m).hst = s.hst := by
  rfl

@[simp] theorem send_fresh (s : State) (m : Msg) : (send s m).fresh = s.fresh := by
  rfl

@[simp] theorem send_txq (s : State) (m : Msg) : (send s m).txq = s.txq ++ [m] := rfl

@[simp] theorem sampleTake_pending (s : State) (e : Nat) (c : Occ) : (sampleTake s e c).pending = s.pending := by
  unfold sampleTake; dsimp only; split
  · rfl
  · split
    · rfl
    · split
      · rfl
      · simp

@[simp] theorem sampleTake_txq (s : State) (e : Nat) (c : Occ) : (sampleTake s e c).txq = s.txq := by
  unfold sampleTake; dsimp only; split
  · rfl
  · split
    · rfl
    · split
      · rfl
      · simp

@[simp] theorem sampleTake_store (s : State) (e : Nat) (c : Occ) : (sampleTake s e c).store = s.store := by
  unfold sampleTake; dsimp only; split
  · rfl
  · split
    · rfl
    · split
      · rfl
      · simp

@[simp] theorem sampleTake_home (s : State) (e : Nat) (c : Occ) : (sampleTake s e c).home = s.home := by
  unfold sampleTake; dsimp only; split
  · rfl
  · split
    · rfl
    · split
      · rfl
      · simp

@[simp] theorem sampleTake_xlt (s : State) (e : Nat) (c : Occ) : (sampleTake s e c).xlt = s.xlt := by
  unfold sampleTake; dsimp only; split
  · rfl
  · split
    · rfl
    · split
      · rfl
      · simp

@[simp] theorem sampleTake_que (s : State) (e : Nat) (c : Occ) : (sampleTake s e c).que = s.que := by
  unfold sampleTake; dsimp only; split
  · rfl
  · split
    · rfl
    · split
      · rfl
      · simp

@[simp] theorem sampleTake_eng (s : State) (e : Nat) (c : Occ) : (sampleTake s e c).eng = s.eng := by
  unfold sampleTake; dsimp only; split
  · rfl
  · split
    · rfl
    · split
      · rfl
      · simp

@[simp] theorem sampleTake_arr (s : State) (e : Nat) (c : Occ) : (sampleTake s e c).arr = s.arr := by
  unfold sampleTake; dsimp only; split
  · rfl
  · split
    · rfl
    · split
      · rfl
      · simp

@[simp] theorem sampleTake_kv (s : State) (e : Nat) (c : Occ) : (sampleTake s e c).kv = s.kv := by
  unfold sampleTake; dsimp only; split
  · rfl
  · split
    · rfl
    · split
      · rfl
      · simp

@[simp] theorem sampleTake_nmo (s : State) (e : Nat) (c : Occ) : (sampleTake s e c).nmo = s.nmo := by
  unfold sampleTake; dsimp only; split
  · rfl
  · split
    · rfl
    · split
      · rfl
      · simp

@[simp] theorem sampleTake_emb (s : State) (e : Nat) (c : Occ) : (sampleTake s e c).emb = s.emb := by
  unfold sampleTake; dsimp only; split
  · rfl
  · split
    · rfl
    · split
      · rfl
      · simp

@[simp] theorem sampleTake_vsc (s : State) (e : Nat) (c : Occ) : (sampleTake s e c).vsc = s.vsc := by
  unfold sampleTake; dsimp only; split
  · rfl
  · split
    · rfl
    · split
      · rfl
      · simp

@[simp] theorem sampleTake_tim (s : State) (e : Nat) (c : Occ) : (sampleTake s e c).tim = s.tim := by
  unfold sampleTake; dsimp only; split
  · rfl
  · split
    · rfl
    · split
      · rfl
      · simp

@[simp] theorem sampleTake_lnk (s : State) (e : Nat) (c : Occ) : (sampleTake s e c).lnk = s.lnk := by
  unfold sampleTake; dsimp only; split
  · rfl
  · split
    · rfl
    · split
      · rfl
      · simp

@[simp] theorem sampleTake_sec (s : State) (e : Nat) (c : Occ) : (sampleTake s e c).sec = s.sec := by
  unfold sampleTake; dsimp only; split
  · rfl
  · split
    · rfl
    · split
      · rfl
      · simp

@[simp] theorem sampleTake_red (s : State) (e : Nat) (c : Occ) : (sampleTake s e c).red = s.red := by
  unfold sampleTake; dsimp only; split
  · rfl
  · split
    · rfl
    · split
      · rfl
      · simp

@[simp] theorem sampleTake_pwr (s : State) (e : Nat) (c : Occ) : (sampleTake s e c).pwr = s.pwr := by
  unfold sampleTake; dsimp only; split
  · rfl
  · split
    · rfl
    · split
      · rfl
      · simp

@[simp] theorem sampleTake_hst (s : State) (e : Nat) (c : Occ) : (sampleTake s e c).hst = s.hst := by
  unfold sampleTake; dsimp only; split
  · rfl
  · split
    · rfl
    · split
      · rfl
      · simp

@[simp] theorem sampleTake_fresh (s : State) (e : Nat) (c : Occ) : (sampleTake s e c).fresh = s.fresh := by
  unfold sampleTake; dsimp only; split
  · rfl
  · split
    · rfl
    · split
      · rfl
      · simp

@[simp] theorem sampleTake_regs (s : State) (e : Nat) (c : Occ) : (sampleTake s e c).regs = s.regs := by
  unfold sampleTake; dsimp only; split
  · rfl
  · split
    · rfl
    · split
      · rfl
      · exact setEvt_regs _ _ rfl

/-- A fold of operations that each keep a view of the state keeps it. -/
theorem foldl_view {α β : Type} (g : State → β) (f : State → α → State) (h : ∀ s a, g (f s a) = g s) (l : List α) (s : State) :
    g (l.foldl f s) = g s := by
  induction l generalizing s with
  | nil => rfl
  | cons a l ih => rw [List.foldl_cons, ih, h]

@[simp] theorem bump_pending (s : State) (e u : Nat) (c : Occ) : (bump s e u c).pending = s.pending := by
  unfold bump; split
  · rfl
  · refine foldl_view (·.pending) _ (fun s n => ?_) _ s
    dsimp only; split
    · split <;> simp
    · rfl

@[simp] theorem bump_regs (s : State) (e u : Nat) (c : Occ) : (bump s e u c).regs = s.regs := by
  unfold bump; split
  · rfl
  · refine foldl_view (·.regs) _ (fun s n => ?_) _ s
    dsimp only; split
    · split <;> simp
    · rfl

@[simp] theorem bump_txq (s : State) (e u : Nat) (c : Occ) : (bump s e u c).txq = s.txq := by
  unfold bump; split
  · rfl
  · refine foldl_view (·.txq) _ (fun s n => ?_) _ s
    dsimp only; split
    · split <;> simp
    · rfl

@[simp] theorem bump_store (s : State) (e u : Nat) (c : Occ) : (bump s e u c).store = s.store := by
  unfold bump; split
  · rfl
  · refine foldl_view (·.store) _ (fun s n => ?_) _ s
    dsimp only; split
    · split <;> simp
    · rfl

@[simp] theorem bump_home (s : State) (e u : Nat) (c : Occ) : (bump s e u c).home = s.home := by
  unfold bump; split
  · rfl
  · refine foldl_view (·.home) _ (fun s n => ?_) _ s
    dsimp only; split
    · split <;> simp
    · rfl

@[simp] theorem bump_xlt (s : State) (e u : Nat) (c : Occ) : (bump s e u c).xlt = s.xlt := by
  unfold bump; split
  · rfl
  · refine foldl_view (·.xlt) _ (fun s n => ?_) _ s
    dsimp only; split
    · split <;> simp
    · rfl

@[simp] theorem bump_que (s : State) (e u : Nat) (c : Occ) : (bump s e u c).que = s.que := by
  unfold bump; split
  · rfl
  · refine foldl_view (·.que) _ (fun s n => ?_) _ s
    dsimp only; split
    · split <;> simp
    · rfl

@[simp] theorem bump_eng (s : State) (e u : Nat) (c : Occ) : (bump s e u c).eng = s.eng := by
  unfold bump; split
  · rfl
  · refine foldl_view (·.eng) _ (fun s n => ?_) _ s
    dsimp only; split
    · split <;> simp
    · rfl

@[simp] theorem bump_arr (s : State) (e u : Nat) (c : Occ) : (bump s e u c).arr = s.arr := by
  unfold bump; split
  · rfl
  · refine foldl_view (·.arr) _ (fun s n => ?_) _ s
    dsimp only; split
    · split <;> simp
    · rfl

@[simp] theorem bump_kv (s : State) (e u : Nat) (c : Occ) : (bump s e u c).kv = s.kv := by
  unfold bump; split
  · rfl
  · refine foldl_view (·.kv) _ (fun s n => ?_) _ s
    dsimp only; split
    · split <;> simp
    · rfl

@[simp] theorem bump_nmo (s : State) (e u : Nat) (c : Occ) : (bump s e u c).nmo = s.nmo := by
  unfold bump; split
  · rfl
  · refine foldl_view (·.nmo) _ (fun s n => ?_) _ s
    dsimp only; split
    · split <;> simp
    · rfl

@[simp] theorem bump_emb (s : State) (e u : Nat) (c : Occ) : (bump s e u c).emb = s.emb := by
  unfold bump; split
  · rfl
  · refine foldl_view (·.emb) _ (fun s n => ?_) _ s
    dsimp only; split
    · split <;> simp
    · rfl

@[simp] theorem bump_vsc (s : State) (e u : Nat) (c : Occ) : (bump s e u c).vsc = s.vsc := by
  unfold bump; split
  · rfl
  · refine foldl_view (·.vsc) _ (fun s n => ?_) _ s
    dsimp only; split
    · split <;> simp
    · rfl

@[simp] theorem bump_tim (s : State) (e u : Nat) (c : Occ) : (bump s e u c).tim = s.tim := by
  unfold bump; split
  · rfl
  · refine foldl_view (·.tim) _ (fun s n => ?_) _ s
    dsimp only; split
    · split <;> simp
    · rfl

@[simp] theorem bump_lnk (s : State) (e u : Nat) (c : Occ) : (bump s e u c).lnk = s.lnk := by
  unfold bump; split
  · rfl
  · refine foldl_view (·.lnk) _ (fun s n => ?_) _ s
    dsimp only; split
    · split <;> simp
    · rfl

@[simp] theorem bump_sec (s : State) (e u : Nat) (c : Occ) : (bump s e u c).sec = s.sec := by
  unfold bump; split
  · rfl
  · refine foldl_view (·.sec) _ (fun s n => ?_) _ s
    dsimp only; split
    · split <;> simp
    · rfl

@[simp] theorem bump_red (s : State) (e u : Nat) (c : Occ) : (bump s e u c).red = s.red := by
  unfold bump; split
  · rfl
  · refine foldl_view (·.red) _ (fun s n => ?_) _ s
    dsimp only; split
    · split <;> simp
    · rfl

@[simp] theorem bump_pwr (s : State) (e u : Nat) (c : Occ) : (bump s e u c).pwr = s.pwr := by
  unfold bump; split
  · rfl
  · refine foldl_view (·.pwr) _ (fun s n => ?_) _ s
    dsimp only; split
    · split <;> simp
    · rfl

@[simp] theorem bump_hst (s : State) (e u : Nat) (c : Occ) : (bump s e u c).hst = s.hst := by
  unfold bump; split
  · rfl
  · refine foldl_view (·.hst) _ (fun s n => ?_) _ s
    dsimp only; split
    · split <;> simp
    · rfl

@[simp] theorem bump_fresh (s : State) (e u : Nat) (c : Occ) : (bump s e u c).fresh = s.fresh := by
  unfold bump; split
  · rfl
  · refine foldl_view (·.fresh) _ (fun s n => ?_) _ s
    dsimp only; split
    · split <;> simp
    · rfl

end Sys2Proof.Machine
end

