-- ==== Sys2Proof/Laws/Ops.lean ====
section
/-! SUPPORT. Laws/Ops.lean: what the shared operations do, said once: a command's answer and the parts it leaves, the guards
of commands, queue contexts and descriptor slots. -/
namespace Sys2Proof.Machine

/-! ## Answers -/

/-- A part outside `ps` is as it was. -/
theorem samePart_confine {ps : List Part} {p : Part} (s t : State) (h : p ∉ ps) : samePart p s (confine ps s t) := by
  cases p <;> simp [samePart, confine, h]

@[simp] theorem confine_pending (ps : List Part) (s t : State) : (confine ps s t).pending = s.pending := rfl

/-- A part in `ps` is as the command made it. -/
theorem samePart_confine_of_mem {ps : List Part} {p : Part} (s t : State) (h : p ∈ ps) : samePart p t (confine ps s t) := by
  cases p <;> simp [samePart, confine, h]

/-- A register reads as the command made it. -/
theorem getF_confine {ps : List Part} (s t : State) (hr : Part.regs ∈ ps) (ho : Part.obs ∈ ps) (f : Fld) (i : Nat) :
    getF (confine ps s t) f i = getF t f i := by simp [getF, regGet, confine, hr, ho]

/-- A field of another register keeps its value. -/
theorem getF_setF_reg (s : State) (f g : Fld) (i j x : Nat) (hi : i < 65536) (hj : j < 65536) (h : g.reg ≠ f.reg) :
    getF (setF s f i x) g j = getF s g j := getF_setF_ne s f g i j x hi hj (Or.inl h)

/-! ## Guards -/

theorem whenLive_of_live {s : State} (h : live s = true) (f : State → State) : whenLive s f = f s := by simp [whenLive, h]
theorem whenLive_of_not_live {s : State} (h : live s = false) (f : State → State) : whenLive s f = s := by simp [whenLive, h]
theorem whenFast_of_fast {s : State} (h : s.pwr.fast = true) (h' : s.hst.only = false) (f : State → State) :
    whenFast s f = f s := by simp [whenFast, h, h']
theorem whenClock_of_fast {s : State} (h : s.pwr.fast = true) (f : State → State) : whenClock s f = f s := by
  simp [whenClock, h]
theorem whenSill_of_sill {s : State} (h : s.pwr.sill = true) (f : State → State) : whenSill s f = f s := by
  simp [whenSill, h]

/-! ## Queue contexts -/

@[simp] theorem ctxOf_setCtx_same (s : State) (n : Nat) (v : BitVec 2048) : ctxOf (setCtx s n v) n = v := by
  simp [ctxOf, setCtx]

theorem ctxOf_setCtx_ne (s : State) {n m : Nat} (v : BitVec 2048) (h : m ≠ n) : ctxOf (setCtx s n v) m = ctxOf s m := by
  simp only [ctxOf, setCtx]
  exact mgetD_mputD_ne _ _ _ _ h

/-- A context field reads as the low bits written to it. -/
theorem cq_setQ_same (s : State) (n : Nat) (f : BF) (x : Nat) (h : f.lo + f.w ≤ 2048) :
    cq (setQ s n f x) n f = x % 2 ^ f.w := by
  simp only [cq, setQ, ctxOf_setCtx_same]
  exact bget_bset_same _ _ _ h

/-- Every context field apart from it keeps its value. -/
theorem cq_setQ_apart (s : State) (n : Nat) (f g : BF) (x : Nat) (h : f.lo + f.w ≤ 2048)
    (hd : g.lo + g.w ≤ f.lo ∨ f.lo + f.w ≤ g.lo) : cq (setQ s n f x) n g = cq s n g := by
  simp only [cq, setQ, ctxOf_setCtx_same]
  exact bget_bset_apart _ _ _ _ h hd

/-- So does every field of another context. -/
theorem cq_setQ_ne (s : State) {n m : Nat} (f g : BF) (x : Nat) (h : m ≠ n) : cq (setQ s n f x) m g = cq s m g := by
  simp only [cq, setQ, ctxOf_setCtx_ne s _ h]

@[simp] theorem setQ_regs (s : State) (n : Nat) (f : BF) (x : Nat) : (setQ s n f x).regs = s.regs := rfl
@[simp] theorem setQ_obs (s : State) (n : Nat) (f : BF) (x : Nat) : (setQ s n f x).obs = s.obs := rfl
@[simp] theorem setQ_slots (s : State) (n : Nat) (f : BF) (x : Nat) : (setQ s n f x).que.slots = s.que.slots := rfl

/-! ## Descriptor slots -/

@[simp] theorem slotOf_setSlot_same (s : State) (q : Nat) (x : Slot) : slotOf (setSlot s q x) q = some x := by
  simp [slotOf, setSlot]

theorem slotOf_setSlot_ne (s : State) {q r : Nat} (x : Slot) (h : r ≠ q) : slotOf (setSlot s q x) r = slotOf s r := by
  simp only [slotOf, setSlot]
  exact mget_mput_ne _ _ h

@[simp] theorem setSlot_regs (s : State) (q : Nat) (x : Slot) : (setSlot s q x).regs = s.regs := rfl
@[simp] theorem setSlot_obs (s : State) (q : Nat) (x : Slot) : (setSlot s q x).obs = s.obs := rfl
@[simp] theorem setSlot_store (s : State) (q : Nat) (x : Slot) : (setSlot s q x).store = s.store := rfl
@[simp] theorem own_setSlot (s : State) (q : Nat) (x : Slot) : own (setSlot s q x) = own s := rfl
@[simp] theorem cq_setSlot (s : State) (q : Nat) (x : Slot) (n : Nat) (f : BF) : cq (setSlot s q x) n f = cq s n f := rfl
@[simp] theorem deadlineAt_setSlot (s : State) (q : Nat) (x : Slot) (n : Nat) (t : W64) (d : Desc) :
    deadlineAt (setSlot s q x) n t d = deadlineAt s n t d := rfl

/-- A descriptor that starts: its kernel gets the slot itself. -/
theorem begins_launched {s : State} {sq oc : Nat} {sl : Slot} {k : Slot → State} (h1 : slotOf s sq = some sl)
    (h2 : sl.ph = .launched) (h3 : opcode sl.d = oc) (h4 : sl.stop = none) (h5 : heldBack s sq = false) :
    begins s oc sq k = k sl := by
  unfold begins
  simp [h1, h2, h3, h4, h5, atBoundary]

end Sys2Proof.Machine
end

