-- ==== Sys2Proof/Laws/Power.lean ====
section
/-! SUPPORT. Laws/Power.lean: what resets, power transitions, bring-up and register writes leave of the power sequence and of
the host port. -/
namespace Sys2Proof.Machine

/-! ## Folds and rising lists -/

/-- What every step of a fold keeps, the fold keeps. -/
theorem foldl_keep {α β γ : Type} (f : α → β → α) (g : α → γ) (h : ∀ a b, g (f a b) = g a) (l : List β) (a : α) :
    g (l.foldl f a) = g a := by
  induction l generalizing a with
  | nil => rfl
  | cons b l ih => simp only [List.foldl_cons, ih, h]

theorem mem_insRising {l : List Nat} {x y : Nat} : y ∈ insRising l x ↔ y = x ∨ y ∈ l := by
  induction l with
  | nil => simp [insRising]
  | cons a l ih =>
    simp only [insRising]
    split
    · simp
    · split
      · rename_i h
        subst h
        simp
      · simp only [List.mem_cons, ih]
        tauto

/-! ## Parts outside an answer -/

theorem confine_pwr {ps : List Part} (s t : State) (h : Part.pwr ∉ ps) : (confine ps s t).pwr = s.pwr := by
  simp [confine, h]

theorem confine_hst {ps : List Part} (s t : State) (h : Part.hst ∉ ps) : (confine ps s t).hst = s.hst := by
  simp [confine, h]

/-! ## The power part -/

@[simp] theorem sendReport_pwr (s : State) (r : BitVec 512) : (sendReport s r).pwr = s.pwr := by
  unfold sendReport
  split <;> simp

@[simp] theorem report_pwr (s : State) (k n a b : Nat) : (report s k n a b).pwr = s.pwr := by
  unfold report
  split <;> simp

@[simp] theorem clearRegs_pwr (s : State) (k : ResetKind) : (clearRegs s k).pwr = s.pwr := by simp [clearRegs]
@[simp] theorem resetRecord_pwr (s : State) (n : Nat) : (resetRecord s n).pwr = s.pwr := by simp [resetRecord]
@[simp] theorem startBringup_pwr (s : State) : (startBringup s).pwr = s.pwr := by
  unfold startBringup
  split <;> simp

@[simp] theorem plainWrite_pwr (s : State) (r : Reg) (i : Nat) (v : W64) : (plainWrite s r i v).pwr = s.pwr := by
  unfold plainWrite; dsimp only; split <;> simp
@[simp] theorem selfFence_pwr (s : State) : (selfFence s).pwr = s.pwr := by
  unfold selfFence
  split
  · rfl
  · exact confine_pwr _ _ (by decide)

@[simp] theorem setSled_pwr (s : State) (n k : Nat) : (setSled s n k).pwr = s.pwr := by simp [setSled]
@[simp] theorem sledFailed_pwr (s : State) (n : Nat) : (sledFailed s n).pwr = s.pwr := by simp [sledFailed]
@[simp] theorem toStage_pwr (s : State) (k : Nat) : (toStage s k).pwr = s.pwr := by simp [toStage]
@[simp] theorem boot_pwr (s : State) (k : Nat) : (boot s k).pwr = s.pwr := by simp [boot]
@[simp] theorem badReq_pwr (s : State) : (badReq s).pwr = s.pwr := by simp [badReq]
@[simp] theorem cancelAll_pwr (s : State) : (cancelAll s).pwr = s.pwr := confine_pwr _ _ (by decide)
@[simp] theorem leaveParked_pwr (s : State) : (leaveParked s).pwr = s.pwr := confine_pwr _ _ (by decide)

/-- A sound power part: the clauses of `Sound` about it. -/
def PwrSound (p : Pwr) : Prop :=
  p.railen ≤ 3 ∧ (∀ r ∈ p.rails, r < 6 ∧ railNeeds r ≤ p.railen) ∧ (p.fast = true → p.sill = true)
  ∧ (∀ n ∈ p.sledOn, n < 4) ∧ (∀ n ∈ p.sledGood, n ∈ p.sledOn)

theorem sound_iff (s : State) : Sound s ↔ PwrSound s.pwr ∧ s.hst.numVfs ≤ 512 ∧ s.hst.mctpPage < 256 := by
  simp only [Sound, PwrSound]
  tauto

/-! ## Sleds, power transitions and samples -/

theorem pwr_of_emit_foldl {β : Type} (f : β → Out) (l : List β) (s : State) : (l.foldl (fun s x => emit s (f x)) s).pwr = s.pwr :=
  foldl_keep _ State.pwr (by simp) l s

theorem flushCheck_pwr (s : State) : ∃ l, (flushCheck s).pwr = { s.pwr with flush := l } :=
  ⟨_, pwr_of_emit_foldl _ _ _⟩

theorem wbEnd_pwr (s : State) (p : Nat) (g : Page) : ∃ l, (wbEnd s p g).pwr = { s.pwr with flush := l } := by
  unfold wbEnd
  split
  · exact ⟨s.pwr.flush, rfl⟩
  · dsimp only
    split
    · exact ⟨s.pwr.flush, rfl⟩
    · obtain ⟨l, h⟩ := flushCheck_pwr (confine workParts (bump s 0x0404 1 { ten := some (pg g PAGE.TENANT), sa := some (pageBlockSa s g) }) _)
      exact ⟨l, h.trans (by rw [confine_pwr _ _ (by decide), bump_pwr])⟩

@[simp] theorem putFar_pwr (s : State) (b : Nat) (x : FarBlock) : (putFar s b x).pwr = s.pwr := rfl

theorem wbProgrammed_pwr (s : State) (p : Nat) (g : Page) : ∃ l, (wbProgrammed s p g).pwr = { s.pwr with flush := l } := by
  unfold wbProgrammed
  split
  · exact ⟨s.pwr.flush, rfl⟩
  · dsimp only
    obtain ⟨l, h⟩ := wbEnd_pwr _ _ _
    refine ⟨l, h.trans ?_⟩
    split <;> split <;> simp only [setF_pwr, putFar_pwr]

theorem PwrSound.flush {p : Pwr} (h : PwrSound p) (l : List (Nat × List Nat)) : PwrSound { p with flush := l } := h

theorem PwrSound.mirrors {p : Pwr} (h : PwrSound p) (l : AMap (List Nat)) : PwrSound { p with mirrors := l } := h

theorem sledPower_sound {s : State} (h : PwrSound s.pwr) {n : Nat} (hn : n < 4) (on : Bool) : PwrSound (sledPower s n on).pwr := by
  obtain ⟨h1, h2, h3, h4, h5⟩ := h
  refine ⟨h1, h2, h3, ?_, ?_⟩
  · intro m hm
    cases on <;> simp [sledPower] at hm
    · exact h4 m hm.1
    · rcases mem_insRising.mp hm with rfl | h
      · exact hn
      · exact h4 m h
  · intro m hm
    cases on <;> simp [sledPower] at hm ⊢
    · exact ⟨h5 m hm.1, hm.2⟩
    · exact mem_insRising.mpr (Or.inr (h5 m hm.1))

theorem sledPress_sound {s : State} (h : PwrSound s.pwr) (n : Nat) : PwrSound (sledPress s n).pwr := by
  unfold sledPress
  by_cases hn : 4 ≤ n
  · simpa [hn] using h
  · have := sledPower_sound h (Nat.lt_of_not_le hn) false
    simp only [hn]
    (repeat' split) <;> simpa using by assumption

theorem sledOut_sound {s : State} (h : PwrSound s.pwr) {n : Nat} (hn : n < 4) : PwrSound (sledOut s n).pwr :=
  sledPower_sound (h.mirrors _) hn false

theorem sledSurprise_sound {s : State} (h : PwrSound s.pwr) {n : Nat} (hn : n < 4) : PwrSound (sledSurprise s n).pwr := by
  simp only [sledSurprise, report_pwr, setF_pwr, setSled_pwr]
  refine sledPower_sound ?_ hn false
  refine PwrSound.mirrors (p := (confine workParts s _).pwr) ?_ _
  rw [confine_pwr _ _ (by decide)]
  exact h

theorem quiesceStart_sound {s : State} (h : PwrSound s.pwr) (n : Nat) : PwrSound (quiesceStart s n).pwr := by
  unfold quiesceStart
  dsimp only
  split
  · simpa using h
  · rw [pwr_of_emit_foldl]
    refine PwrSound.mirrors (p := (confine workParts (setSled s n slQuiescing) _).pwr) ?_ _
    rw [confine_pwr _ _ (by decide)]
    simpa using h

theorem fastClear_sound {s : State} (h : PwrSound s.pwr) : PwrSound (fastClear s).pwr :=
  ⟨h.1, h.2.1, by simp [fastClear], h.2.2.2⟩

theorem railsDown_pwr (s : State) : (railsDown s).pwr = { s.pwr with railen := 0, rails := [] } := rfl

theorem railsUp_pwr (s : State) : (railsUp s).pwr = { s.pwr with railen := 1, rails := [] } := rfl

theorem coldReset_sound {s : State} (h : PwrSound s.pwr) : PwrSound (coldReset s).pwr := by
  simp only [coldReset, resetRecord_pwr, clearRegs_pwr]
  exact fastClear_sound (s := s) h

theorem warmReset_sound {s : State} (h : PwrSound s.pwr) : PwrSound (warmReset s).pwr := by
  simp only [warmReset, resetRecord_pwr, setF_pwr, clearRegs_pwr]
  exact fastClear_sound h

theorem enterSill_sound {s : State} (h : PwrSound s.pwr) : PwrSound (enterSill s).pwr := by
  simp only [enterSill, setF_pwr, regSet_pwr]
  exact ⟨Nat.zero_le 3, by intro r hr; exact absurd hr List.not_mem_nil, (fastClear_sound h).2.2⟩

theorem railsUp_sound {s : State} (h : PwrSound s.pwr) : PwrSound (railsUp s).pwr :=
  ⟨(by decide : 1 ≤ 3), by intro r hr; exact absurd hr List.not_mem_nil, h.2.2⟩

theorem parkCheck_sound {s : State} (h : PwrSound s.pwr) : PwrSound (parkCheck s).pwr := by
  unfold parkCheck
  split
  · exact h
  · dsimp only
    split
    · simp only [setF_pwr]
      rw [confine_pwr _ _ (by decide), cancelAll_pwr]
      exact h
    · rw [cancelAll_pwr]; exact h

theorem pwrReq_sound {s : State} (h : PwrSound s.pwr) (m : Bool) (r : Nat) : PwrSound (pwrReq s m r).pwr := by
  unfold pwrReq
  dsimp only
  repeat' split
  all_goals first
    | (rw [leaveParked_pwr]; exact h)
    | (refine railsUp_sound (coldReset_sound ?_); exact h)
    | (rw [badReq_pwr]; exact h)
    | (refine parkCheck_sound ?_; exact h)
    | exact enterSill_sound h

theorem thermTrip_sound {s : State} (h : PwrSound s.pwr) (a b : Nat) : PwrSound (thermTrip s a b).pwr := by
  have h' : PwrSound (if s.pwr.fast then selfFence s else s).pwr := by split <;> simpa using h
  unfold thermTrip
  generalize (if s.pwr.fast then selfFence s else s) = t at h'
  dsimp only
  rw [emit_pwr]
  split
  · simpa using h'
  · exact enterSill_sound (by simpa using h')

theorem sampled_sound {s : State} (h : PwrSound s.pwr) (w t : Nat) : PwrSound (sampled s w t).pwr := by
  unfold sampled
  generalize hu : setF (setF s PWR_MON.LAST 0 (min w 65535)) PWR_MON.TMAX 0 (min t 65535) = u
  have hp : PwrSound u.pwr := by rw [← hu]; simpa using h
  dsimp only
  generalize hv : (if decide (100000 ≤ u.pwr.cnt + 1) = true then setF u PWR_MON.MEAN 0 (min ((u.pwr.sum + w) / (u.pwr.cnt + 1)) 65535) else u) = v
  have hq : PwrSound v.pwr := by rw [← hv]; split <;> simpa using hp
  exact hq

theorem powerSample_sound {s : State} (h : PwrSound s.pwr) (w t n : Nat) : PwrSound (powerSample s w t n).pwr := by
  unfold powerSample
  refine parkCheck_sound ?_
  have h' := sampled_sound h w t
  generalize sampled s w t = u at h'
  split
  · exact thermTrip_sound h' _ _
  · exact h'

/-! ## The host port -/

/-- A sound host port: the clauses of `Sound` about it. -/
def HstSound (x : Hst) : Prop := x.numVfs ≤ 512 ∧ x.mctpPage < 256

@[simp] theorem sendReport_hst (s : State) (r : BitVec 512) : (sendReport s r).hst = s.hst := by
  unfold sendReport
  split <;> simp

@[simp] theorem report_hst (s : State) (k n a b : Nat) : (report s k n a b).hst = s.hst := by
  unfold report
  split <;> simp

@[simp] theorem clearRegs_hst (s : State) (k : ResetKind) : (clearRegs s k).hst = s.hst := by simp [clearRegs]

@[simp] theorem resetRecord_hst (s : State) (n : Nat) : (resetRecord s n).hst = s.hst := by simp [resetRecord]

@[simp] theorem startBringup_hst (s : State) : (startBringup s).hst = s.hst := by
  unfold startBringup
  split <;> simp

@[simp] theorem plainWrite_hst (s : State) (r : Reg) (i : Nat) (v : W64) : (plainWrite s r i v).hst = s.hst := by
  unfold plainWrite; dsimp only; split <;> simp

@[simp] theorem selfFence_hst (s : State) : (selfFence s).hst = s.hst := by
  unfold selfFence
  split
  · rfl
  · exact confine_hst _ _ (by decide)

@[simp] theorem cancelAll_hst (s : State) : (cancelAll s).hst = s.hst := confine_hst _ _ (by decide)

@[simp] theorem badReq_hst (s : State) : (badReq s).hst = s.hst := by simp [badReq]

@[simp] theorem leaveParked_hst (s : State) : (leaveParked s).hst = s.hst := confine_hst _ _ (by decide)

@[simp] theorem parkCheck_hst (s : State) : (parkCheck s).hst = s.hst := by
  unfold parkCheck
  split
  · rfl
  · dsimp only
    split
    · simp only [setF_hst]
      rw [confine_hst _ _ (by decide), cancelAll_hst]
    · rw [cancelAll_hst]

@[simp] theorem setSled_hst (s : State) (n k : Nat) : (setSled s n k).hst = s.hst := by simp [setSled]

@[simp] theorem sledPower_hst (s : State) (n : Nat) (k : Bool) : (sledPower s n k).hst = s.hst := rfl

@[simp] theorem sledPress_hst (s : State) (n : Nat) : (sledPress s n).hst = s.hst := by
  unfold sledPress
  by_cases h : 4 ≤ n
  · simp [h]
  · simp only [h]
    (repeat' split) <;> simp

theorem fastClear_hst {s : State} (h : HstSound s.hst) : HstSound (fastClear s).hst := h

theorem coldReset_hst {s : State} : HstSound (coldReset s).hst := by
  simp only [coldReset, resetRecord_hst]
  exact ⟨by decide, by decide⟩

theorem warmReset_hst {s : State} (h : HstSound s.hst) : HstSound (warmReset s).hst := by
  simp only [warmReset, resetRecord_hst, setF_hst, clearRegs_hst]
  exact h

theorem enterSill_hst {s : State} (h : HstSound s.hst) : HstSound (enterSill s).hst := by
  simp only [enterSill, setF_hst, regSet_hst]
  exact h

theorem railsUp_hst (s : State) : (railsUp s).hst = s.hst := rfl

theorem pwrReq_hst {s : State} (h : HstSound s.hst) (m : Bool) (r : Nat) : HstSound (pwrReq s m r).hst := by
  unfold pwrReq
  dsimp only
  repeat' split
  all_goals first
    | (rw [leaveParked_hst]; exact h)
    | (rw [railsUp_hst]; exact coldReset_hst)
    | (rw [badReq_hst]; exact h)
    | (rw [parkCheck_hst]; exact h)
    | exact enterSill_hst h

theorem thermTrip_hst {s : State} (h : HstSound s.hst) (a b : Nat) : HstSound (thermTrip s a b).hst := by
  have h' : HstSound (if s.pwr.fast then selfFence s else s).hst := by split <;> simpa using h
  unfold thermTrip
  generalize (if s.pwr.fast then selfFence s else s) = t at h'
  dsimp only
  rw [emit_hst]
  split
  · simpa using h'
  · exact enterSill_hst (by simpa using h')

@[simp] theorem sampled_hst (s : State) (w t : Nat) : (sampled s w t).hst = s.hst := by
  unfold sampled
  dsimp only
  split <;> simp

theorem powerSample_hst {s : State} (h : HstSound s.hst) (w t n : Nat) : HstSound (powerSample s w t n).hst := by
  unfold powerSample
  rw [parkCheck_hst]
  split
  · exact thermTrip_hst (by simpa using h) _ _
  · simpa using h

/-! ## Function-level reset -/

theorem vfsLeave_pwr (s : State) (n : Nat) : (vfsLeave s n).pwr = s.pwr := by
  unfold vfsLeave
  split
  · exact confine_pwr _ _ (by decide)
  · rfl

theorem vfsLeave_hst (s : State) (n : Nat) : (vfsLeave s n).hst = s.hst := by
  unfold vfsLeave
  split
  · exact confine_hst _ _ (by decide)
  · rfl

theorem rwlWrite_pwr (s : State) (r : Reg) (i : Nat) (v : W64) : (rwlWrite s r i v).pwr = s.pwr := by
  unfold rwlWrite
  dsimp only
  split <;> simp

theorem rwlWrite_hst (s : State) (r : Reg) (i : Nat) (v : W64) : (rwlWrite s r i v).hst = s.hst := by
  unfold rwlWrite
  dsimp only
  split <;> simp

theorem rwlReload_pwr (s : State) (r : Reg) : (rwlReload s r).pwr = s.pwr :=
  (foldl_keep (fun (s : State) (e : Nat × W64) => rwlWrite s r 0 e.2) State.pwr (fun s e => rwlWrite_pwr s r 0 e.2) _ _).trans
    (regSet_pwr s r 0 0)

theorem rwlReload_hst (s : State) (r : Reg) : (rwlReload s r).hst = s.hst :=
  (foldl_keep (fun (s : State) (e : Nat × W64) => rwlWrite s r 0 e.2) State.hst (fun s e => rwlWrite_hst s r 0 e.2) _ _).trans
    (regSet_hst s r 0 0)

theorem pfForget_pwr (s : State) : (pfForget s).pwr = s.pwr := rfl

theorem pfForget_hst (s : State) : (pfForget s).hst = { s.hst with vfEn := false, numVfs := 0 } := rfl

theorem pfClear_pwr (s : State) : (pfClear s).pwr = s.pwr := by
  unfold pfClear
  rw [foldl_keep _ State.pwr rwlReload_pwr, clearRegs_pwr, pfForget_pwr, confine_pwr _ _ (by decide), vfsLeave_pwr]

theorem pfClear_hst {s : State} (h : HstSound s.hst) : HstSound (pfClear s).hst := by
  unfold pfClear
  rw [foldl_keep _ State.hst rwlReload_hst, clearRegs_hst, pfForget_hst, confine_hst _ _ (by decide), vfsLeave_hst]
  exact ⟨Nat.zero_le _, h.2⟩

theorem pfReset_pwr (s : State) (c : Nat) : (pfReset s c).pwr = s.pwr := by
  unfold pfReset
  simp only [resetRecord_pwr, setF_pwr, pfClear_pwr]
  split <;> simp

theorem pfReset_hst {s : State} (h : HstSound s.hst) (c : Nat) : HstSound (pfReset s c).hst := by
  have h' : HstSound (if tstF s HOME_DIRCFG.EN then selfFence s else s).hst := by split <;> simpa using h
  unfold pfReset
  dsimp only
  rw [resetRecord_hst, setF_hst]
  generalize hu : pfClear _ = u
  have h2 : HstSound u.hst := hu ▸ pfClear_hst h'
  exact h2

/-! ## Register writes and resets -/

/-- Both parts are sound. -/
def PortSound (s : State) : Prop := PwrSound s.pwr ∧ HstSound s.hst

theorem PortSound.confined {s : State} (h : PortSound s) (t : State) {ps : List Part} (h1 : Part.pwr ∉ ps) (h2 : Part.hst ∉ ps) : PortSound (confine ps s t) := by
  unfold PortSound
  rw [confine_pwr _ _ h1, confine_hst _ _ h2]
  exact h

theorem portSound_warm {s : State} (h : PortSound s) : PortSound (warmReset s) := ⟨warmReset_sound h.1, warmReset_hst h.2⟩

theorem portSound_cold {s : State} (h : PortSound s) : PortSound (coldReset s) := ⟨coldReset_sound h.1, coldReset_hst⟩

theorem portSound_same {s t : State} (h : PortSound s) (h1 : t.pwr = s.pwr) (h2 : t.hst = s.hst) : PortSound t := by
  unfold PortSound
  rw [h1, h2]
  exact h

theorem portSound_answer {s t : State} (h : PortSound s) (ht : PortSound t) (ps : List Part) : PortSound (confine ps s t) := by
  constructor
  · show PwrSound (if _ then _ else _)
    split
    · exact ht.1
    · exact h.1
  · show HstSound (if _ then _ else _)
    split
    · exact ht.2
    · exact h.2

theorem portSound_glbWarm {s : State} (h : PortSound s) : PortSound (after s (execGlbRstWarm s)) := by
  unfold execGlbRstWarm answer after
  refine portSound_answer h ?_ _
  split
  · exact portSound_warm h
  · exact h

theorem portSound_glbCold {s : State} (h : PortSound s) (m : Bool) : PortSound (after s (execGlbRstCold m s)) := by
  unfold execGlbRstCold answer after
  refine portSound_answer h ?_ _
  split
  · exact portSound_same (portSound_cold h) (by simp) (by simp)
  · exact h

theorem portSound_press {s : State} (h : PortSound s) (n : Nat) : PortSound (sledPress s n) := ⟨sledPress_sound h.1 n, by rw [sledPress_hst]; exact h.2⟩

theorem portSound_writeReg {s : State} (h : PortSound s) (r : Reg) (i : Nat) (v : W64) : PortSound (writeReg s r i v) := by
  unfold writeReg
  split
  · split
    · exact portSound_glbWarm h
    · exact h
  · exact ⟨pwrReq_sound h.1 _ _, pwrReq_hst h.2 _ _⟩
  · dsimp only
    have h' : PortSound (setF s PWR_SLED.LEFT i (bget v PWR_SLED.LEFT.bf)) := portSound_same h (by simp) (by simp)
    split
    · exact portSound_press h' i
    · exact h'
  · exact h.confined _ (by decide) (by decide)

theorem portSound_vfWriteReg {s : State} (h : PortSound s) (r : Reg) (i : Nat) (v : W64) : PortSound (vfWriteReg s r i v) := portSound_same h (by simp [vfWriteReg]) (by simp [vfWriteReg])

theorem portSound_bar0Put {s : State} (h : PortSound s) (fn b : Nat) (v : W64) : PortSound (bar0Put s fn b v) := by
  unfold bar0Put
  repeat' split
  · exact h
  · exact portSound_writeReg h _ _ _
  · exact portSound_vfWriteReg h _ _ _
  · exact h

theorem portSound_setFn {s : State} (h : PortSound s) (n : Nat) (f : Fn) : PortSound (setFn s n f) := portSound_same h (by simp) (by simp)

theorem portSound_dropLatch {s : State} (h : PortSound s) (fn b : Nat) : PortSound (dropLatch s fn b) := by
  unfold dropLatch
  repeat' split
  · exact h
  · exact portSound_setFn h _ _
  · exact h

theorem portSound_bar0Write {s : State} (h : PortSound s) (fn off size : Nat) (v : W64) : PortSound (bar0Write s fn off size v) := by
  unfold bar0Write
  split
  · dsimp only
    split
    · exact h.confined _ (by decide) (by decide)
    · exact h
  · split
    · exact portSound_same h (by simp [badAccess]) (by simp [badAccess])
    · dsimp only
      have h' := portSound_dropLatch h fn (off / 8 * 8)
      generalize dropLatch s fn (off / 8 * 8) = u at h'
      repeat' split
      all_goals first | exact portSound_bar0Put h' _ _ _ | exact portSound_setFn h' _ _ | exact portSound_bar0Put (portSound_setFn h' _ _) _ _ _

theorem portSound_bar2Write {s : State} (h : PortSound s) (fn off size : Nat) (v : Line) :
    PortSound (bar2Write s fn off size v) := by
  unfold bar2Write
  split
  · exact h
  · split
    · exact h
    · exact h.confined _ (by decide) (by decide)

theorem msixFlush_pwr (s : State) (n : Nat) : (msixFlush s n).pwr = s.pwr ∧ (msixFlush s n).hst = s.hst := by
  unfold msixFlush
  dsimp only
  split
  · exact ⟨by rw [pwr_of_emit_foldl, setFn_pwr], by rw [foldl_keep _ State.hst (by simp), setFn_hst]⟩
  · exact ⟨rfl, rfl⟩

theorem portSound_bar4Write {s : State} (h : PortSound s) (fn off size : Nat) (v : W64) : PortSound (bar4Write s fn off size v) := by
  unfold bar4Write
  dsimp only
  split
  · exact h
  · exact portSound_same (portSound_setFn h _ _) (msixFlush_pwr _ _).1 (msixFlush_pwr _ _).2

theorem nonceDraw_pwr (s : State) : (nonceDraw s).pwr = s.pwr := rfl

theorem nonceDraw_hst (s : State) : (nonceDraw s).hst = s.hst := rfl

theorem portSound_token {s : State} (h : PortSound s) (n : Nat) : PortSound (tokenCheck s n) := by
  unfold tokenCheck
  dsimp only
  refine portSound_same (s := if tokenGood s n then _ else s) ?_ (nonceDraw_pwr _) (nonceDraw_hst _)
  split
  · refine portSound_same h ?_ ?_
    · show (setF _ _ _ _).pwr = _
      simp [zeroise]
    · show (setF _ _ _ _).hst = _
      simp [zeroise]
  · exact h

theorem portSound_mctpAnswer {s : State} (h : PortSound s) (c : Nat) (v : Option W64) : PortSound (mctpAnswer s c v) := portSound_same h rfl rfl

theorem portSound_mctpPut {s : State} (h : PortSound s) (r : Reg) (i : Nat) (v : W64) : PortSound (mctpPut s r i v) := by
  unfold mctpPut
  split
  · repeat' split
    · exact portSound_glbCold h _
    · exact portSound_glbWarm h
    · exact h
  · exact ⟨pwrReq_sound h.1 _ _, pwrReq_hst h.2 _ _⟩
  · exact ⟨h.1, h.2.1, bget_lt _ _⟩
  · exact portSound_writeReg h _ _ _
  · exact portSound_same h (plainWrite_pwr _ _ _ _) (plainWrite_hst _ _ _ _)

theorem portSound_mctpWrite {s : State} (h : PortSound s) (off : Nat) (v : W64) : PortSound (after s (execMctpWrite off v s)) := by
  unfold execMctpWrite answer after whenSill
  refine portSound_answer h ?_ _
  split
  · split
    · exact portSound_mctpAnswer h _ _
    · dsimp only
      split
      · exact portSound_mctpAnswer h _ _
      · exact portSound_mctpAnswer (portSound_mctpPut h _ _ _) _ _
    · exact portSound_mctpAnswer h _ _
    · dsimp only
      split
      · exact portSound_mctpAnswer h _ _
      · split
        · exact portSound_mctpAnswer (portSound_token h _) _ _
        · exact portSound_mctpAnswer (portSound_same (t := { s with sec := _ }) h rfl rfl) 0 none
  · exact h

theorem portSound_regWrite {s : State} (h : PortSound s) (fn bar off size : Nat) (v : Line) :
    PortSound (after s (execRegisterWrite fn bar off size v s)) := by
  unfold execRegisterWrite answer after
  refine portSound_answer h ?_ _
  split
  · exact h
  · split
    · exact portSound_same h (ledger_pwr _ _ _ _ _) (ledger_hst _ _ _ _ _)
    · split
      · split
        · exact portSound_bar0Write h _ _ _ _
        · exact h
      · exact portSound_bar2Write h _ _ _ _
      · exact portSound_bar4Write h _ _ _ _
      · exact h

/-! ## Bring-up -/

@[simp] theorem linkTrained_pwr (s : State) (a b : Nat) (c : Bool) : (linkTrained s a b c).pwr = s.pwr := by
  unfold linkTrained
  dsimp only
  generalize (if c || a == 6 then 1 else 0) = k
  split <;> simp

theorem takeSeed_pwr (s : State) (v : W64) : (takeSeed s v).pwr = s.pwr := by simp [takeSeed]

theorem applySetting_pwr (s : State) (e : Nat × W64) : (applySetting s e).pwr = s.pwr := by
  unfold applySetting
  split
  · split
    · exact rwlWrite_pwr _ _ _ _
    · exact ledger_pwr _ _ _ _ _
  · exact ledger_pwr _ _ _ _ _

theorem unwrapVault_pwr (s : State) (ok : Bool) : (unwrapVault s ok).pwr = s.pwr := by
  unfold unwrapVault
  dsimp only
  split
  · rfl
  · split
    · rfl
    · have hk : ∀ m : AMap Nat, (m.foldl (fun s e => setF s TEN_SECCTL.KGEN e.1 e.2) s).pwr = s.pwr := fun m =>
        foldl_keep (fun (s : State) (e : Nat × Nat) => setF s TEN_SECCTL.KGEN e.1 e.2) State.pwr (by simp) m s
      split
      · exact hk _
      · rw [takeSeed_pwr, hk]

theorem sledReload_pwr (s : State) (n : Nat) : (sledReload s n).pwr = s.pwr := by
  unfold sledReload takeFresh
  simp [setFarCap]

@[simp] theorem setPool_pwr (s : State) : (setPool s).pwr = s.pwr := by
  unfold setPool
  apply foldl_keep
  intro s i
  rfl

theorem join_pwr (s : State) : (join s).pwr = s.pwr := by
  unfold join
  simp only [setEvt_pwr, setF_pwr]
  exact (foldl_keep (fun s n => setSled s n slActive) State.pwr (by simp) _ _).trans (setPool_pwr s)

theorem restoreNear_pwr (s : State) (c : CutSlot) : (restoreNear s c).pwr = s.pwr := by
  unfold restoreNear
  apply foldl_keep
  intro s e
  apply foldl_keep
  intro s x
  rfl

theorem recount_pwr (s : State) : (recount s).pwr = s.pwr := by
  unfold recount
  dsimp only
  refine (foldl_keep _ State.pwr ?_ _ _).trans ((foldl_keep _ State.pwr ?_ _ _).trans ((foldl_keep _ State.pwr ?_ _ _).trans (foldl_keep _ State.pwr ?_ _ _)))
  · intro s e
    split <;> simp
  · intro s e
    split <;> simp
  · intro s e
    split <;> simp
  · intro s e
    apply foldl_keep
    intro s f
    simp

theorem restoreCut_pwr (s : State) (c : CutSlot) : (restoreCut s c).pwr = s.pwr := by
  unfold restoreCut
  simp only [regSet_pwr, recount_pwr, restoreNear_pwr, setF_pwr]

theorem foldl_apply_pwr (s : State) (l : List (Nat × W64)) : (l.foldl applySetting s).pwr = s.pwr := foldl_keep _ State.pwr applySetting_pwr l s

theorem bring_sound {s : State} (h : PwrSound s.pwr) (e : StageEnd) : PwrSound (after s (execBringupStageEnd e s)).pwr := by
  unfold execBringupStageEnd answer after
  show PwrSound (if _ then _ else _)
  split
  · split
    · exact h
    · rename_i hr
      have hs : s.pwr.sill = true := by
        unfold bringupRuns at hr
        cases hh : s.pwr.sill
        · rw [hh] at hr
          simp at hr
        · rfl
      split
      · unfold hostupEnd
        split
        · simpa using h
        · exact h
      · unfold bootEnd
        simpa using h
      · unfold sealedEnd
        simp only [toStage_pwr, setF_pwr, boot_pwr, foldl_apply_pwr]
        exact ⟨h.1, h.2.1, fun _ => hs, h.2.2.2⟩
      · unfold stacksEnd
        simp only [toStage_pwr, unwrapVault_pwr, setF_pwr]
        exact h
      · simpa using h
      · unfold planEnd
        split
        · exact h
        · simp only [toStage_pwr]
          rw [foldl_keep _ State.pwr sledReload_pwr, setF_pwr]
          exact h
      · unfold readyEnd
        repeat' split
        · exact h
        · exact h
        · rw [join_pwr]; exact h
        · rw [join_pwr, restoreCut_pwr]; exact h
        · exact h
      · exact h
  · exact h

theorem portSound_ans_p {s t : State} (h : PortSound s) {ps : List Part} (hh : Part.hst ∉ ps) (ht : PwrSound t.pwr) : PortSound (confine ps s t) := by
  refine ⟨?_, by rw [confine_hst _ _ hh]; exact h.2⟩
  show PwrSound (if _ then _ else _)
  split
  · exact ht
  · exact h.1

theorem portSound_ans_h {s t : State} (h : PortSound s) {ps : List Part} (hh : Part.pwr ∉ ps) (ht : HstSound t.hst) : PortSound (confine ps s t) := by
  refine ⟨by rw [confine_pwr _ _ hh]; exact h.1, ?_⟩
  show HstSound (if _ then _ else _)
  split
  · exact ht
  · exact h.2

theorem flushed_sound {s t : State} (h : PwrSound s.pwr) (ht : ∃ l, t.pwr = { s.pwr with flush := l }) : PwrSound t.pwr := by
  obtain ⟨l, hl⟩ := ht
  rw [hl]
  exact h

theorem portSound_sillClear (s : State) : PortSound (sillClear s) :=
  ⟨⟨(by decide : 1 ≤ 3), (fun r hr => absurd hr List.not_mem_nil), (fun _ => rfl), (fun r hr => absurd hr List.not_mem_nil), (fun r hr => absurd hr List.not_mem_nil)⟩, ⟨Nat.zero_le _, (by decide : 0 < 256)⟩⟩

end Sys2Proof.Machine
end

