-- ==== Sys2Proof/Laws/Store.lean ====
section
/-! SUPPORT. Laws/Store.lean: the tiers' memory: a read after a write, and the canonical form, which every operation of the
store keeps and which the store has after reset. -/
namespace Sys2Proof.Machine

/-! ## A read after a write -/

/-- A near line reads as it was put. -/
@[simp] theorem nearRaw_nearPut_same (s : State) (off : Nat) (e : NearLine) : nearRaw (nearPut s off e) off = e := by
  simp [nearRaw, nearPut]

/-- Every other near line is as it was. -/
theorem nearRaw_nearPut_ne (s : State) {off o : Nat} (e : NearLine) (h : o / 64 ≠ off / 64) :
    nearRaw (nearPut s off e) o = nearRaw s o := by
  simp only [nearRaw, nearPut]
  exact mgetD_mputD_ne _ _ _ _ h

/-- A far block reads as it was put. -/
@[simp] theorem farBlock_putFar_same (s : State) (b : Nat) (x : FarBlock) : farBlock (putFar s b x) b = x := by
  simp [farBlock, putFar]

theorem farBlock_putFar_ne (s : State) {b c : Nat} (x : FarBlock) (h : c ≠ b) : farBlock (putFar s b x) c = farBlock s c := by
  simp only [farBlock, putFar]
  exact mgetD_mputD_ne _ _ _ _ h

/-- An extent record reads as it was written. -/
@[simp] theorem extRec_setExt_same (s : State) (t e : Nat) (v : BitVec 128) : extRec (setExt s t e v) t e = v := by
  simp [extRec, setExt]

theorem extRec_setExt_ne (s : State) {t e u f : Nat} (v : BitVec 128) (h : extKey u f ≠ extKey t e) :
    extRec (setExt s t e v) u f = extRec s u f := by
  simp only [extRec, setExt]
  exact mgetD_mputD_ne _ _ _ _ h

@[simp] theorem tallyRec_setTally_same (s : State) (i : Nat) (v : BitVec 128) : tallyRec (setTally s i v) i = v := by
  simp [tallyRec, setTally]

theorem tallyRec_setTally_ne (s : State) {i j : Nat} (v : BitVec 128) (h : j ≠ i) : tallyRec (setTally s i v) j = tallyRec s j := by
  simp only [tallyRec, setTally]
  exact mgetD_mputD_ne _ _ _ _ h

@[simp] theorem verRec_setVer_same (s : State) (r : Nat) (v : BitVec 512) : verRec (setVer s r v) r = v := by
  simp [verRec, setVer]

theorem verRec_setVer_ne (s : State) {r q : Nat} (v : BitVec 512) (h : q ≠ r) : verRec (setVer s r v) q = verRec s q := by
  simp only [verRec, setVer]
  exact mgetD_mputD_ne _ _ _ _ h

/-! ## The canonical form -/

theorem wf_iff (m : Store) : m.wf = true ↔
    mcanon ({} : NearLine) m.near = true ∧ mcanon ({} : FarBlock) m.far = true ∧ mcanon 0 m.ext = true
      ∧ mcanon 0 m.ver = true ∧ mcanon 0 m.pgr = true ∧ mcanon 0 m.tally = true ∧ msorted m.pages = true := by
  unfold Store.wf
  rw [Bool.and_eq_true, Bool.and_eq_true, Bool.and_eq_true, Bool.and_eq_true, Bool.and_eq_true, Bool.and_eq_true]
  exact ⟨fun ⟨⟨⟨⟨⟨⟨a, b⟩, c⟩, d⟩, e⟩, f⟩, g⟩ => ⟨a, b, c, d, e, f, g⟩, fun ⟨a, b, c, d, e, f, g⟩ => ⟨⟨⟨⟨⟨⟨a, b⟩, c⟩, d⟩, e⟩, f⟩, g⟩⟩

/-- The store has the form after reset. -/
theorem wf_reset : State.reset.store.wf = true := by decide

/-- Writing entries over a map keeps the form, whatever they are. -/
theorem mcanon_mputAll {α : Type} [DecidableEq α] {d : α} {m : AMap α} (h : mcanon d m = true) (l : List (Nat × α)) :
    mcanon d (mputAll d m l) = true := by
  unfold mputAll
  induction l generalizing m with
  | nil => exact h
  | cons e l ih => exact ih (mcanon_mputD h e.1 e.2)

theorem wf_nearPut {s : State} (h : s.store.wf = true) (off : Nat) (e : NearLine) : (nearPut s off e).store.wf = true := by
  rw [wf_iff] at h ⊢
  exact ⟨mcanon_mputD h.1 _ _, h.2⟩

theorem wf_putFar {s : State} (h : s.store.wf = true) (b : Nat) (x : FarBlock) : (putFar s b x).store.wf = true := by
  rw [wf_iff] at h ⊢
  exact ⟨h.1, mcanon_mputD h.2.1 _ _, h.2.2⟩

theorem wf_setExt {s : State} (h : s.store.wf = true) (t e : Nat) (v : BitVec 128) : (setExt s t e v).store.wf = true := by
  rw [wf_iff] at h ⊢
  exact ⟨h.1, h.2.1, mcanon_mputD h.2.2.1 _ _, h.2.2.2⟩

theorem wf_setVer {s : State} (h : s.store.wf = true) (r : Nat) (v : BitVec 512) : (setVer s r v).store.wf = true := by
  rw [wf_iff] at h ⊢
  exact ⟨h.1, h.2.1, h.2.2.1, mcanon_mputD h.2.2.2.1 _ _, h.2.2.2.2⟩

theorem wf_setPgr {s : State} (h : s.store.wf = true) (g : Nat) (v : BitVec 512) : (setPgr s g v).store.wf = true := by
  rw [wf_iff] at h ⊢
  exact ⟨h.1, h.2.1, h.2.2.1, h.2.2.2.1, mcanon_mputD h.2.2.2.2.1 _ _, h.2.2.2.2.2⟩

theorem wf_setTally {s : State} (h : s.store.wf = true) (i : Nat) (v : BitVec 128) : (setTally s i v).store.wf = true := by
  rw [wf_iff] at h ⊢
  exact ⟨h.1, h.2.1, h.2.2.1, h.2.2.2.1, h.2.2.2.2.1, mcanon_mputD h.2.2.2.2.2.1 _ _, h.2.2.2.2.2.2⟩

theorem wf_setPage {s : State} (h : s.store.wf = true) (p : Nat) (g : Page) : (setPage s p g).store.wf = true := by
  rw [wf_iff] at h ⊢
  exact ⟨h.1, h.2.1, h.2.2.1, h.2.2.2.1, h.2.2.2.2.1, h.2.2.2.2.2.1, msorted_mput h.2.2.2.2.2.2 _ _⟩

/-- What keeps the store keeps its form. -/
theorem wf_of_eq {s t : State} (h : s.store.wf = true) (he : t.store = s.store) : t.store.wf = true := by rw [he]; exact h

theorem wf_freePage {s : State} (h : s.store.wf = true) (p : Nat) : (freePage s p).store.wf = true := by
  unfold freePage
  split
  · exact h
  · rename_i g _
    have hs : (if btst g.entry PAGE.SYSX then s else chargeQ s TEN_QUOTA_STG.USED (pg g PAGE.TENANT) false).store = s.store := by
      split <;> simp [chargeQ]
    generalize (if btst g.entry PAGE.SYSX then s else chargeQ s TEN_QUOTA_STG.USED (pg g PAGE.TENANT) false) = u at hs
    have hu := wf_of_eq h hs
    rw [wf_iff] at hu ⊢
    exact ⟨hu.1, hu.2.1, hu.2.2.1, hu.2.2.2.1, hu.2.2.2.2.1, hu.2.2.2.2.2.1, msorted_mdel hu.2.2.2.2.2.2 _⟩

theorem wf_trimBlocks {s : State} (h : s.store.wf = true) (e k : Nat) : (trimBlocks s e k).store.wf = true := by
  rw [wf_iff] at h ⊢
  exact ⟨h.1, mcanon_mfilter h.2.1 fun b x => b / 2 ^ 18 != e || x.key == k, h.2.2⟩

theorem wf_sledContent {s : State} (h : s.store.wf = true) (n : Nat) (m : AMap FarBlock) (a b : Nat) :
    (sledContent s n m a b).store.wf = true := by
  rw [wf_iff] at h ⊢
  exact ⟨h.1, mcanon_mputAll (mcanon_mfilter h.2.1 fun b _ => !decide (b / 2 ^ 34 = n)) _, h.2.2⟩

end Sys2Proof.Machine
end

