-- ==== Sys2Proof/Tests/Base.lean ====
section
/-! SUPPORT. Tests/Base.lean: small states that the tests and witnesses start from. -/
namespace Sys2Proof.Tests
open Machine

/-- A chip that runs, as READY leaves it: chip 0 with 576 near extents and 64 far extents on sled 0. -/
def up : State :=
  setF (setF (setF (setF { State.reset with pwr := { fast := true, railen := 3, rails := [0, 1, 2, 3, 4, 5], perst := false } }
    GLB_STAT.STAGE 0 7) GLB_STAT.READY 0 1) TIER_NEARCAP.EXTENTS 0 576) TIER_FARCAP.SLED0 0 64

/-- `up` with record `r` for near or far extent 0. -/
def upExt (far : Bool) (r : BitVec 128) : State := setExt up (tierOf far) 0 r

/-- Descriptor `d` of queue context 0 in phase `ph`, with operands `ops` and work `w`. -/
def slot0 (d : Desc) (ph : Phase) (ops : List (List SAExt) := []) (w : Work := .idle) : Slot :=
  { seq := 0, d := d, ctx := 0, idx := 0, ph := ph, ops := ops, work := w }

/-- `up` with descriptor `x` as number 0. -/
def upSlot (x : Slot) : State := setSlot up 0 x

/-- A SPARSE_GEMM descriptor with every operand empty. -/
def gemm0 : Desc := 0x200

/-- A launched KV_LEASE of sub-operation `op` on lease 1. -/
def leaseOp (op : Nat) : Slot := { slot0 (bset 0x203 ⟨256 + OPND.OPSPEC.lo + 1, 3⟩ op) .launched with leases := [1] }

/-- `up` with lease 1 in state `st` with `refs` references, and descriptor `x` as number 0. -/
def upLease (st refs : Nat) (x : Slot) : State := setSlot (setLease (setLease up 1 LEASE.STATE st) 1 LEASE.REFS refs) 0 x

/-- A page of near or far block 0 in state `st`. -/
def page0 (st : Nat) : Page := { entry := bset 0 PAGE.STATE st }

/-- `up` with page `g` as page 0. -/
def upPage (g : Page) : State := { up with store := { up.store with pages := [(0, g)] } }

/-- A home in service: near extent 0 belongs to tenant 0, whose context admits every endpoint; agent 0 may cache. -/
def upHome : State :=
  let s := regSet (setF (setF (setF (upExt false (bset 0 EXT.VALID 1)) TEN_SECCTL.EN 0 1) TEN_SECCTL.EDGE 0 0xFF) HOME_DIRCFG.EN 0 1) .TEN_CAGRP 0 1
  { s with home := { s.home with caching := [0] } }

/-- `upHome` with transaction `t` under HTX 0. -/
def upTxn (t : Txn) : State := setTxn upHome 0 t

/-- `up` with table 0 in service for tenant 0 (FP32 rows, version 1 in slot A) and descriptor `x` as number 0. -/
def upTab (x : Slot) : State :=
  setEtab (setEtab (setEtab (setF (upSlot x) EMB_TTAB.EN 0 1) 0 ETAB.ACTIVE 1) 0 ETAB.VERA 1) 0 ETAB.RFMT fmFp32

/-- `up` with a record of table 0 that R325 admits: one row of one FP32 element, this chip alone in its list. -/
def upTact : State :=
  let s := setF (upExt false (bset (bset 0 EXT.VALID 1) EXT.SYS 1)) EMB_TTAB.EN 0 1
  nearWrite (setTabRec s 0 (bset (bset (bset (bset 0 ETAB.RFMT fmFp32) ETAB.DIM 1) ETAB.ROWS 1) ETAB.LISTSA 256)) (sysKey s) 256 0 false

/-- Exchange `x` at a chip whose table 0 is in service, with descriptor `d` as number 0. -/
def upX (x : Exch) (d : Slot) : State := putExch (upTab d) x

/-- A launched EMB_SWITCH of sub-operation `op` on table 0. -/
def swSlot (op : Nat) : Slot := slot0 (bset 0x302 ⟨256 + OPND.OPSPEC.lo + 1, 3⟩ op) .launched

/-- `up` with collection 0 in service for tenant 0 and descriptor `x` as number 0. -/
def upColl (x : Slot) : State := setColl (setF (upSlot x) VSC_CTAB.EN 0 1) 0 VCOLL.ACTIVE 1

/-- `up` with a record of collection 0 that R362 admits: vectors of 64 INT8 elements in near extent 1. -/
def upVact : State :=
  let s := setExt (setF (upExt false (bset (bset 0 EXT.VALID 1) EXT.SYS 1)) VSC_CTAB.EN 0 1) 0 1 (bset (bset 0 EXT.VALID 1) EXT.ATTR 1)
  nearWrite (setTabRec s 0 (bset (bset (bset 0 VCOLL.NEXT 1) VCOLL.DIM 64) VCOLL.EXTSA 256)) (sysKey s) 256 1 false

/-- `up` with port 0 of mode `mode` in state `st`. -/
def upPort (mode st : Nat) : State := setPortSt (setF up LNK_CFG.MODE 0 mode) 0 st

/-- `up` with one near extent, a cut area of two slots of two extents and a reserve of one, and descriptor `x` as number 0. -/
def upCut (x : Slot) : State :=
  let s := setF (setF (setF (setF (upSlot x) TIER_NEARCAP.EXTENTS 0 1) RED_CUTAREA.PERSLOT 0 2) RED_CUTCFG.RESCOUNT 0 1) RED_CUTAREA.FIRST 0 0
  (List.range 4).foldl (fun s e => setExt s 1 e (bset (bset (bset 0 EXT.VALID 1) EXT.SYS 1) EXT.RCLASS 2))
    (setExt s 0 0 (bset (bset 0 EXT.VALID 1) EXT.SYS 1))

/-- Chip 1 fenced. -/
def fence1 (s : State) : State := regSet s .RED_FENCED 0 2

/-- A read of the line at SA 0 by agent 0. -/
def rd0 : HomeReq := { kind := .rdShared, who := .agent 0 0, ten := 0, prv := false, sa := 0 }

/-- A write of the line at SA 0 by the chip itself. -/
def req0 : HomeReq := { kind := .engWr, who := .memClass, ten := 0, prv := true, sa := 0 }

end Sys2Proof.Tests
end

