-- ==== Sys2Proof/WellFormed.lean ====
section
/-! DEFINITION. WellFormed.lean: what a command may name: the chip's own numbered parts (R12, R16, R19, R72, R88 and the
counts of each chapter). The meanings are total; a command that names a part outside these ranges is none the hardware
can be given. -/
namespace Sys2Proof

/-- Every number in the command names a part that the chip has. -/
def Instr.wf (i : Instr) : Bool :=
  match i with
  | .extentRecordHighWrite _ e _ => decide (e < 262144)
  | .extentRecordApply _ e _ => decide (e < 262144)
  | .extentValidClear _ e _ => decide (e < 262144)
  | .extentRetireIdle _ e => decide (e < 262144)
  | .tier2WideWrite _ _ _ ten => decide (ten < 512)
  | .versionRecordWrite rgn _ _ => decide (rgn < 16384)
  | .publish _ _ => true
  | .publishHomeUpdate rgn _ _ chip tag => decide (rgn < 16384) && decide (chip < 1024) && decide (tag.dl < 2 ^ 64)
  | .publishDrained _ => true
  | .mirrorWriteAccept _ => true
  | .parityDeltaUpdate chip _ _ _ _ => decide (chip < 1024)
  | .parityDeltaAck _ _ _ => true
  | .translateDescriptor _ _ => true
  | .faultRecordWrite ten => decide (ten < 512)
  | .faultBatchClose ten => decide (ten < 512)
  | .faultRingHeadWrite ten _ => decide (ten < 512)
  | .faultRingEnable ten _ => decide (ten < 512)
  | .resumeRetry ten pslot gen => decide (ten < 512) && decide (pslot < 2048) && decide (gen < 65536)
  | .resumeAbort ten pslot gen => decide (ten < 512) && decide (pslot < 2048) && decide (gen < 65536)
  | .parkedDeadlineExpire pslot => decide (pslot < 2048)
  | .parkSlotAvailable n => decide (n < 4096)
  | .spillSpaceAvailable n => decide (n < 4096)
  | .shootdownVa _ => true
  | .shootdownTenant _ => true
  | .shootdownExtent _ => true
  | .shootdownRegion _ => true
  | .shootdownReservedKind _ => true
  | .shootdownDrained _ => true
  | .shoot chip _ kind _ _ ten => decide (chip < 1024) && decide (kind < 4) && decide (ten < 512)
  | .shootAck chip _ _ => decide (chip < 1024)
  | .queueContextEnable n _ => decide (n < 4096)
  | .queueContextDisable n _ => decide (n < 4096)
  | .queueDrainEnd n => decide (n < 4096)
  | .sqTail _ ten q _ => decide (ten < 512) && decide (q < 64)
  | .cqHead _ ten q _ => decide (ten < 512) && decide (q < 64)
  | .resume _ ten q => decide (ten < 512) && decide (q < 64)
  | .cancelAll _ ten q => decide (ten < 512) && decide (q < 64)
  | .cancelTag _ ten q _ => decide (ten < 512) && decide (q < 64)
  | .doorbellMissizedWrite _ _ _ => true
  | .descriptorFetch n => decide (n < 4096)
  | .descriptorArrive n _ _ => decide (n < 4096)
  | .descriptorLaunch _ => true
  | .descriptorDeadline _ => true
  | .interruptModerationTimer n => decide (n < 4096)
  | .hostReadFail _ _ _ => true
  | .nop _ => true
  | .tallyWait _ => true
  | .tallySet _ => true
  | .cut _ => true
  | .fill _ => true
  | .copy _ => true
  | .compare _ => true
  | .reduce _ => true
  | .prefetch _ => true
  | .adviseNone _ => true
  | .adviseHot _ => true
  | .adviseCold _ => true
  | .adviseStream _ => true
  | .adviseXltPreload _ => true
  | .sparseGemm _ => true
  | .attnDecode _ => true
  | .kvAppend _ => true
  | .kvLeaseCreate _ => true
  | .kvLeaseAcquire _ => true
  | .kvLeaseRelease _ => true
  | .kvLeaseRenew _ => true
  | .kvLeaseTruncate _ => true
  | .expertFfn _ => true
  | .layerStream _ => true
  | .embGather _ => true
  | .embUpdate _ => true
  | .embLoad _ => true
  | .embSwitch _ => true
  | .embRefresh _ => true
  | .embPin _ => true
  | .embUnpin _ => true
  | .vinsert _ => true
  | .vdelete _ => true
  | .vscan _ => true
  | .vrerank _ => true
  | .scribeRun _ => true
  | .rdShared _ chip ep => decide (chip < 1024) && decide (ep < 9)
  | .rdOwn _ chip ep => decide (chip < 1024) && decide (ep < 9)
  | .rdCur _ chip ep => decide (chip < 1024) && decide (ep < 9)
  | .wrFull _ chip ep _ => decide (chip < 1024) && decide (ep < 9)
  | .wb _ chip ep _ => decide (chip < 1024) && decide (ep < 9)
  | .evictClean _ chip ep => decide (chip < 1024) && decide (ep < 9)
  | .rspI _ chip ep => decide (chip < 1024) && decide (ep < 9)
  | .rspS _ chip ep => decide (chip < 1024) && decide (ep < 9)
  | .rspFwd _ chip ep => decide (chip < 1024) && decide (ep < 9)
  | .rspGone _ chip ep => decide (chip < 1024) && decide (ep < 9)
  | .rspData _ chip ep _ => decide (chip < 1024) && decide (ep < 9)
  | .cmpAck _ chip ep => decide (chip < 1024) && decide (ep < 9)
  | .nearReadReturn htx _ _ => decide (htx < 16384)
  | .retryQueueStart _ => true
  | .homeTransactionTimeout _ _ => true
  | .deadAgentSweepEnd _ => true
  | .engRd _ chip ep => decide (chip < 1024) && decide (ep < 9)
  | .engRdata _ chip ep _ _ => decide (chip < 1024) && decide (ep < 9)
  | .engWr _ chip ep _ => decide (chip < 1024) && decide (ep < 9)
  | .engAck _ chip ep => decide (chip < 1024) && decide (ep < 9)
  | .engErr _ chip ep => decide (chip < 1024) && decide (ep < 9)
  | .engOpx _ chip ep _ => decide (chip < 1024) && decide (ep < 9)
  | .postedWriteTimeout _ => true
  | .tallyAllocate i _ => decide (i < 65536)
  | .tallyCountWrite i _ => decide (i < 65536)
  | .tallyRelease i _ => decide (i < 65536)
  | .fillDataVerified _ => true
  | .fillUncorrectable _ => true
  | .redundantReadReturn _ _ _ => true
  | .writebackStart _ => true
  | .writebackAck _ => true
  | .dirtyAgeExpire _ => true
  | .evictionStart ten _ => decide (ten < 512)
  | .patrolScrubStep _ _ => true
  | .eraseBlockFail ch _ => decide (ch < 64)
  | .arrayGrant a => decide (a < 32)
  | .passEnd a => decide (a < 32)
  | .arrayFence a => decide (a < 32)
  | .attnRoundEnd _ _ => true
  | .leaseExpiryScan => true
  | .leaseReclaim i => decide (i < 65536)
  | .truncateBlockRelease i => decide (i < 65536)
  | .kvPoolEnable ten _ => decide (ten < 512)
  | .layerWaitDeadline _ => true
  | .embActivate _ => true
  | .embDeactivate _ => true
  | .lookup => true
  | .partialRsp => true
  | .update => true
  | .updEnd => true
  | .updAck => true
  | .updateWindowTimeout _ _ => true
  | .push => true
  | .pushEnd => true
  | .hotBufferPushRelease _ => true
  | .opxErr => true
  | .vscActivate _ => true
  | .vscDeactivate _ => true
  | .vscAdopt _ => true
  | .scanBlockRead _ ch _ _ => decide (ch < 64)
  | .planeEngineFail ch _ => decide (ch < 64)
  | .poolPieceEnd _ _ => true
  | .scribeGrant n => decide (n < 32)
  | .scrStart _ n _ => decide (n < 32)
  | .scrFinish _ n _ => decide (n < 32)
  | .scrAbort _ n _ => decide (n < 32)
  | .scrData8 _ n _ => decide (n < 32)
  | .scrData16 _ n _ => decide (n < 32)
  | .scrData32 _ n _ => decide (n < 32)
  | .scrValWrite _ n _ => decide (n < 32)
  | .scrCntWrite _ n _ => decide (n < 32)
  | .scrCfgWrite _ n _ => decide (n < 32)
  | .scrFoldWrite _ n _ => decide (n < 32)
  | .scrExpWrite _ n _ => decide (n < 32)
  | .scrStatClear _ n _ => decide (n < 32)
  | .timeExchangeStart => true
  | .timeReq p _ => decide (p < 12)
  | .timeRsp p _ _ => decide (p < 12)
  | .holdoverLimit => true
  | .ptpReferenceMessage _ _ => true
  | .raiseMatch => true
  | .portEnable p _ => decide (p < 12)
  | .detectPoll p _ => decide (p < 12)
  | .portTrainingStageDone p => decide (p < 12)
  | .trainingLimitExpire p => decide (p < 12)
  | .param p _ _ => decide (p < 12)
  | .hello p _ => decide (p < 12)
  | .encap p _ => decide (p < 12)
  | .linkFinish p _ => decide (p < 12)
  | .seedxfer p _ _ => decide (p < 12)
  | .flitReceive p _ _ _ _ _ _ _ => decide (p < 12)
  | .nakResendTimer p => decide (p < 12)
  | .retrainDone p => decide (p < 12)
  | .retrainTimeout p => decide (p < 12)
  | .rekeyInterval p => decide (p < 12)
  | .heartbeatSend p => decide (p < 12)
  | .heartbeat p _ => decide (p < 12)
  | .heartbeatWindowEnd p => decide (p < 12)
  | .deathDeclareWait y => decide (y < 1024)
  | .fence kind _ _ _ => decide (kind < 2)
  | .reportResend => true
  | .mirrorWriteTimeout _ => true
  | .ack _ _ _ => true
  | .rebuild _ _ _ _ _ => true
  | .rebuildCopyDone _ => true
  | .rebuildStop _ _ _ => true
  | .restart _ _ _ _ => true
  | .ledgerRead _ _ _ _ => true
  | .plumbCompare _ a b _ => decide (a < 32) && decide (b < 32)
  | .plumbSelftestDone _ _ _ => true
  | .cutFreezeEnd => true
  | .cutPageDrain => true
  | .cutReservePageFree => true
  | .cutDrainEnd => true
  | .cutHoldLimit => true
  | .pseudoChannelFail pc => decide (pc < 512)
  | .flashChannelUnresponsive ch => decide (ch < 64)
  | .tenantEnable t _ => decide (t < 512)
  | .tenantKeysInstalled t => decide (t < 512)
  | .tenantReset t => decide (t < 512)
  | .tenantResetDone t => decide (t < 512)
  | .tenantErase t _ => decide (t < 512)
  | .tenantEraseDone t => decide (t < 512)
  | .frameSeedCreate _ => true
  | .debugNonceRead => true
  | .debugTokenCheck _ => true
  | .getVersion _ => true
  | .getCapabilities _ => true
  | .negotiateAlgorithms _ _ _ => true
  | .getDigests _ => true
  | .getCertificate _ _ _ _ => true
  | .challenge _ _ => true
  | .getMeasurements _ _ _ _ => true
  | .doeDiscovery _ => true
  | .idekmKeyExchange _ _ => true
  | .query _ _ => true
  | .keyProg _ _ _ _ _ => true
  | .kSetGo _ _ _ _ _ => true
  | .kSetStop _ _ _ _ _ => true
  | .bringupStageEnd _ => true
  | .bringupStageLimit _ => true
  | .pwrReqRun _ => true
  | .pwrReqParked _ => true
  | .pwrReqSill _ => true
  | .idleEnter => true
  | .powerSample _ _ _ => true
  | .throttleMark => true
  | .arrayPowerGate a => decide (a < 32)
  | .arrayWakeDone a => decide (a < 32)
  | .planeEngineWakeDone ch => decide (ch < 64)
  | .sledButtonPress n => decide (n < 4)
  | .pwrSledPress _ n _ => decide (n < 4)
  | .abortWindowEnd n => decide (n < 4)
  | .quiesceWritebackDone n => decide (n < 4)
  | .quiesceTimeout n => decide (n < 4)
  | .sledLatchOpen n => decide (n < 4)
  | .sledLatchClose n => decide (n < 4)
  | .sledTestDone n _ _ _ => decide (n < 4)
  | .sledPowerGoodTimeout n => decide (n < 4)
  | .railFault rail => decide (rail < 6)
  | .lrefLoss => true
  | .prefLoss => true
  | .crystalStop => true
  | .vstbyLoss => true
  | .sillPowerOn => true
  | .perstAssert => true
  | .perstDeassert => true
  | .pfFunctionReset _ => true
  | .vfFunctionReset n => decide (n < 513)
  | .vfEnableClear _ numVfs => decide (numVfs < 513)
  | .busMasterEnableClear fn => decide (fn < 513)
  | .busMasterEnableSet fn => decide (fn < 513)
  | .glbRstWarm => true
  | .glbRstCold _ => true
  | .msixUnmask fn _ => decide (fn < 513)
  | .hostLinkRetrain _ _ _ => true
  | .mctpRead _ => true
  | .mctpWrite _ _ => true
  | .registerWrite fn bar _ size _ => decide (fn < 513) && (bar == 0 || bar == 2 || bar == 4) && decide (1 ≤ size ∧ size ≤ 4096)
  | .cntDumpNow _ => true
  | .timedDump => true
  | .sampleWrite => true
  | .ledgerRecordWrite => true
  | .ledgerWindowEnd => true
  | .ledgerStreamSend => true
  | .nearWriteDone htx => decide (htx < 16384)
  | .flitTransmit p => decide (p < 12)
  | .publishResult _ _ _ => true
  | .mirrorWritebackRequest chip _ => decide (chip < 1024)
  | .mirrorPagesWritten chip n => decide (chip < 1024) && decide (n < 4)
  | .railWithinTolerance rail => decide (rail < 6)
  | .sledPowerGood n => decide (n < 4)
  | .hostReadData _ _ => true
  | .registerRead fn bar _ size => decide (fn < 513) && (bar == 0 || bar == 2 || bar == 4) && decide (1 ≤ size ∧ size ≤ 4096)
  | .d3hotTransition fn _ => decide (fn < 513)

end Sys2Proof
end

