-- ==== Sys2Proof/Tests/Slice0.lean ====
section
/-! SUPPORT. Tests/Slice0.lean: for every statement with hypotheses, states and operands that meet them; ill-formed commands
that the checks of WellFormed refuse; and small checks of the model against the spec's own figures. -/
namespace Sys2Proof.Tests
open Machine
set_option linter.unusedVariables false
set_option Elab.async false

/-! ## Witnesses of the statements -/

theorem witness_stepRunsFrontCommand : ∃ (c : Instr) (q : List Instr) (s : State), s.pending = c :: q :=
  ⟨.crystalStop, [.perstAssert], { up with pending := [.crystalStop, .perstAssert] }, rfl⟩

theorem witness_idleStepIsOneClock : (∃ s : State, s.pending = []) ∧ ∃ s : State, s.pending = [] ∧ s.pwr.fast = false :=
  ⟨⟨up, rfl⟩, ⟨State.reset, rfl, rfl⟩⟩

theorem witness_commandsKeepWhatTheyDoNotReach :
    ∃ (c : Instr) (s t : State) (p : Part), exec c s = .next t ∧ p ∉ touches c :=
  ⟨.crystalStop, up, _, .regs, rfl, by decide⟩

theorem witness_everyStepKeepsSound : ∃ s t : State, Sound s ∧ step s = .next t :=
  ⟨{ up with pending := [.crystalStop] }, _, ⟨by decide, by decide, by decide, by decide, by decide, by decide, by decide⟩, rfl⟩

theorem witness_darkChipIgnoresCommands :
    ∃ (c : Instr) (s : State), s.pwr.sill = false ∧ s.pwr.fast = false ∧ c ≠ .sillPowerOn ∧ c ≠ .perstAssert ∧ c ≠ .perstDeassert :=
  ⟨.crystalStop, { State.reset with pwr := { sill := false } }, rfl, rfl, by decide, by decide, by decide⟩

theorem witness_registerMapIsOneToOne :
    (∃ (r : Reg) (i : Nat), i = 4095 ∧ i < (if r = .TEN_CNT then 4096 else (regPlace r).count))
    ∧ ∃ (off : Nat) (r : Reg) (i : Nat), regAt off = some (r, i) :=
  ⟨⟨.TEN_CNT, 4095, rfl, by decide⟩, ⟨0x1601000, .LDG_WIN, 0, by decide +kernel⟩⟩

theorem witness_accessCodesOfEveryField :
    (∃ (r : Reg) (f : Fld), f ∈ fieldsOf r ∧ f.acc = .w1c)
    ∧ (∃ (r q : Reg) (i j : Nat), i < 65536 ∧ j < 65536 ∧ q ≠ r)
    ∧ ∃ (r : Reg) (k : Nat), ∀ f ∈ fieldsOf r, k < f.bf.lo ∨ f.bf.lo + f.bf.w ≤ k :=
  ⟨⟨.HST_EVT, HST_EVT.READY, by decide, rfl⟩, ⟨.GLB_ID, .GLB_STAT, 65535, 65535, by decide, by decide, by decide⟩,
   ⟨.GLB_RST, 2, by decide⟩⟩

theorem witness_virtualFunctionStaysInItsWindow :
    (∃ (fn off : Nat) (r : Reg) (i : Nat), 1 ≤ fn ∧ fn ≤ 512 ∧ off < 0x1000 ∧ regAt (bar0Off fn off) = some (r, i))
    ∧ (∃ (r : Reg) (f : Fld), f ∈ fieldsOf r)
    ∧ ∃ (r q : Reg) (i j : Nat), i < 65536 ∧ j < 65536 ∧ (q ≠ r ∨ isEvtReg q = false ∧ j ≠ i) :=
  ⟨⟨512, 0x170, .TEN_QUOTA_STG, 511, by decide, by decide, by decide, by decide +kernel⟩, ⟨.TEN_QSTAT, TEN_QSTAT.STG, by decide⟩,
   ⟨.TEN_QSTAT, .TEN_QSTAT, 0, 511, by decide, by decide, by decide⟩⟩

/-- `up` with vector 2047 of the physical function pending, unmasked or not, and requests allowed. -/
def upMsix (unmasked : List Nat) : State :=
  setFn up 0 { fnOf up 0 with msixEn := true, fmask := false, bme := true, d3hot := false, pend := [2047], unmasked := unmasked }

theorem witness_maskedMessagesPend :
    (∃ (s : State) (n v : Nat), v < (if n = 0 then 2048 else 128) ∧
      ((fnOf s n).msixEn = false ∨ (fnOf s n).fmask = true ∨ v ∉ (fnOf s n).unmasked))
    ∧ (∃ (s : State) (n v : Nat), s.pwr.sill = true ∧ 2 ≤ stage s ∧ fnExists s n = true ∧ v < (if n = 0 then 2048 else 128) ∧
      (fnOf s n).msixEn = true ∧ (fnOf s n).fmask = false ∧ canIssue s n = true ∧ v ∈ (fnOf s n).pend)
    ∧ ∃ (s : State) (n v : Nat), v < (if n = 0 then 2048 else 128) ∧ (fnOf s n).msixEn = true ∧ (fnOf s n).fmask = false ∧
      v ∈ (fnOf s n).unmasked ∧ canIssue s n = true :=
  ⟨⟨upMsix [], 0, 2047, by decide +kernel, by decide +kernel⟩,
   ⟨upMsix [], 0, 2047, by decide +kernel, by decide +kernel, by decide +kernel, by decide +kernel, by decide +kernel,
     by decide +kernel, by decide +kernel, by decide +kernel⟩,
   ⟨upMsix [2047], 0, 2047, by decide +kernel, by decide +kernel, by decide +kernel, by decide +kernel, by decide +kernel⟩⟩

theorem witness_coldResetIsNotReachedThroughBar0 :
    (∃ s : State, fnServes s 0 = true ∧ ideOk s = true ∧ (fnOf s 0).wlatch = none)
    ∧ ∃ (s : State) (v : W64), s.pwr.sill = true ∧ 1 ≤ getF s GLB_STAT.STAGE ∧ btst v GLB_RST.COLD.bf = false ∧
      btst v GLB_RST.WARM.bf = true :=
  ⟨⟨up, by decide +kernel, by decide +kernel, by decide +kernel⟩,
   ⟨up, 2, by decide +kernel, by decide +kernel, by decide +kernel, by decide +kernel⟩⟩

/-- `up` with a record in place 16383 of the ledger's ring, and page 255 selected on both windows. -/
def upLedger : State :=
  let s := setF up LDG_WINSEL.PAGE 0 255
  { s with obs := { s.obs with lring := [(16383, 1)] }, hst := { s.hst with mctpPage := 255 } }

theorem witness_ledgerWindowShowsThePage :
    (∃ (s : State) (w : Nat) (r : BitVec 512), w < 512 ∧ fnServes s 0 = true ∧ ideOk s = true ∧ s.pwr.fast = true ∧
      s.hst.only = false ∧ (fnOf s 0).wlatch = none ∧ mget s.obs.lring (64 * getF s LDG_WINSEL.PAGE + w / 8) = some r)
    ∧ ∃ (s : State) (w : Nat) (r : BitVec 512), w < 512 ∧ s.pwr.sill = true ∧ s.hst.mctpPage < 256 ∧
      mget s.obs.lring (64 * s.hst.mctpPage + w / 8) = some r :=
  ⟨⟨upLedger, 511, 1, by decide, by decide +kernel, by decide +kernel, by decide +kernel, by decide +kernel, by decide +kernel,
     by decide +kernel⟩,
   ⟨upLedger, 511, 1, by decide, by decide +kernel, by decide +kernel, by decide +kernel⟩⟩

theorem witness_retiringRecordIgnoresWrites :
    ∃ (far : Bool) (e : Nat) (s : State), live s = true ∧ populated s (tierOf far) e = true ∧
      bget (extRec s (tierOf far) e) EXT.STATE = exRetiring :=
  ⟨false, 0, upExt false (bset 0 EXT.STATE exRetiring), by decide +kernel, by decide +kernel, by decide +kernel⟩

theorem witness_badRegisterAccess :
    (∃ (fn off size : Nat) (s : State), fnServes s fn = true ∧ ideOk s = true ∧ inBar0 fn off = true ∧ inAlias fn off = false ∧
      ¬ (size = 8 ∧ off % 8 = 0 ∨ size = 4 ∧ off % 4 = 0))
    ∧ ∃ (fn off : Nat) (s : State), fnServes s fn = true ∧ ideOk s = true ∧ inBar0 fn off = true ∧ inAlias fn off = false ∧
      off % 8 = 0 ∧ regAt (bar0Off fn off) = none :=
  ⟨⟨0, 0x1C, 8, up, by decide +kernel, by decide +kernel, by decide +kernel, by decide +kernel, by decide⟩,
   ⟨0, 0x20, up, by decide +kernel, by decide +kernel, by decide +kernel, by decide +kernel, by decide, by decide +kernel⟩⟩

theorem witness_mctpReachesItsRegistersAlone :
    (∃ (off : Nat) (r : Reg) (i : Nat), mctpAt off = .reg r i)
    ∧ (∃ (off : Nat) (s : State), s.pwr.sill = true ∧ mctpAt off = .nothing)
    ∧ ∃ (off : Nat) (s : State) (r : Reg) (i : Nat), s.pwr.sill = true ∧ getF s GLB_STAT.STAGE = 0 ∧ mctpAt off = .reg r i ∧
      r ∈ [.GLB_ID, .GLB_STAT, .GLB_RST, .SEC_BOOT, .SEC_DBG] :=
  ⟨⟨0x1601FF8, .LDG_WIN, 511, by decide +kernel⟩, ⟨0x10, State.reset, by decide, by decide +kernel⟩,
   ⟨0x18, State.reset, .GLB_RST, 0, by decide, by decide +kernel, by decide +kernel, by decide⟩⟩

theorem witness_countersCountWhatPasses : ∃ n : Nat, n < 128 ∧ n = 127 := ⟨127, by decide, rfl⟩

theorem witness_storeRecordCommands :
    (∃ (far : Bool) (e : Nat) (v : W64) (s : Machine.State), live s = true ∧ populated s (tierOf far) e = true ∧ poolRecord s (tierOf far) e = false ∧ btst (extRec s (tierOf far) e) EXT.VALID = false ∧ bget (extRec s (tierOf far) e) EXT.STATE ≠ exRetiring)
      ∧ (∃ (far : Bool) (e : Nat) (v : W64) (s : Machine.State) (r : BitVec 128), live s = true ∧ populated s (tierOf far) e = true ∧ poolRecord s (tierOf far) e = false ∧ btst (extRec s (tierOf far) e) EXT.VALID = false ∧ bget (extRec s (tierOf far) e) EXT.STATE ≠ exRetiring ∧ r = bset (bset (extRec s (tierOf far) e) ⟨0, 64⟩ (v ||| 1).toNat) EXT.STATE exNormal ∧ extOk s (tierOf far) r = true ∧ btst r EXT.SYS = true)
      ∧ (∃ (far : Bool) (e : Nat) (v : W64) (s : Machine.State) (r : BitVec 128) (u : Machine.State), live s = true ∧ populated s (tierOf far) e = true ∧ poolRecord s (tierOf far) e = false ∧ btst (extRec s (tierOf far) e) EXT.VALID = false ∧ bget (extRec s (tierOf far) e) EXT.STATE ≠ exRetiring ∧ r = bset (bset (extRec s (tierOf far) e) ⟨0, 64⟩ (v ||| 1).toNat) EXT.STATE exNormal ∧ extOk s (tierOf far) r = true ∧ btst r EXT.SYS = false ∧ getF s (extQuota (tierOf far)).1 (bget r EXT.OWNER) < limitQ s (extQuota (tierOf far)).2.1 (bget r EXT.OWNER) (extQuota (tierOf far)).2.2.1 ∧ u = wardCopy (setExt (chargeQ s (extQuota (tierOf far)).1 (bget r EXT.OWNER) true) (tierOf far) e r) (tierOf far) e)
      ∧ (∃ (far : Bool) (e : Nat) (v : W64) (s : Machine.State), live s = true ∧ populated s (tierOf far) e = true ∧ poolRecord s (tierOf far) e = false ∧ btst (extRec s (tierOf far) e) EXT.VALID = true ∧ bget (extRec s (tierOf far) e) EXT.STATE ≠ exRetiring)
      ∧ (∃ (far : Bool) (e : Nat) (s : Machine.State) (u : Machine.State), live s = true ∧ u = (if far then retirePages s e else s) ∧ bget (extRec u (tierOf far) e) EXT.STATE = exRetiring ∧ extQuiet u (tierOf far) e = true)
      ∧ (∃ (off : Nat) (v : Line) (prv : Bool) (ten : Nat) (s : Machine.State), live s = true ∧ t2MayWrite prv ten (off / 64 * 64) = true)
      ∧ (∃ (rgn : Nat) (v : Line) (s : Machine.State), live s = true ∧ rgn < 16384)
      ∧ (∃ (rgn : Nat) (w : Nat) (v : Line) (s : Machine.State), live s = true ∧ rgn < 16384 ∧ w < 8) :=
  ⟨⟨false, 575, 5, up, by decide +kernel⟩,
   ⟨false, 0, bset 0 EXT.SYS 1, up, bset (bset (bset 0 EXT.SYS 1) EXT.VALID 1) EXT.STATE exNormal, by decide +kernel⟩,
   ⟨true, 63, 0, setF up TEN_QUOTA_FAR.LIMIT 0 1, bset (bset 0 EXT.VALID 1) EXT.STATE exNormal, wardCopy (setExt (chargeQ (setF up TEN_QUOTA_FAR.LIMIT 0 1) TEN_QUOTA_FAR.USED 0 true) 1 63 (bset (bset 0 EXT.VALID 1) EXT.STATE exNormal)) 1 63, by decide +kernel⟩,
   ⟨false, 0, 0, upExt false 1, by decide +kernel⟩,
   ⟨false, 0, upExt false (bset 0 EXT.STATE exRetiring), upExt false (bset 0 EXT.STATE exRetiring), by decide +kernel⟩,
   ⟨0x4FFFC0, 1, true, 0, up, by decide +kernel⟩,
   ⟨16383, 0, up, by decide +kernel⟩,
   ⟨16383, 7, 0, up, by decide +kernel⟩⟩

set_option maxHeartbeats 1000000 in
theorem witness_publishAndRedundancyCommands :
    (∃ (sq : Nat) (sl : Slot) (x : SAExt) (rem : RemRecs) (s : Machine.State), live s = true ∧ slotOf s sq = some sl ∧ sl.stop = none ∧ heldBack s sq = false ∧ sl.ph = .launched ∧ opcode sl.d = ocPublish ∧ extsOf sl 0 = [x] ∧ x.len = bget (publishRec s sl.d rem) VER.LENGTH ∧ x.base % pageBytes (bget (publishRec s sl.d rem) VER.PSIZE + 1) = 0 ∧ par sl.d 58 2 % 1024 = own s ∧ fencedChip s (own s) = false)
      ∧ (∃ (sq : Nat) (sl : Slot) (x : SAExt) (rem : RemRecs) (s : Machine.State) (home : Nat), live s = true ∧ slotOf s sq = some sl ∧ sl.stop = none ∧ heldBack s sq = false ∧ sl.ph = .launched ∧ opcode sl.d = ocPublish ∧ extsOf sl 0 = [x] ∧ x.len = bget (publishRec s sl.d rem) VER.LENGTH ∧ x.base % pageBytes (bget (publishRec s sl.d rem) VER.PSIZE + 1) = 0 ∧ home = par sl.d 58 2 % 1024 ∧ home ≠ own s ∧ routed s home = true ∧ fencedChip s home = false)
      ∧ (∃ (rgn base expected : Nat) (chip : Nat) (tag dl : Nat) (s : Machine.State), live s = true ∧ chip ≠ own s)
      ∧ (∃ (id : Nat) (h : Shoot) (s : Machine.State), live s = true ∧ shootAt s id = some h ∧ h.publish.isSome = true)
      ∧ (∃ (tag : Nat) (st : Nat) (ver : Nat) (s : Machine.State) (sq : Nat) (sl : Slot), live s = true ∧ (s.que.slots.find? fun e => e.1 % 65536 == tag % 65536 && e.2.work == .await e.1 && opcode e.2.d == ocPublish) = some (sq, sl) ∧ par sl.d 58 2 % 1024 ≠ own s ∧ (st = stOk ∨ st = stVersion ∨ st = stTimeout))
      ∧ (∃ (tag : Nat) (m : MirrorWrite) (s : Machine.State), live s = true ∧ (s.store.mirrors.find? fun m => m.tag == tag) = some m ∧ m.htx = none)
      ∧ (∃ (tag : Nat) (m : MirrorWrite) (h : Nat) (x : Txn) (s : Machine.State), live s = true ∧ (s.store.mirrors.find? fun m => m.tag == tag) = some m ∧ m.htx = some h ∧ mget s.home.htx h = some x ∧ x.tr = .mirror)
      ∧ (∃ (chip tag : Nat) (sa : Nat) (pos : Nat) (delta : BitVec 32992) (s : Machine.State) (r : BitVec 128), live s = true ∧ saChip sa = own s ∧ saTier sa = 1 ∧ r = extRec s 1 (saExt sa) ∧ btst r EXT.VALID = true ∧ bget r EXT.RCLASS = 2 ∧ 8 ≤ bget r EXT.POS ∧ pos < 8 ∧ bget r EXT.STATE ≠ exLost ∧ chOf (saBlk sa) ∉ s.store.failedCh)
      ∧ (∃ (sa : Nat) (isQ ok : Bool) (s : Machine.State) (p : Nat) (g : Page), live s = true ∧ pageOf s (blkKey s sa) = some (p, g) ∧ (if isQ then g.parQ else g.parP) = true) :=
  ⟨⟨0, slot0 4 .launched [[⟨0, 0, 0, 0⟩]], ⟨0, 0, 0, 0⟩, [], upSlot (slot0 4 .launched [[⟨0, 0, 0, 0⟩]]), by decide +kernel⟩,
   ⟨0, slot0 (bset 4 ⟨464, 16⟩ 5) .launched [[⟨0, 0, 0, 0⟩]], ⟨0, 0, 0, 0⟩, [], setF (upSlot (slot0 (bset 4 ⟨464, 16⟩ 5) .launched [[⟨0, 0, 0, 0⟩]])) LNK_RT.VALID 5 1, 5, by decide +kernel⟩,
   ⟨16383, 0, 0, 1023, 0, 0, up, by decide +kernel⟩,
   ⟨0, { id := 0, kind := 3, addr := 0, len := 0, ten := 0, frame := true, publish := some (0, 0, 0) }, { up with xlt := { shoots := [{ id := 0, kind := 3, addr := 0, len := 0, ten := 0, frame := true, publish := some (0, 0, 0) }] } }, by decide +kernel⟩,
   ⟨0, 0, 7, upSlot (slot0 (bset 4 ⟨464, 16⟩ 5) .running [] (.await 0)), 0, slot0 (bset 4 ⟨464, 16⟩ 5) .running [] (.await 0), by decide +kernel⟩,
   ⟨3, { tag := 3, sa := 0, req := req0 }, { up with store := { mirrors := [{ tag := 3, sa := 0, req := req0 }] } }, by decide +kernel⟩,
   ⟨3, { tag := 3, sa := 0, htx := some 0, req := req0 }, 0, { req := req0, tr := .mirror }, { up with home := { htx := [(0, { req := req0, tr := .mirror })] }, store := { mirrors := [{ tag := 3, sa := 0, htx := some 0, req := req0 }] } }, by decide +kernel⟩,
   ⟨5, 0, 2 ^ 48, 7, 0, upExt true (bset (bset 1 EXT.RCLASS 2) EXT.POS 9), bset (bset 1 EXT.RCLASS 2) EXT.POS 9, by decide +kernel⟩,
   ⟨2 ^ 48, true, true, { up with store := { pages := [(0, { entry := 0, parQ := true })] } }, 0, { entry := 0, parQ := true }, by decide +kernel⟩⟩

set_option maxHeartbeats 1000000 in
theorem witness_translationCommands :
    (∃ (sq : Nat) (rem : RemRecs) (sl : Slot) (s : Machine.State), live s = true ∧ slotOf s sq = some sl ∧ nextToTranslate s sl = true ∧ (opcode sl.d = ocAdvise → subOp sl.d ≠ 4) ∧ sl.ops = [])
      ∧ (∃ (sq : Nat) (rem : RemRecs) (sl : Slot) (s : Machine.State), live s = true ∧ slotOf s sq = some sl ∧ nextToTranslate s sl = true ∧ opcode sl.d = ocAdvise ∧ subOp sl.d = 4)
      ∧ (∃ (ten : Nat) (e : Nat × Parked) (l : List (Nat × Parked)) (s : Machine.State), live s = true ∧ heldRecs s ten = e :: l ∧ tstF s TEN_FRING_CTL.EN ten = true ∧ fringUsed s ten < fringSize s ten)
      ∧ (∃ (ten : Nat) (n : Nat) (s : Machine.State), live s = true ∧ mget s.xlt.batch ten = some n)
      ∧ (∃ (ten : Nat) (v : W64) (s : Machine.State), live s = true)
      ∧ (∃ (ten : Nat) (v : W64) (s : Machine.State) (u : Machine.State), live s = true ∧ u = setF (setF (setF s TEN_FRING_CTL.VEC ten (bget v TEN_FRING_CTL.VEC.bf)) TEN_FRING_CTL.LOG2N ten (bget v TEN_FRING_CTL.LOG2N.bf)) TEN_FRING_CTL.EN ten (bget v TEN_FRING_CTL.EN.bf))
      ∧ (∃ (ten : Nat) (p : Nat) (k : Parked) (s : Machine.State), live s = true ∧ mget s.que.park (p % 2048) = some k ∧ qTen s k.slot.ctx = ten ∧ parkLate s k = false)
      ∧ (∃ (ten : Nat) (p : Nat) (k : Parked) (s : Machine.State), live s = true ∧ mget s.que.park (p % 2048) = some k ∧ qTen s k.slot.ctx = ten ∧ parkLate s k = false)
      ∧ (∃ (ten : Nat) (p : Nat) (k : Parked) (s : Machine.State), live s = true ∧ mget s.que.park (p % 2048) = some k ∧ qTen s k.slot.ctx = ten ∧ parkLate s k = true)
      ∧ (∃ (p : Nat) (k : Parked) (s : Machine.State), live s = true ∧ mget s.que.park p = some k ∧ hasDeadline s k.slot.ctx k.slot.d = true)
      ∧ (∃ (n : Nat) (s : Machine.State) (u : Machine.State), live s = true ∧ parkFree s (qTen s n) = true ∧ mgetD [] s.que.stopped n = [.park] ∧ cq s n QCTX.STATE = qStopped ∧ u = { s with que := { s.que with stopped := mputD [] s.que.stopped n [] } })
      ∧ (∃ (n : Nat) (s : Machine.State), live s = true ∧ parkFree s (qTen s n) = true ∧ mgetD [] s.que.stopped n = [.fring, .park])
      ∧ (∃ (n : Nat) (s : Machine.State) (u : Machine.State), live s = true ∧ spillUsed s < spillCap s ∧ mgetD [] s.que.stopped n = [.spill] ∧ cq s n QCTX.STATE = qStopped ∧ u = { s with que := { s.que with stopped := mputD [] s.que.stopped n [] } })
      ∧ (∃ (n : Nat) (s : Machine.State), live s = true ∧ spillUsed s < spillCap s ∧ mgetD [] s.que.stopped n = [.fring, .spill]) :=
  ⟨⟨0, [], slot0 0 .untranslated, upSlot (slot0 0 .untranslated), by decide +kernel⟩,
   ⟨0, [], slot0 (0x105 ||| bset 0 ⟨257 + OPND.OPSPEC.lo, 3⟩ 4) .untranslated, upSlot (slot0 (0x105 ||| bset 0 ⟨257 + OPND.OPSPEC.lo, 3⟩ 4) .untranslated), by decide +kernel⟩,
   ⟨0, (0, { slot := slot0 0 .untranslated, kind := 1, rec_ := 0, held := true, order := 0 }), [], { setF up TEN_FRING_CTL.EN 0 1 with que := { park := [(0, { slot := slot0 0 .untranslated, kind := 1, rec_ := 0, held := true, order := 0 })] } }, by decide +kernel⟩,
   ⟨511, 3, { up with xlt := { batch := [(511, 3)] } }, by decide +kernel⟩,
   ⟨511, 65535, up, by decide +kernel⟩,
   ⟨511, 0, up, setF (setF (setF up TEN_FRING_CTL.VEC 511 0) TEN_FRING_CTL.LOG2N 511 0) TEN_FRING_CTL.EN 511 0, by decide +kernel⟩,
   ⟨0, 2047, { slot := slot0 0 .untranslated, kind := 1, rec_ := 0, held := false, order := 0 }, { up with que := { park := [(2047, { slot := slot0 0 .untranslated, kind := 1, rec_ := 0, held := false, order := 0 })] } }, by decide +kernel⟩,
   ⟨0, 2047, { slot := slot0 0 .untranslated, kind := 1, rec_ := 0, held := false, order := 0 }, { up with que := { park := [(2047, { slot := slot0 0 .untranslated, kind := 1, rec_ := 0, held := false, order := 0 })] } }, by decide +kernel⟩,
   ⟨0, 2047, { slot := slot0 (bset 0 DHDR.DEADLINE 1) .untranslated, kind := 1, rec_ := 0, held := false, order := 0 }, { up with tim := { now := 256000 }, que := { park := [(2047, { slot := slot0 (bset 0 DHDR.DEADLINE 1) .untranslated, kind := 1, rec_ := 0, held := false, order := 0 })] } }, by decide +kernel⟩,
   ⟨0, { slot := slot0 (bset 0 DHDR.DEADLINE 1) .untranslated, kind := 1, rec_ := 0, held := false, order := 0 }, { up with que := { park := [(0, { slot := slot0 (bset 0 DHDR.DEADLINE 1) .untranslated, kind := 1, rec_ := 0, held := false, order := 0 })] } }, by decide +kernel⟩,
   ⟨4095, { up with que := { stopped := [(4095, [.park])], ctx := [(4095, bset 0 QCTX.STATE qStopped)] } }, { up with que := { ctx := [(4095, bset 0 QCTX.STATE qStopped)] } }, by decide +kernel⟩,
   ⟨4095, { up with que := { stopped := [(4095, [.fring, .park])], ctx := [(4095, bset 0 QCTX.STATE qStopped)] } }, by decide +kernel⟩,
   ⟨4095, { upExt false (bset (bset 1 EXT.SYS 1) EXT.ATTR 1) with que := { stopped := [(4095, [.spill])], ctx := [(4095, bset 0 QCTX.STATE qStopped)] } }, { upExt false (bset (bset 1 EXT.SYS 1) EXT.ATTR 1) with que := { ctx := [(4095, bset 0 QCTX.STATE qStopped)] } }, by decide +kernel⟩,
   ⟨4095, { upExt false (bset (bset 1 EXT.SYS 1) EXT.ATTR 1) with que := { stopped := [(4095, [.fring, .spill])], ctx := [(4095, bset 0 QCTX.STATE qStopped)] } }, by decide +kernel⟩⟩

theorem witness_shootdownCommands :
    (∃ (v : W64) (s : Machine.State) (u : Machine.State), live s = true ∧ u = setF (setF (setF (setF s XLT_INVAL_CTL.IRQ 0 (bget v XLT_INVAL_CTL.IRQ.bf)) XLT_INVAL_CTL.SCOPE 0 (bget v XLT_INVAL_CTL.SCOPE.bf)) XLT_INVAL_CTL.KIND 0 0) XLT_INVAL_CTL.TENANT 0 (bget v XLT_INVAL_CTL.TENANT.bf) ∧ shootsOpen u < 16)
      ∧ (∃ (v : W64) (s : Machine.State) (u : Machine.State), live s = true ∧ u = setF (setF (setF (setF s XLT_INVAL_CTL.IRQ 0 (bget v XLT_INVAL_CTL.IRQ.bf)) XLT_INVAL_CTL.SCOPE 0 (bget v XLT_INVAL_CTL.SCOPE.bf)) XLT_INVAL_CTL.KIND 0 1) XLT_INVAL_CTL.TENANT 0 (bget v XLT_INVAL_CTL.TENANT.bf) ∧ shootsOpen u < 16)
      ∧ (∃ (v : W64) (s : Machine.State) (u : Machine.State), live s = true ∧ u = setF (setF (setF (setF s XLT_INVAL_CTL.IRQ 0 (bget v XLT_INVAL_CTL.IRQ.bf)) XLT_INVAL_CTL.SCOPE 0 (bget v XLT_INVAL_CTL.SCOPE.bf)) XLT_INVAL_CTL.KIND 0 2) XLT_INVAL_CTL.TENANT 0 (bget v XLT_INVAL_CTL.TENANT.bf) ∧ shootsOpen u < 16)
      ∧ (∃ (v : W64) (s : Machine.State) (u : Machine.State), live s = true ∧ u = setF (setF (setF (setF s XLT_INVAL_CTL.IRQ 0 (bget v XLT_INVAL_CTL.IRQ.bf)) XLT_INVAL_CTL.SCOPE 0 (bget v XLT_INVAL_CTL.SCOPE.bf)) XLT_INVAL_CTL.KIND 0 3) XLT_INVAL_CTL.TENANT 0 (bget v XLT_INVAL_CTL.TENANT.bf) ∧ shootsOpen u < 16)
      ∧ (∃ (v : W64) (s : Machine.State), s.pwr.fast = true ∧ s.hst.only = false ∧ 4 ≤ bget v XLT_INVAL_CTL.KIND.bf)
      ∧ (∃ (id : Nat) (h : Shoot) (s : Machine.State), live s = true ∧ shootAt s id = some h ∧ h.publish = none ∧ h.holders = [] ∧ h.waitDrain = [] ∧ (h.src.isSome || h.dropped) = true)
      ∧ (∃ (chip : Nat) (id : Nat) (kind : Nat) (addr : Nat) (len : Nat) (ten : Nat) (s : Machine.State) (u : Machine.State), live s = true ∧ shootAt s (shootNo chip id) = none ∧ kind < 4 ∧ fencedChip s chip = false ∧ u = shootHere s kind ten addr len)
      ∧ (∃ (chip : Nat) (id : Nat) (drained : Bool) (h : Shoot) (s : Machine.State), live s = true ∧ (s.xlt.shoots.find? fun h => h.id == id && h.src.isNone) = some h) :=
  ⟨⟨0, up, setF (setF (setF (setF up XLT_INVAL_CTL.IRQ 0 0) XLT_INVAL_CTL.SCOPE 0 0) XLT_INVAL_CTL.KIND 0 0) XLT_INVAL_CTL.TENANT 0 0, by decide +kernel⟩,
   ⟨0, up, setF (setF (setF (setF up XLT_INVAL_CTL.IRQ 0 0) XLT_INVAL_CTL.SCOPE 0 0) XLT_INVAL_CTL.KIND 0 1) XLT_INVAL_CTL.TENANT 0 0, by decide +kernel⟩,
   ⟨0, up, setF (setF (setF (setF up XLT_INVAL_CTL.IRQ 0 0) XLT_INVAL_CTL.SCOPE 0 0) XLT_INVAL_CTL.KIND 0 2) XLT_INVAL_CTL.TENANT 0 0, by decide +kernel⟩,
   ⟨0, up, setF (setF (setF (setF up XLT_INVAL_CTL.IRQ 0 0) XLT_INVAL_CTL.SCOPE 0 0) XLT_INVAL_CTL.KIND 0 3) XLT_INVAL_CTL.TENANT 0 0, by decide +kernel⟩,
   ⟨bset 0 XLT_INVAL_CTL.KIND.bf 4, up, by decide +kernel⟩,
   ⟨0, { id := 0, kind := 3, addr := 0, len := 0, ten := 0, frame := true, dropped := true }, { up with xlt := { shoots := [{ id := 0, kind := 3, addr := 0, len := 0, ten := 0, frame := true, dropped := true }] } }, by decide +kernel⟩,
   ⟨1023, 65535, 1, 0, 0, 0, up, shootHere up 1 0 0 0, by decide +kernel⟩,
   ⟨1, 0, true, { id := 0, kind := 3, addr := 0, len := 0, ten := 0, frame := true, dropped := true }, { up with xlt := { shoots := [{ id := 0, kind := 3, addr := 0, len := 0, ten := 0, frame := true, dropped := true }] } }, by decide +kernel⟩⟩

set_option maxHeartbeats 1000000 in
theorem witness_queueCommands :
    (∃ (n : Nat) (v : W64) (s : Machine.State), live s = true ∧ n < 4096 ∧ cq s n QCTX.STATE ≠ qDraining ∧ cq s n QCTX.EN ≠ 1)
      ∧ (∃ (n : Nat) (v : W64) (s : Machine.State), live s = true ∧ n < 4096 ∧ cq s n QCTX.STATE ≠ qDraining ∧ cq s n QCTX.EN = 1)
      ∧ (∃ (n : Nat) (s : Machine.State), live s = true ∧ cq s n QCTX.STATE = qDraining ∧ cq s n QCTX.INFL = 0)
      ∧ (∃ (prv : Bool) (ten : Nat) (q : Nat) (v : W64) (n : Nat) (s : Machine.State), live s = true ∧ bellCtx s ⟨prv, ten, q⟩ = some n ∧ (bget v ⟨0, 16⟩ % 65536 + 65536 - cq s n QCTX.SQTAIL) % 65536 ≤ ringSize s n - (cq s n QCTX.SQTAIL + 65536 - cq s n QCTX.SQHEAD) % 65536)
      ∧ (∃ (prv : Bool) (ten : Nat) (q : Nat) (v : W64) (n : Nat) (s : Machine.State), live s = true ∧ bellCtx s ⟨prv, ten, q⟩ = some n ∧ (bget v ⟨0, 16⟩ % 65536 + 65536 - cq s n QCTX.CQHEAD) % 65536 ≤ (cq s n QCTX.CQTAIL + 65536 - cq s n QCTX.CQHEAD) % 65536)
      ∧ (∃ (prv : Bool) (ten : Nat) (q : Nat) (n : Nat) (s : Machine.State), live s = true ∧ bellCtx s ⟨prv, ten, q⟩ = some n ∧ cq s n QCTX.STATE = qHalted)
      ∧ (∃ (prv : Bool) (ten : Nat) (q : Nat) (n : Nat) (s : Machine.State), live s = true ∧ bellCtx s ⟨prv, ten, q⟩ = some n)
      ∧ (∃ (prv : Bool) (ten : Nat) (q : Nat) (tag : Nat) (n : Nat) (s : Machine.State) (u : Machine.State), live s = true ∧ bellCtx s ⟨prv, ten, q⟩ = some n ∧ u = { s with que := { s.que with slots := mmap s.que.slots fun _ sl => if sl.ctx = n ∧ sl.ph = .fetching ∧ sl.stop = none then { sl with ctag := tag :: sl.ctag } else sl } })
      ∧ (∃ (prv : Bool) (page : Nat) (off : Nat) (s : Machine.State), live s = true)
      ∧ (∃ (n : Nat) (k : Nat) (s : Machine.State), live s = true ∧ mget s.que.signal n = some k ∧ (s.eng.pend.any fun p => p.cpl && p.ctx == n) = false)
      ∧ (∃ (n : Nat) (k : Nat) (s : Machine.State), live s = true ∧ mget s.que.signal n = some k ∧ (s.eng.pend.any fun p => p.cpl && p.ctx == n) = true) :=
  ⟨⟨4095, 0, up, by decide +kernel⟩,
   ⟨4095, 0, setCtx up 4095 (bset (bset 0 QCTX.EN 1) QCTX.STATE qRunning), by decide +kernel⟩,
   ⟨4095, setCtx up 4095 (bset 0 QCTX.STATE qDraining), by decide +kernel⟩,
   ⟨true, 0, 4095, 16, 4095, setCtx up 4095 (bset (bset 0 QCTX.EN 1) QCTX.PRIV 1), by decide +kernel⟩,
   ⟨true, 0, 4095, 1, 4095, setCtx up 4095 (bset (bset (bset 0 QCTX.EN 1) QCTX.PRIV 1) QCTX.CQTAIL 1), by decide +kernel⟩,
   ⟨true, 0, 4095, 4095, setCtx up 4095 (bset (bset (bset 0 QCTX.EN 1) QCTX.PRIV 1) QCTX.STATE qHalted), by decide +kernel⟩,
   ⟨true, 0, 4095, 4095, setCtx up 4095 (bset (bset 0 QCTX.EN 1) QCTX.PRIV 1), by decide +kernel⟩,
   ⟨true, 0, 4095, 5, 4095, setCtx up 4095 (bset (bset 0 QCTX.EN 1) QCTX.PRIV 1), setCtx up 4095 (bset (bset 0 QCTX.EN 1) QCTX.PRIV 1), by decide +kernel⟩,
   ⟨true, 511, 4, up, by decide +kernel⟩,
   ⟨4095, 1, { up with que := { signal := [(4095, 1)] } }, by decide +kernel⟩,
   ⟨4095, 1, { up with que := { signal := [(4095, 1)] }, eng := { pend := [{ tag := 0, seq := 0, ctx := 4095, sa := 0, dst := 1, req := req0, held := false, cpl := true }] } }, by decide +kernel⟩⟩

set_option maxHeartbeats 1000000 in
theorem witness_descriptorLifeCommands :
    (∃ (n : Nat) (s : Machine.State), live s = true ∧ mayFetch s n = true ∧ 0 < fetchCount s n ∧ cq s n QCTX.SQLOC = 0)
      ∧ (∃ (n : Nat) (s : Machine.State), live s = true ∧ mayFetch s n = true ∧ 0 < fetchCount s n ∧ cq s n QCTX.SQLOC = 1 ∧ saChip (ringAddr s n (cq s n QCTX.SQHEAD)) = own s ∧ saTier (ringAddr s n (cq s n QCTX.SQHEAD)) = 0)
      ∧ (∃ (n : Nat) (first : Nat) (ds l : List Desc) (r : RingRead) (s : Machine.State) (u : Machine.State), live s = true ∧ (s.que.reads.find? fun r => r.ctx == n && r.first == first) = some r ∧ ringData s r ds = some l ∧ u = { ringErr s r with que := { (ringErr s r).que with reads := (ringErr s r).que.reads.filter fun x => !(x.ctx == n && x.first == first) } })
      ∧ (∃ (n : Nat) (first : Nat) (ds : List Desc) (r : RingRead) (s : Machine.State), live s = true ∧ (s.que.reads.find? fun r => r.ctx == n && r.first == first) = some r ∧ ringData s r ds = none)
      ∧ (∃ (sq : Nat) (sl : Slot) (s : Machine.State), live s = true ∧ slotOf s sq = some sl ∧ sl.ph = .waiting ∧ covered s sl = [] ∧ canLaunch s sl = true)
      ∧ (∃ (sq : Nat) (sl : Slot) (s : Machine.State), live s = true ∧ slotOf s sq = some sl ∧ hasDeadline s sl.ctx sl.d = true ∧ sl.ph = .untranslated)
      ∧ (∃ (sq : Nat) (sl : Slot) (s : Machine.State), live s = true ∧ slotOf s sq = some sl ∧ hasDeadline s sl.ctx sl.d = true ∧ sl.ph = .running ∧ opcode sl.d ≠ ocLayer ∧ opcode sl.d ≠ ocPublish ∧ tierWait s sq = none)
      ∧ (∃ (sq : Nat) (sl : Slot) (s : Machine.State) (st : Nat) (sub : Nat), live s = true ∧ slotOf s sq = some sl ∧ hasDeadline s sl.ctx sl.d = true ∧ sl.ph = .running ∧ opcode sl.d ≠ ocLayer ∧ opcode sl.d ≠ ocPublish ∧ tierWait s sq = some (st, sub))
      ∧ (∃ (sq : Nat) (sl : Slot) (s : Machine.State), live s = true ∧ slotOf s sq = some sl ∧ hasDeadline s sl.ctx sl.d = true ∧ sl.ph = .finishing)
      ∧ (∃ (sq : Nat) (sl : Slot) (s : Machine.State), live s = true ∧ slotOf s sq = none ∧ (s.que.retryWait.find? fun sl => sl.seq == sq) = some sl ∧ hasDeadline s sl.ctx sl.d = true)
      ∧ (∃ (id : Nat) (cause : Nat) (s : Machine.State), live s = true)
      ∧ (∃ (id : Nat) (cause : Nat) (sq : Nat) (off : Nat) (n : Nat) (sl : Slot) (s : Machine.State) (u : Machine.State), live s = true ∧ (s.que.hreads.find? fun h => h.1 == id) = some (id, sq, off, n) ∧ u = { s with que := { s.que with hreads := s.que.hreads.filter fun h => h.1 != id } } ∧ slotOf u sq = some sl) :=
  ⟨⟨4095, setCtx (setFn up 0 { bme := true }) 4095 (bset (bset (bset (bset 0 QCTX.EN 1) QCTX.PRIV 1) QCTX.STATE qRunning) QCTX.SQTAIL 1), by decide +kernel⟩,
   ⟨4095, setCtx up 4095 (bset (bset (bset (bset (bset 0 QCTX.EN 1) QCTX.PRIV 1) QCTX.STATE qRunning) QCTX.SQTAIL 1) QCTX.SQLOC 1), by decide +kernel⟩,
   ⟨4095, 0, [0], [0], { ctx := 4095, first := 0, n := 1, seqs := [0] }, { up with que := { reads := [{ ctx := 4095, first := 0, n := 1, seqs := [0] }] } }, up, by decide +kernel⟩,
   ⟨4095, 0, [], { ctx := 4095, first := 0, n := 1, seqs := [0] }, { setCtx up 4095 (bset 0 QCTX.SQLOC 1) with que := { ctx := [(4095, bset 0 QCTX.SQLOC 1)], slots := [(0, slot0 0 .fetching)], reads := [{ ctx := 4095, first := 0, n := 1, seqs := [0] }] } }, by decide +kernel⟩,
   ⟨0, slot0 0 .waiting, upSlot (slot0 0 .waiting), by decide +kernel⟩,
   ⟨0, slot0 (bset 0 DHDR.DEADLINE 1) .untranslated, upSlot (slot0 (bset 0 DHDR.DEADLINE 1) .untranslated), by decide +kernel⟩,
   ⟨0, slot0 (bset 0 DHDR.DEADLINE 1) .running, upSlot (slot0 (bset 0 DHDR.DEADLINE 1) .running), by decide +kernel⟩,
   ⟨0, slot0 (bset 0 DHDR.DEADLINE 1) .running, { upSlot (slot0 (bset 0 DHDR.DEADLINE 1) .running) with store := { pages := [(0, { entry := bset 0 PAGE.STATE pgFilling, deferred := [{ req0 with who := .slot 0 }] })] } }, stTierLate, 1, by decide +kernel⟩,
   ⟨0, slot0 (bset 0 DHDR.DEADLINE 1) .finishing, upSlot (slot0 (bset 0 DHDR.DEADLINE 1) .finishing), by decide +kernel⟩,
   ⟨0, slot0 (bset 0 DHDR.DEADLINE 1) .untranslated, { up with que := { retryWait := [slot0 (bset 0 DHDR.DEADLINE 1) .untranslated] } }, by decide +kernel⟩,
   ⟨0, 1, up, by decide +kernel⟩,
   ⟨7, 3, 0, 0, 64, slot0 0x104 .running, { upSlot (slot0 0x104 .running) with que := { slots := [(0, slot0 0x104 .running)], hreads := [(7, 0, 0, 64)] } }, upSlot (slot0 0x104 .running), by decide +kernel⟩⟩

set_option maxHeartbeats 1000000 in
theorem witness_controlCommands :
    (∃ (sq : Nat) (sl : Slot) (s : Machine.State), Begins s ocNop sq sl)
      ∧ (∃ (sq : Nat) (sl : Slot) (s : Machine.State), Begins s ocTallyWait sq sl)
      ∧ (∃ (sq : Nat) (sl : Slot) (s : Machine.State) (i : Nat), Begins s ocTallySet sq sl ∧ i = par sl.d 56 2 ∧ tallyMine s i (qTen s sl.ctx) (qPrv s sl.ctx) = true)
      ∧ (∃ (sq : Nat) (sl : Slot) (s : Machine.State), Begins s ocTallySet sq sl ∧ tallyMine s (par sl.d 56 2) (qTen s sl.ctx) (qPrv s sl.ctx) = false)
      ∧ (∃ (sq : Nat) (sl : Slot) (s : Machine.State), Begins s ocPrefetch sq sl ∧ opLen sl.d 0 ≠ 0 ∧ canIssue s (qFn s sl.ctx) = true ∧ ops0 sl.d 1 1 = 0)
      ∧ (∃ (sq : Nat) (sl : Slot) (s : Machine.State), Begins s ocPrefetch sq sl ∧ opLen sl.d 0 ≠ 0 ∧ canIssue s (qFn s sl.ctx) = true ∧ ops0 sl.d 1 1 = 1)
      ∧ (∃ (tag : Nat) (data : List Byte) (sq : Nat) (off : Nat) (n : Nat) (sl : Slot) (s : Machine.State) (u : Machine.State), live s = true ∧ (s.que.hreads.find? fun h => h.1 == tag) = some (tag, sq, off, n) ∧ u = { s with que := { s.que with hreads := s.que.hreads.filter fun h => h.1 != tag } } ∧ slotOf u sq = some sl ∧ sl.ph = .running ∧ sl.stop = none ∧ heldBack u sq = false)
      ∧ (∃ (sq : Nat) (sl : Slot) (s : Machine.State), Begins s ocAdvise sq sl ∧ subOp sl.d = 0)
      ∧ (∃ (sq : Nat) (sl : Slot) (s : Machine.State), Begins s ocAdvise sq sl ∧ subOp sl.d = 1)
      ∧ (∃ (sq : Nat) (sl : Slot) (s : Machine.State), Begins s ocAdvise sq sl ∧ subOp sl.d = 2)
      ∧ (∃ (sq : Nat) (sl : Slot) (s : Machine.State), Begins s ocAdvise sq sl ∧ subOp sl.d = 3)
      ∧ (∃ (sq : Nat) (sl : Slot) (s : Machine.State), Begins s ocAdvise sq sl ∧ subOp sl.d = 4) :=
  ⟨⟨0, slot0 0 .launched, upSlot (slot0 0 .launched), by decide +kernel⟩,
   ⟨0, slot0 1 .launched, upSlot (slot0 1 .launched), by decide +kernel⟩,
   ⟨0, slot0 (bset 2 ⟨448, 16⟩ 65535) .launched, setTally (upSlot (slot0 (bset 2 ⟨448, 16⟩ 65535) .launched)) 65535 (bset 0 TALLY.EN 1), 65535, by decide +kernel⟩,
   ⟨0, slot0 2 .launched, upSlot (slot0 2 .launched), by decide +kernel⟩,
   ⟨0, slot0 (bset 0x104 ⟨256 + OPND.LEN.lo, 8⟩ 64) .launched, setFn (upSlot (slot0 (bset 0x104 ⟨256 + OPND.LEN.lo, 8⟩ 64) .launched)) 0 { bme := true }, by decide +kernel⟩,
   ⟨0, slot0 (bset (bset 0x104 ⟨256 + OPND.LEN.lo, 8⟩ 64) ⟨257 + OPND.OPSPEC.lo, 1⟩ 1) .launched, setFn (upSlot (slot0 (bset (bset 0x104 ⟨256 + OPND.LEN.lo, 8⟩ 64) ⟨257 + OPND.OPSPEC.lo, 1⟩ 1) .launched)) 0 { bme := true }, by decide +kernel⟩,
   ⟨7, [], 0, 0, 64, slot0 0x104 .running, { upSlot (slot0 0x104 .running) with que := { slots := [(0, slot0 0x104 .running)], hreads := [(7, 0, 0, 64)] } }, upSlot (slot0 0x104 .running), by decide +kernel⟩,
   ⟨0, slot0 0x105 .launched, upSlot (slot0 0x105 .launched), by decide +kernel⟩,
   ⟨0, slot0 (bset 0x105 ⟨257 + OPND.OPSPEC.lo, 3⟩ 1) .launched, upSlot (slot0 (bset 0x105 ⟨257 + OPND.OPSPEC.lo, 3⟩ 1) .launched), by decide +kernel⟩,
   ⟨0, slot0 (bset 0x105 ⟨257 + OPND.OPSPEC.lo, 3⟩ 2) .launched, upSlot (slot0 (bset 0x105 ⟨257 + OPND.OPSPEC.lo, 3⟩ 2) .launched), by decide +kernel⟩,
   ⟨0, slot0 (bset 0x105 ⟨257 + OPND.OPSPEC.lo, 3⟩ 3) .launched, upSlot (slot0 (bset 0x105 ⟨257 + OPND.OPSPEC.lo, 3⟩ 3) .launched), by decide +kernel⟩,
   ⟨0, slot0 (bset 0x105 ⟨257 + OPND.OPSPEC.lo, 3⟩ 4) .launched, upSlot (slot0 (bset 0x105 ⟨257 + OPND.OPSPEC.lo, 3⟩ 4) .launched), by decide +kernel⟩⟩

theorem witness_poolCommands :
    (∃ (sq : Nat) (sl : Slot) (s : Machine.State), Begins s ocFill sq sl ∧ wantsScribe sl.d = false)
      ∧ (∃ (sq : Nat) (sl : Slot) (s : Machine.State), Begins s ocCopy sq sl ∧ wantsScribe sl.d = false)
      ∧ (∃ (sq : Nat) (sl : Slot) (s : Machine.State), Begins s ocCopy sq sl ∧ wantsScribe sl.d = true ∧ freeScribes s ≠ [] ∧ scribeRoom s sl = true ∧ nextForScribe s = none)
      ∧ (∃ (sq : Nat) (sl : Slot) (s : Machine.State), Begins s ocCompare sq sl ∧ wantsScribe sl.d = false)
      ∧ (∃ (sq : Nat) (sl : Slot) (s : Machine.State), Begins s ocReduce sq sl ∧ wantsScribe sl.d = false)
      ∧ (∃ (sq : Nat) (sl : Slot) (s : Machine.State), Begins s ocScribe sq sl ∧ wantsScribe sl.d = true ∧ freeScribes s ≠ [] ∧ scribeRoom s sl = true ∧ nextForScribe s = none)
      ∧ (∃ (sq : Nat) (p : Nat) (sl : Slot) (s : Machine.State) (done : List Nat) (res : Nat) (x : Slot) (u : Machine.State), live s = true ∧ slotOf s sq = some sl ∧ sl.ph = .running ∧ sl.stop = none ∧ heldBack s sq = false ∧ sl.work = .pool done res none ∧ sl.err = none ∧ p ∉ done ∧ p < pieces sl.d ∧ u = (pieceReads sl.d p).foldl (fun s r => askBytes s sq r.1 r.2.1 r.2.2) s ∧ slotOf u sq = some x ∧ x.err = none ∧ ((pieceReads sl.d p).all fun r => haveBytes x r.1 r.2.1 r.2.2) = true)
      ∧ (∃ (n : Nat) (sl : Slot) (x : Slot) (s : Machine.State) (u : Machine.State), live s = true ∧ n ∈ freeScribes s ∧ nextForScribe s = some sl ∧ u = takeScribe s n sl.seq ∧ slotOf u sl.seq = some x ∧ x.ph = .launched ∧ x.stop = none ∧ heldBack u sl.seq = false) :=
  ⟨⟨0, slot0 0x100 .launched, upSlot (slot0 0x100 .launched), by decide +kernel⟩,
   ⟨0, slot0 0x101 .launched, upSlot (slot0 0x101 .launched), by decide +kernel⟩,
   ⟨0, slot0 (bset 0x101 ⟨257 + OPND.OPSPEC.lo, 1⟩ 1) .launched, upSlot (slot0 (bset 0x101 ⟨257 + OPND.OPSPEC.lo, 1⟩ 1) .launched), by decide +kernel⟩,
   ⟨0, slot0 0x102 .launched, upSlot (slot0 0x102 .launched), by decide +kernel⟩,
   ⟨0, slot0 0x103 .launched, upSlot (slot0 0x103 .launched), by decide +kernel⟩,
   ⟨0, slot0 0x500 .launched, upSlot (slot0 0x500 .launched), by decide +kernel⟩,
   ⟨0, 0, slot0 (bset 0x100 ⟨256 + OPND.LEN.lo, 8⟩ 64) .running [] (.pool [] 0 none), upSlot (slot0 (bset 0x100 ⟨256 + OPND.LEN.lo, 8⟩ 64) .running [] (.pool [] 0 none)), [], 0, slot0 (bset 0x100 ⟨256 + OPND.LEN.lo, 8⟩ 64) .running [] (.pool [] 0 none), upSlot (slot0 (bset 0x100 ⟨256 + OPND.LEN.lo, 8⟩ 64) .running [] (.pool [] 0 none)), by decide +kernel⟩,
   ⟨0, slot0 0x500 .launched, slot0 0x500 .launched, { upSlot (slot0 0x500 .launched) with nmo := { waiting := [0] } }, takeScribe { upSlot (slot0 0x500 .launched) with nmo := { waiting := [0] } } 0 0, by decide +kernel⟩⟩

set_option maxHeartbeats 1000000 in
theorem witness_scribeRegisterCommands :
    (∃ (fw : Bool) (n : Nat) (v : W64) (s : Machine.State) (poly : Nat) (fold : Nat), live s = true ∧ scrMine s fw n = true ∧ bget (v ||| 1#64) ⟨0, 3⟩ = 1 ∧ poly = getF s SCR_CFG.POLY n ∧ fold = getF s SCR_CFG.FOLDSEL n ∧ poly ≠ 3 ∧ fold < 2)
      ∧ (∃ (fw : Bool) (n : Nat) (v : W64) (s : Machine.State), live s = true ∧ scrMine s fw n = true ∧ bget (v ||| 2#64) ⟨0, 3⟩ = 2 ∧ tstF s SCR_STAT.ACTIVE n = true)
      ∧ (∃ (fw : Bool) (n : Nat) (v : W64) (s : Machine.State), live s = true ∧ scrMine s fw n = true ∧ bget (v ||| 4#64) ⟨0, 3⟩ = 4 ∧ tstF s SCR_STAT.ACTIVE n = true)
      ∧ (∃ (fw : Bool) (n : Nat) (v : W64) (s : Machine.State), live s = true ∧ scrMine s fw n = true ∧ tstF s SCR_STAT.ACTIVE n = true)
      ∧ (∃ (fw : Bool) (n : Nat) (v : W64) (s : Machine.State), live s = true ∧ scrMine s fw n = true ∧ tstF s SCR_STAT.ACTIVE n = true)
      ∧ (∃ (fw : Bool) (n : Nat) (v : W64) (s : Machine.State), live s = true ∧ scrMine s fw n = true ∧ tstF s SCR_STAT.ACTIVE n = true)
      ∧ (∃ (fw : Bool) (n : Nat) (v : W64) (s : Machine.State), live s = true ∧ scrMine s fw n = true ∧ tstF s SCR_STAT.ACTIVE n = true)
      ∧ (∃ (fw : Bool) (n : Nat) (v : W64) (s : Machine.State), live s = true ∧ scrMine s fw n = true ∧ tstF s SCR_STAT.ACTIVE n = true)
      ∧ (∃ (fw : Bool) (n : Nat) (v : W64) (s : Machine.State), live s = true ∧ (scrMine s fw n || (fw && n < 32)) = true)
      ∧ (∃ (fw : Bool) (n : Nat) (v : W64) (s : Machine.State), live s = true ∧ scrMine s fw n = true)
      ∧ (∃ (fw : Bool) (n : Nat) (v : W64) (s : Machine.State), live s = true ∧ scrMine s fw n = true)
      ∧ (∃ (fw : Bool) (n : Nat) (v : W64) (s : Machine.State), live s = true ∧ scrMine s fw n = true) :=
  ⟨⟨true, 31, 0, setF up SCR_CFG.OWNER 31 scFirmware, 0, 0, by decide +kernel⟩,
   ⟨true, 31, 0, setF (setF up SCR_CFG.OWNER 31 scFirmware) SCR_STAT.ACTIVE 31 1, by decide +kernel⟩,
   ⟨true, 31, 0, setF (setF up SCR_CFG.OWNER 31 scFirmware) SCR_STAT.ACTIVE 31 1, by decide +kernel⟩,
   ⟨true, 31, 0, setF (setF up SCR_CFG.OWNER 31 scFirmware) SCR_STAT.ACTIVE 31 1, by decide +kernel⟩,
   ⟨false, 0, 0, setF (setF up SCR_CFG.OWNER 0 scDriver) SCR_STAT.ACTIVE 0 1, by decide +kernel⟩,
   ⟨false, 0, 0, setF (setF up SCR_CFG.OWNER 0 scDriver) SCR_STAT.ACTIVE 0 1, by decide +kernel⟩,
   ⟨true, 31, 5, setF (setF up SCR_CFG.OWNER 31 scFirmware) SCR_STAT.ACTIVE 31 1, by decide +kernel⟩,
   ⟨true, 31, 5, setF (setF up SCR_CFG.OWNER 31 scFirmware) SCR_STAT.ACTIVE 31 1, by decide +kernel⟩,
   ⟨true, 31, 5, up, by decide +kernel⟩,
   ⟨true, 31, 5, setF up SCR_CFG.OWNER 31 scFirmware, by decide +kernel⟩,
   ⟨true, 31, 5, setF up SCR_CFG.OWNER 31 scFirmware, by decide +kernel⟩,
   ⟨true, 31, 3, setF up SCR_CFG.OWNER 31 scFirmware, by decide +kernel⟩⟩

set_option maxHeartbeats 1000000 in
theorem witness_arrayKernelCommands :
    (∃ (sq : Nat) (sl : Slot) (s : Machine.State) (u : Machine.State) (x : Slot), Begins s ocGemm sq sl ∧ u = askBytes s sq 3 0 (opLen sl.d 3) ∧ slotOf u sq = some x ∧ hardErr x = none ∧ haveBytes x 3 0 (opLen x.d 3) = true ∧ gemmSizeBad x = false)
      ∧ (∃ (sq : Nat) (sl : Slot) (s : Machine.State), Begins s ocAttn sq sl ∧ sl.work ≠ .idle)
      ∧ (∃ (sq : Nat) (sl : Slot) (s : Machine.State) (z : Machine.State) (y : Slot), Begins s ocAttn sq sl ∧ sl.work = .idle ∧ hardErr sl = none ∧ askMaps s sq sl.leases (attnLayer sl.d) = (true, z) ∧ slotOf z sq = some y)
      ∧ (∃ (sq : Nat) (sl : Slot) (s : Machine.State), Begins s ocExpert sq sl)
      ∧ (∃ (a : Nat) (sl : Slot) (x : Slot) (s : Machine.State), live s = true ∧ arrayFree s a = true ∧ nextKernel s = some sl ∧ slotOf s sl.seq = some x ∧ x.ph = .launched ∧ x.stop = none ∧ heldBack s sl.seq = false)
      ∧ (∃ (a : Nat) (sq : Nat) (sl : Slot) (s : Machine.State) (r : GemmRun) (i : Nat) (p : GPart) (u : Machine.State) (x : Slot) (ts : List (Nat × Nat)) (acc : List Nat), live s = true ∧ mget s.arr.held a = some sq ∧ slotOf s sq = some sl ∧ sl.seq = sq ∧ a ∉ s.arr.waking ∧ plumbBusy s sq = false ∧ opcode sl.d = ocGemm ∧ sl.ph = .running ∧ sl.stop = none ∧ heldBack s sq = false ∧ hardErr sl = none ∧ sl.work = .gemm r ∧ r.parts.findIdx? (fun q => q.arr == a && !q.over) = some i ∧ r.parts[i]? = some p ∧ u = askAll s sq (gemmReads sl.d) ∧ slotOf u sq = some x ∧ haveAll x (gemmReads x.d) = true ∧ p.ts[p.ran]? = some ts ∧ acc = (if p.ran = 0 then accInit u x p else readAcc (unitOf u a) (chunkRows x.d p.mt)) ∧ passSkips u x p.mt ts = [])
      ∧ (∃ (a : Nat) (sq : Nat) (sl : Slot) (s : Machine.State) (r : GemmRun) (i : Nat) (p : GPart) (u : Machine.State) (x : Slot), live s = true ∧ mget s.arr.held a = some sq ∧ slotOf s sq = some sl ∧ sl.seq = sq ∧ a ∉ s.arr.waking ∧ plumbBusy s sq = false ∧ opcode sl.d = ocGemm ∧ sl.ph = .running ∧ sl.stop = none ∧ heldBack s sq = false ∧ hardErr sl = none ∧ sl.work = .gemm r ∧ r.parts.findIdx? (fun q => q.arr == a && !q.over) = some i ∧ r.parts[i]? = some p ∧ u = askAll s sq (gemmReads sl.d) ∧ slotOf u sq = some x ∧ haveAll x (gemmReads x.d) = true ∧ p.ran = 0 ∧ p.ts = [])
      ∧ (∃ (a : Nat) (sq : Nat) (sl : Slot) (s : Machine.State) (r : FfnRun), live s = true ∧ mget s.arr.held a = some sq ∧ slotOf s sq = some sl ∧ sl.seq = sq ∧ a ∉ s.arr.waking ∧ plumbBusy s sq = false ∧ opcode sl.d = ocExpert ∧ sl.ph = .running ∧ sl.stop = none ∧ heldBack s sq = false ∧ hardErr sl = none ∧ sl.work = .ffn r)
      ∧ (∃ (a : Nat) (sq : Nat) (sl : Slot) (s : Machine.State) (e : Stop) (u : Machine.State), live s = true ∧ mget s.arr.held a = some sq ∧ slotOf s sq = some sl ∧ sl.seq = sq ∧ a ∉ s.arr.waking ∧ plumbBusy s sq = false ∧ opcode sl.d ≠ ocAttn ∧ sl.ph = .running ∧ sl.stop = some e ∧ heldBack s sq = false ∧ arraysOf s sq = [a] ∧ u = undefOut { s with arr := { s.arr with bound := (insRising s.arr.bound a).filter (fun b => !([a] : List Nat).contains b) } } sl ∧ slotOf u sq = some sl ∧ heldBack u sq = false)
      ∧ (∃ (sq : Nat) (pair : Nat) (sl : Slot) (s : Machine.State) (seqs : List AttnSeq) (groups : List AttnGroup), live s = true ∧ slotOf s sq = some sl ∧ sl.seq = sq ∧ opcode sl.d = ocAttn ∧ sl.ph = .running ∧ (arraysOf s sq).all s.arr.waking.contains = false ∧ plumbBusy s sq = false ∧ sl.stop = none ∧ heldBack s sq = false ∧ hardErr sl = none ∧ sl.work = .attn seqs groups ∧ (groups : List AttnGroup)[pair]? = none ∧ groups.all (fun g => g.done) = true)
      ∧ (∃ (a : Nat) (s : Machine.State) (u : Machine.State), live s = true ∧ a < 32 ∧ (regGet s .ARR_FENCED 0).getLsbD a = false ∧ mget s.arr.held a = none ∧ u = ledger (setEvt (regSet s .ARR_FENCED 0 (maskSet (regGet s .ARR_FENCED 0) a)) ARR_EVT.FENCE) 0x0C05 3 none [a]) :=
  ⟨⟨0, slot0 gemm0 .launched, upSlot (slot0 gemm0 .launched), upSlot (slot0 gemm0 .launched), slot0 gemm0 .launched, by decide +kernel⟩,
   ⟨0, slot0 0x201 .launched [] (.attn [] []), upSlot (slot0 0x201 .launched [] (.attn [] [])), by decide +kernel⟩,
   ⟨0, slot0 0x201 .launched, upSlot (slot0 0x201 .launched), upSlot (slot0 0x201 .launched), slot0 0x201 .launched, by decide +kernel⟩,
   ⟨0, slot0 0x204 .launched, upSlot (slot0 0x204 .launched), by decide +kernel⟩,
   ⟨31, slot0 0x204 .launched [] (.ffn {}), slot0 0x204 .launched [] (.ffn {}), { upSlot (slot0 0x204 .launched [] (.ffn {})) with arr := { waiting := [0] } }, by decide +kernel⟩,
   ⟨0, 0, slot0 gemm0 .running [] (.gemm { parts := [{ arr := 0, mt := 0, nt := 0, ts := [[]] }] }), { upSlot (slot0 gemm0 .running [] (.gemm { parts := [{ arr := 0, mt := 0, nt := 0, ts := [[]] }] })) with arr := { held := [(0, 0)] } }, { parts := [{ arr := 0, mt := 0, nt := 0, ts := [[]] }] }, 0, { arr := 0, mt := 0, nt := 0, ts := [[]] }, { upSlot (slot0 gemm0 .running [] (.gemm { parts := [{ arr := 0, mt := 0, nt := 0, ts := [[]] }] })) with arr := { held := [(0, 0)] } }, slot0 gemm0 .running [] (.gemm { parts := [{ arr := 0, mt := 0, nt := 0, ts := [[]] }] }), [], accInit ({ upSlot (slot0 gemm0 .running [] (.gemm { parts := [{ arr := 0, mt := 0, nt := 0, ts := [[]] }] })) with arr := { held := [(0, 0)] } }) (slot0 gemm0 .running [] (.gemm { parts := [{ arr := 0, mt := 0, nt := 0, ts := [[]] }] })) { arr := 0, mt := 0, nt := 0, ts := [[]] }, by decide +kernel⟩,
   ⟨0, 0, slot0 gemm0 .running [] (.gemm { parts := [{ arr := 0, mt := 0, nt := 0, ts := [] }] }), { upSlot (slot0 gemm0 .running [] (.gemm { parts := [{ arr := 0, mt := 0, nt := 0, ts := [] }] })) with arr := { held := [(0, 0)] } }, { parts := [{ arr := 0, mt := 0, nt := 0, ts := [] }] }, 0, { arr := 0, mt := 0, nt := 0, ts := [] }, { upSlot (slot0 gemm0 .running [] (.gemm { parts := [{ arr := 0, mt := 0, nt := 0, ts := [] }] })) with arr := { held := [(0, 0)] } }, slot0 gemm0 .running [] (.gemm { parts := [{ arr := 0, mt := 0, nt := 0, ts := [] }] }), by decide +kernel⟩,
   ⟨0, 0, slot0 0x204 .running [] (.ffn {}), { upSlot (slot0 0x204 .running [] (.ffn {})) with arr := { held := [(0, 0)] } }, {}, by decide +kernel⟩,
   ⟨0, 0, { slot0 0x204 .running [] .idle with stop := some (0x18, 0) }, { upSlot ({ slot0 0x204 .running [] .idle with stop := some (0x18, 0) }) with arr := { held := [(0, 0)] } }, (0x18, 0), { upSlot ({ slot0 0x204 .running [] .idle with stop := some (0x18, 0) }) with arr := { held := [(0, 0)] } }, by decide +kernel⟩,
   ⟨0, 5, slot0 0x201 .running [] (.attn [] []), { upSlot (slot0 0x201 .running [] (.attn [] [])) with arr := { held := [(0, 0)] } }, ([] : List AttnSeq), ([] : List AttnGroup), by decide +kernel⟩,
   ⟨31, up, ledger (setEvt (regSet up .ARR_FENCED 0 (maskSet (regGet up .ARR_FENCED 0) 31)) ARR_EVT.FENCE) 0x0C05 3 none [31], by decide +kernel⟩⟩

theorem witness_plumbCommands :
    (∃ (sq : Nat) (a : Nat) (b : Nat) (second : List (List Byte)) (p : Plumb) (sl : Slot) (s : Machine.State), live s = true ∧ mget s.arr.plumb sq = some p ∧ p.pair = none ∧ p.ok = false ∧ slotOf s sq = some sl ∧ sl.ph = .running ∧ sl.stop = none ∧ heldBack s sq = false ∧ ((p.out.zip (p.out.mapIdx fun i o => (o.1, second.getD i []))).all fun x => outAgree (getF (satF s RED_PLUMBSTAT.CHECKS 0) RED_PLUMB.TOL) x.1 x.2) = true)
      ∧ (∃ (sq : Nat) (a : Nat) (b : Nat) (second : List (List Byte)) (p : Plumb) (sl : Slot) (s : Machine.State) (u : Machine.State), live s = true ∧ mget s.arr.plumb sq = some p ∧ p.pair = none ∧ p.ok = false ∧ slotOf s sq = some sl ∧ sl.ph = .running ∧ sl.stop = none ∧ heldBack s sq = false ∧ ((p.out.zip (p.out.mapIdx fun i o => (o.1, second.getD i []))).all fun x => outAgree (getF (satF s RED_PLUMBSTAT.CHECKS 0) RED_PLUMB.TOL) x.1 x.2) = false ∧ u = setEvt (satF s RED_PLUMBSTAT.CHECKS 0) RED_EVT.PLUMB)
      ∧ (∃ (sq : Nat) (p : Plumb) (a : Nat) (b : Nat) (s : Machine.State) (u : Machine.State), live s = true ∧ mget s.arr.plumb sq = some p ∧ p.pair = some (a, b) ∧ u = { s with arr := { s.arr with testing := s.arr.testing.filter (fun x => x != a && x != b), plumb := mput s.arr.plumb sq { p with pair := none, ok := true, sub := 0x00C0 } } } ∧ (mget s.arr.held a == some sq) = false) :=
  ⟨⟨0, 1, 2, [], { st := 0, sub := 0, res := 0 }, slot0 0x200 .running, { upSlot (slot0 0x200 .running) with arr := { plumb := [(0, { st := 0, sub := 0, res := 0 })] } }, by decide +kernel⟩,
   ⟨0, 1, 2, [[0]], { st := 0, sub := 0, res := 0, out := [(0, [1])] }, slot0 0x200 .running, { upSlot (slot0 0x200 .running) with arr := { plumb := [(0, { st := 0, sub := 0, res := 0, out := [(0, [1])] })] } }, setEvt (satF { upSlot (slot0 0x200 .running) with arr := { plumb := [(0, { st := 0, sub := 0, res := 0, out := [(0, [1])] })] } } RED_PLUMBSTAT.CHECKS 0) RED_EVT.PLUMB, by decide +kernel⟩,
   ⟨0, { st := 0, sub := 0, res := 0, pair := some (1, 2) }, 1, 2, { upSlot (slot0 0x200 .running) with arr := { plumb := [(0, { st := 0, sub := 0, res := 0, pair := some (1, 2) })] } }, { upSlot (slot0 0x200 .running) with arr := { plumb := [(0, { st := 0, sub := 0xC0, res := 0, ok := true })] } }, by decide +kernel⟩⟩

set_option maxHeartbeats 1000000 in
theorem witness_leaseCommands :
    (∃ (sq : Nat) (sl : Slot) (s : Machine.State) (n : Nat) (j : Nat), Begins s ocKvLease sq sl ∧ subOp sl.d = 0 ∧ crMaps s (qTen s sl.ctx) sl.d = some n ∧ n ≤ kvFree s (qTen s sl.ctx) ∧ getF s TEN_KVLEASE.USED (qTen s sl.ctx) < limitQ s TEN_KVLEASE.LIMIT (qTen s sl.ctx) 65535 ∧ 0 < j ∧ j < 65536 ∧ lease s j LEASE.STATE = lsFree)
      ∧ (∃ (sq : Nat) (sl : Slot) (s : Machine.State) (i : Nat), Begins s ocKvLease sq sl ∧ subOp sl.d = 1 ∧ i = sl.leases.headD 0 ∧ (lease s i LEASE.STATE = lsLive ∨ lease s i LEASE.STATE = lsIdle) ∧ lease s i LEASE.REFS ≠ 65535)
      ∧ (∃ (sq : Nat) (sl : Slot) (s : Machine.State) (i : Nat), Begins s ocKvLease sq sl ∧ subOp sl.d = 2 ∧ i = sl.leases.headD 0 ∧ (lease s i LEASE.STATE = lsLive ∨ lease s i LEASE.STATE = lsIdle) ∧ 1 < lease s i LEASE.REFS)
      ∧ (∃ (sq : Nat) (sl : Slot) (s : Machine.State) (i : Nat), Begins s ocKvLease sq sl ∧ subOp sl.d = 2 ∧ i = sl.leases.headD 0 ∧ (lease s i LEASE.STATE = lsLive ∨ lease s i LEASE.STATE = lsIdle) ∧ lease s i LEASE.REFS = 1)
      ∧ (∃ (sq : Nat) (sl : Slot) (s : Machine.State) (i : Nat), Begins s ocKvLease sq sl ∧ subOp sl.d = 3 ∧ i = sl.leases.headD 0 ∧ (lease s i LEASE.STATE = lsLive ∨ lease s i LEASE.STATE = lsIdle) ∧ (par sl.d 48 8 = 0 ∨ s.tim.now.toNat < par sl.d 48 8))
      ∧ (∃ (sq : Nat) (sl : Slot) (s : Machine.State) (i : Nat) (u : Machine.State) (x : Slot) (ks : List Nat), Begins s ocKvLease sq sl ∧ subOp sl.d = 4 ∧ i = sl.leases.headD 0 ∧ (lease s i LEASE.STATE = lsLive ∨ lease s i LEASE.STATE = lsIdle) ∧ (par sl.d 72 1 = 0xFF ∨ par sl.d 72 1 ≤ lease s i LEASE.LAYERS) ∧ (trLayers s sl.d i).foldl (fun (a : Bool × State) l => (a.1 && (askMap a.2 sq i l).1, (askMap a.2 sq i l).2)) (true, s) = (true, u) ∧ slotOf u sq = some x ∧ hardErr x = none ∧ x.seq = sq ∧ ks = ((trLayers s sl.d i).map fun l => trSlots u x i l (par sl.d 68 4)).flatten ∧ ks ≠ [])
      ∧ (∃ (i : Nat) (s : Machine.State) (ks : List Nat), live s = true ∧ ks = ((s.kv.trunc.filter fun e => e.1 == i && truncReady s e).map fun e => e.2.1).flatten ∧ ks ≠ [])
      ∧ (∃ (i : Nat) (s : Machine.State), live s = true ∧ tstF s ARR_KVLTAB.EN = true ∧ 0 < i ∧ i < 65536 ∧ lease s i LEASE.STATE = lsReclaiming ∧ lease s i LEASE.PINS = 0)
      ∧ (∃ (s : Machine.State) (gone : List Nat), live s = true ∧ gone = (leasesUsed s).filter (fun i => (lease s i LEASE.STATE == lsLive || lease s i LEASE.STATE == lsIdle) && leaseExpired s i))
      ∧ (∃ (t : Nat) (v : W64) (s : Machine.State) (pv : W64), s.pwr.fast = true ∧ s.hst.only = false ∧ t < 512 ∧ tstF s TEN_KVPOOL.EN t = false ∧ pv = v &&& ~~~ (BitVec.ofNat 64 0x1FFFF) ∧ poolOk s t pv = true)
      ∧ (∃ (t : Nat) (v : W64) (s : Machine.State) (pv : W64), s.pwr.fast = true ∧ s.hst.only = false ∧ t < 512 ∧ tstF s TEN_KVPOOL.EN t = true ∧ pv = v &&& ~~~ (BitVec.ofNat 64 0x1FFFF) ∧ bget pv TEN_KVPOOL.EN.bf = 0 ∧ hasLease s t = false) :=
  ⟨⟨0, slot0 (bset (bset 0x203 ⟨8 * 56, 16⟩ 1) ⟨8 * 60, 8⟩ 1) .launched, setF (setF (setF (setF (setCtx (upSlot (slot0 (bset (bset 0x203 ⟨8 * 56, 16⟩ 1) ⟨8 * 60, 8⟩ 1) .launched)) 0 0) TEN_KVPOOL.EN 0 1) TEN_KVPOOL.SLOT 0 64) TEN_KVPOOL.COUNT 0 1) TEN_KVLEASE.LIMIT 0 8, 1, 1, by decide +kernel⟩,
   ⟨0, leaseOp 1, upLease 2 0 (leaseOp 1), 1, by decide +kernel⟩,
   ⟨0, leaseOp 2, upLease 1 2 (leaseOp 2), 1, by decide +kernel⟩,
   ⟨0, leaseOp 2, upLease 1 1 (leaseOp 2), 1, by decide +kernel⟩,
   ⟨0, leaseOp 3, upLease 1 0 (leaseOp 3), 1, by decide +kernel⟩,
   ⟨0, { leaseOp 4 with rdata := [(0, (1, false))] }, upLease 1 1 { leaseOp 4 with rdata := [(0, (1, false))] }, 1, upLease 1 1 { leaseOp 4 with rdata := [(0, (1, false))] }, { leaseOp 4 with rdata := [(0, (1, false))] }, [0], by decide +kernel⟩,
   ⟨1, { up with kv := { trunc := [(1, [5], [])] } }, [5], by decide +kernel⟩,
   ⟨65535, setLease (setF up ARR_KVLTAB.EN 0 1) 65535 LEASE.STATE 3, by decide +kernel⟩,
   ⟨setLease (setLease (setF up ARR_KVLTAB.EN 0 1) 7 LEASE.STATE 1) 7 LEASE.EXPIRY 1, [], by decide +kernel⟩,
   ⟨511, bset (bset (bset 0 TEN_KVPOOL.COUNT.bf 1) TEN_KVPOOL.SLOT.bf 1024) TEN_KVPOOL.EN.bf 1, upExt false (bset (bset (bset 0 EXT.VALID 1) EXT.ATTR 1) EXT.OWNER 511), bset (bset (bset 0 TEN_KVPOOL.COUNT.bf 1) TEN_KVPOOL.SLOT.bf 1024) TEN_KVPOOL.EN.bf 1, by decide +kernel⟩,
   ⟨511, 0, setF up TEN_KVPOOL.EN 511 1, 0, by decide +kernel⟩⟩

theorem witness_appendAndStreamCommands :
    (∃ (sq : Nat) (sl : Slot) (s : Machine.State) (u : Machine.State) (x : Slot) (old : Nat) (n : Nat), Begins s ocKvAppend sq sl ∧ sl.work = .idle ∧ appBlocked s sl = false ∧ askMap s sq (sl.leases.headD 0) (appLayer sl.d) = (true, u) ∧ slotOf u sq = some x ∧ x.err = none ∧ old = mapTokens u x (sl.leases.headD 0) (appLayer x.d) ∧ n = blocksFor (old + appTok u x) - blocksFor old ∧ blocksFor (old + appTok u x) ≤ lease u (sl.leases.headD 0) LEASE.MAXBLK ∧ n ≤ kvFree u (qTen s sl.ctx))
      ∧ (∃ (sq : Nat) (sl : Slot) (s : Machine.State) (d : Nat) (r : Nat) (l : Nat) (w : Bool) (bad : Option (Nat × Nat)), live s = true ∧ slotOf s sq = some sl ∧ sl.ph = .running ∧ sl.stop = none ∧ heldBack s sq = false ∧ opcode sl.d = ocLayer ∧ sl.seq = sq ∧ sl.work = .layer d r l w bad ∧ lyNL sl.d ≤ lyCount s sl d)
      ∧ (∃ (sq : Nat) (sl : Slot) (s : Machine.State) (u : Machine.State) (x : Slot) (y : Slot), Begins s ocLayer sq sl ∧ sl.work = .idle ∧ u = askBytes s sq 1 0 (opLen sl.d 1) ∧ slotOf u sq = some x ∧ x.err = none ∧ haveBytes x 1 0 (opLen x.d 1) = true ∧ lyCheck u x = 0 ∧ y = { x with ph := .running, work := .layer (lyCount u x 0) 0 0 false none })
      ∧ (∃ (sq : Nat) (sl : Slot) (s : Machine.State) (d : Nat) (r : Nat) (l : Nat) (bad : Option (Nat × Nat)) (u : Machine.State), live s = true ∧ u = layerTick s ∧ slotOf u sq = some sl ∧ sl.ph = .running ∧ sl.work = .layer d r l true bad ∧ lyStaged u sl d = false ∧ hasDeadline u sl.ctx sl.d = true ∧ qPrv u sl.ctx = true)
      ∧ (∃ (sq : Nat) (sl : Slot) (s : Machine.State) (d : Nat) (r : Nat) (l : Nat) (bad : Option (Nat × Nat)) (u : Machine.State), live s = true ∧ u = layerTick s ∧ slotOf u sq = some sl ∧ sl.ph = .running ∧ sl.work = .layer d r l true bad ∧ lyStaged u sl d = false ∧ hasDeadline u sl.ctx sl.d = true ∧ qPrv u sl.ctx = false)
      ∧ (∃ (sq : Nat) (sl : Slot) (s : Machine.State) (d : Nat) (r : Nat) (l : Nat) (w : Bool) (bad : Option (Nat × Nat)) (u : Machine.State), live s = true ∧ u = layerTick s ∧ slotOf u sq = some sl ∧ sl.work = .layer d r l w bad ∧ lyStaged u sl d = true) :=
  ⟨⟨0, { slot0 0x202 .launched with rdata := [(0, (0, false))] }, upSlot { slot0 0x202 .launched with rdata := [(0, (0, false))] }, upSlot { slot0 0x202 .launched with rdata := [(0, (0, false))] }, { slot0 0x202 .launched with rdata := [(0, (0, false))] }, 0, 0, by decide +kernel⟩,
   ⟨0, slot0 0x205 .running [] (.layer 0 0 0 false none), upSlot (slot0 0x205 .running [] (.layer 0 0 0 false none)), 0, 0, 0, false, none, by decide +kernel⟩,
   ⟨0, slot0 (bset (bset 0x205 ⟨640, 16⟩ 1) ⟨656, 16⟩ 2) .launched, setTally (setTally (setCtx (upSlot (slot0 (bset (bset 0x205 ⟨640, 16⟩ 1) ⟨656, 16⟩ 2) .launched)) 0 (bset 0 QCTX.PRIV 1)) 1 (bset 0 TALLY.EN 1)) 2 (bset 0 TALLY.EN 1), setTally (setTally (setCtx (upSlot (slot0 (bset (bset 0x205 ⟨640, 16⟩ 1) ⟨656, 16⟩ 2) .launched)) 0 (bset 0 QCTX.PRIV 1)) 1 (bset 0 TALLY.EN 1)) 2 (bset 0 TALLY.EN 1), slot0 (bset (bset 0x205 ⟨640, 16⟩ 1) ⟨656, 16⟩ 2) .launched, { slot0 (bset (bset 0x205 ⟨640, 16⟩ 1) ⟨656, 16⟩ 2) .launched with ph := .running, work := .layer 0 0 0 false none }, by decide +kernel⟩,
   ⟨0, (slotOf (layerTick (setCtx (upSlot ({ slot0 (bset (bset 0x205 ⟨DHDR.DEADLINE.lo, 1⟩ 1) ⟨256 + 128 + OPND.LEN.lo, OPND.LEN.w⟩ 16) .running [[{ base := mkSa 0 1 0, len := 4096 }], [{ base := 0, len := 16 }]] (.layer 0 0 0 true none) with rdata := [(0, (BitVec.ofNat 512 (4096 * 2 ^ 64), false))] })) 0 (bset 0 QCTX.PRIV 1))) 0).getD ({ slot0 (bset (bset 0x205 ⟨DHDR.DEADLINE.lo, 1⟩ 1) ⟨256 + 128 + OPND.LEN.lo, OPND.LEN.w⟩ 16) .running [[{ base := mkSa 0 1 0, len := 4096 }], [{ base := 0, len := 16 }]] (.layer 0 0 0 true none) with rdata := [(0, (BitVec.ofNat 512 (4096 * 2 ^ 64), false))] }), setCtx (upSlot ({ slot0 (bset (bset 0x205 ⟨DHDR.DEADLINE.lo, 1⟩ 1) ⟨256 + 128 + OPND.LEN.lo, OPND.LEN.w⟩ 16) .running [[{ base := mkSa 0 1 0, len := 4096 }], [{ base := 0, len := 16 }]] (.layer 0 0 0 true none) with rdata := [(0, (BitVec.ofNat 512 (4096 * 2 ^ 64), false))] })) 0 (bset 0 QCTX.PRIV 1), 0, 0, 0, none, layerTick (setCtx (upSlot ({ slot0 (bset (bset 0x205 ⟨DHDR.DEADLINE.lo, 1⟩ 1) ⟨256 + 128 + OPND.LEN.lo, OPND.LEN.w⟩ 16) .running [[{ base := mkSa 0 1 0, len := 4096 }], [{ base := 0, len := 16 }]] (.layer 0 0 0 true none) with rdata := [(0, (BitVec.ofNat 512 (4096 * 2 ^ 64), false))] })) 0 (bset 0 QCTX.PRIV 1)), by decide +kernel⟩,
   ⟨0, (slotOf (layerTick (upSlot ({ slot0 (bset (bset 0x205 ⟨DHDR.DEADLINE.lo, 1⟩ 1) ⟨256 + 128 + OPND.LEN.lo, OPND.LEN.w⟩ 16) .running [[{ base := mkSa 0 1 0, len := 4096 }], [{ base := 0, len := 16 }]] (.layer 0 0 0 true none) with rdata := [(0, (BitVec.ofNat 512 (4096 * 2 ^ 64), false))] }))) 0).getD ({ slot0 (bset (bset 0x205 ⟨DHDR.DEADLINE.lo, 1⟩ 1) ⟨256 + 128 + OPND.LEN.lo, OPND.LEN.w⟩ 16) .running [[{ base := mkSa 0 1 0, len := 4096 }], [{ base := 0, len := 16 }]] (.layer 0 0 0 true none) with rdata := [(0, (BitVec.ofNat 512 (4096 * 2 ^ 64), false))] }), upSlot ({ slot0 (bset (bset 0x205 ⟨DHDR.DEADLINE.lo, 1⟩ 1) ⟨256 + 128 + OPND.LEN.lo, OPND.LEN.w⟩ 16) .running [[{ base := mkSa 0 1 0, len := 4096 }], [{ base := 0, len := 16 }]] (.layer 0 0 0 true none) with rdata := [(0, (BitVec.ofNat 512 (4096 * 2 ^ 64), false))] }), 0, 0, 0, none, layerTick (upSlot ({ slot0 (bset (bset 0x205 ⟨DHDR.DEADLINE.lo, 1⟩ 1) ⟨256 + 128 + OPND.LEN.lo, OPND.LEN.w⟩ 16) .running [[{ base := mkSa 0 1 0, len := 4096 }], [{ base := 0, len := 16 }]] (.layer 0 0 0 true none) with rdata := [(0, (BitVec.ofNat 512 (4096 * 2 ^ 64), false))] })), by decide +kernel⟩,
   ⟨0, (slotOf (layerTick (upSlot ({ slot0 (bset (bset 0x205 ⟨DHDR.DEADLINE.lo, 1⟩ 1) ⟨256 + 128 + OPND.LEN.lo, OPND.LEN.w⟩ 16) .running [[{ base := mkSa 0 1 0, len := 4096 }], [{ base := 0, len := 16 }]] (.layer 0 0 0 true none) with rdata := [(0, (0, false))] }))) 0).getD ({ slot0 (bset (bset 0x205 ⟨DHDR.DEADLINE.lo, 1⟩ 1) ⟨256 + 128 + OPND.LEN.lo, OPND.LEN.w⟩ 16) .running [[{ base := mkSa 0 1 0, len := 4096 }], [{ base := 0, len := 16 }]] (.layer 0 0 0 true none) with rdata := [(0, (0, false))] }), upSlot ({ slot0 (bset (bset 0x205 ⟨DHDR.DEADLINE.lo, 1⟩ 1) ⟨256 + 128 + OPND.LEN.lo, OPND.LEN.w⟩ 16) .running [[{ base := mkSa 0 1 0, len := 4096 }], [{ base := 0, len := 16 }]] (.layer 0 0 0 true none) with rdata := [(0, (0, false))] }), 0, 1, 0, false, none, layerTick (upSlot ({ slot0 (bset (bset 0x205 ⟨DHDR.DEADLINE.lo, 1⟩ 1) ⟨256 + 128 + OPND.LEN.lo, OPND.LEN.w⟩ 16) .running [[{ base := mkSa 0 1 0, len := 4096 }], [{ base := 0, len := 16 }]] (.layer 0 0 0 true none) with rdata := [(0, (0, false))] })), by decide +kernel⟩⟩

set_option maxHeartbeats 1000000 in
theorem witness_stagingCommands :
    (∃ (b : Nat) (p : Nat) (g : Page) (s : Machine.State), live s = true ∧ pageIn s b pgFilling = some (p, g) ∧ g.redundant = false)
      ∧ (∃ (b : Nat) (p : Nat) (g : Page) (s : Machine.State), live s = true ∧ pageIn s b pgFilling = some (p, g) ∧ g.redundant = false ∧ (farBlock s b).key = 0)
      ∧ (∃ (b : Nat) (p : Nat) (g : Page) (s : Machine.State), live s = true ∧ pageIn s b pgFilling = some (p, g) ∧ g.redundant = false ∧ (farBlock s b).key ≠ 0 ∧ bget (blkRec s b) EXT.RCLASS = 0)
      ∧ (∃ (b : Nat) (p : Nat) (g : Page) (s : Machine.State), live s = true ∧ pageIn s b pgFilling = some (p, g) ∧ g.redundant = false ∧ (farBlock s b).key ≠ 0 ∧ bget (blkRec s b) EXT.RCLASS ≠ 0)
      ∧ (∃ (b : Nat) (data : BitVec 32768) (p : Nat) (g : Page) (s : Machine.State) (h : Page), live s = true ∧ pageIn s b pgFilling = some (p, g) ∧ g.redundant = true ∧ g.foreign = 0 ∧ h = { pgSet (pgFill g data) PAGE.DMASK 0xFF with sdirty := BitVec.allOnes 64 })
      ∧ (∃ (b : Nat) (data : BitVec 32768) (p : Nat) (g : Page) (s : Machine.State), live s = true ∧ pageIn s b pgFilling = some (p, g) ∧ g.redundant = true ∧ g.foreign = 0)
      ∧ (∃ (b : Nat) (p : Nat) (g : Page) (s : Machine.State), live s = true ∧ (s.store.pages.find? fun e => pageKey e.2 == b) = some (p, g) ∧ wbChosen s g = true ∧ wbReady s g = true ∧ pg g PAGE.STATE = pgDirty)
      ∧ (∃ (b : Nat) (p : Nat) (g : Page) (s : Machine.State), live s = true ∧ (s.store.pages.find? fun e => pageKey e.2 == b) = some (p, g) ∧ wbChosen s g = true ∧ wbReady s g = true ∧ pg g PAGE.STATE = pgPartial)
      ∧ (∃ (b : Nat) (p : Nat) (g : Page) (s : Machine.State), live s = true ∧ pageIn s b pgWriting = some (p, g) ∧ g.wbDone = false)
      ∧ (∃ (b : Nat) (p : Nat) (g : Page) (s : Machine.State), live s = true ∧ (s.store.pages.find? fun e => pageKey e.2 == b) = some (p, g) ∧ tstF s TIER_STGWM.MAXAGE = true ∧ pg g PAGE.DMASK ≠ 0)
      ∧ (∃ (t : Nat) (sys : Bool) (p : Nat) (g : Page) (s : Machine.State) (u : Machine.State), live s = true ∧ u = homeWork s ∧ (pageNeeded u t sys = true ∨ (sys = false ∧ poolIsLow u = true)) ∧ evictPick u t sys = some (p, g)) :=
  ⟨⟨0, 0, page0 1, upPage (page0 1), by decide +kernel⟩,
   ⟨0, 0, page0 1, upPage (page0 1), by decide +kernel⟩,
   ⟨0, 0, page0 1, ({ (upPage (page0 1)) with store := { (upPage (page0 1)).store with far := mputD {} (upPage (page0 1)).store.far 0 { key := 1 } } }), by decide +kernel⟩,
   ⟨0, 0, page0 1, setExt ({ (upPage (page0 1)) with store := { (upPage (page0 1)).store with far := mputD {} (upPage (page0 1)).store.far 0 { key := 1 } } }) 1 0 (bset 0 EXT.RCLASS 1), by decide +kernel⟩,
   ⟨0, 0, 0, { page0 1 with redundant := true }, upPage { page0 1 with redundant := true }, { pgSet (pgFill { page0 1 with redundant := true } 0) PAGE.DMASK 0xFF with sdirty := BitVec.allOnes 64 }, by decide +kernel⟩,
   ⟨0, 0, 0, { page0 1 with redundant := true }, upPage { page0 1 with redundant := true }, by decide +kernel⟩,
   ⟨0, 0, { page0 3 with wbWant := true }, upPage { page0 3 with wbWant := true }, by decide +kernel⟩,
   ⟨0, 0, { page0 4 with wbWant := true }, upPage { page0 4 with wbWant := true }, by decide +kernel⟩,
   ⟨0, 0, page0 5, upPage (page0 5), by decide +kernel⟩,
   ⟨0, 0, { entry := bset (bset 0 PAGE.STATE 3) PAGE.DMASK 1 }, setF (upPage { entry := bset (bset 0 PAGE.STATE 3) PAGE.DMASK 1 }) TIER_STGWM.MAXAGE 0 1, by decide +kernel⟩,
   ⟨0, false, 0, page0 2, { upPage (page0 2) with store := { (upPage (page0 2)).store with pageWait := [req0] } }, homeWork ({ upPage (page0 2) with store := { (upPage (page0 2)).store with pageWait := [req0] } }), by decide +kernel⟩⟩

theorem witness_nearEccCommands :
    (∃ (s : Machine.State) (n : Nat) (ecc : Nat) (sec : Option Line) (u : Machine.State), live s = true ∧ s.store.scrubHeld = none ∧ n = getF s TIER_NEARCAP.EXTENTS * 2 ^ 24 ∧ 0 < n ∧ s.store.scrub < n ∧ u = { s with store := { s.store with scrub := (s.store.scrub + 1) % n } } ∧ u.store.failedPc.contains (pcOf u (s.store.scrub * 64)) = false ∧ ownedIn u (mkSa (own u) 0 (s.store.scrub * 64)) 1 = [])
      ∧ (∃ (s : Machine.State) (n : Nat) (ecc : Nat) (sec : Option Line) (u : Machine.State), live s = true ∧ s.store.scrubHeld = none ∧ n = getF s TIER_NEARCAP.EXTENTS * 2 ^ 24 ∧ 0 < n ∧ s.store.scrub < n ∧ u = { s with store := { s.store with scrub := (s.store.scrub + 1) % n } } ∧ u.store.failedPc.contains (pcOf u (s.store.scrub * 64)) = false ∧ ownedIn u (mkSa (own u) 0 (s.store.scrub * 64)) 1 ≠ [])
      ∧ (∃ (n : Nat) (s : Machine.State) (u : Machine.State), live s = true ∧ n < 512 ∧ n ∉ s.store.failedPc ∧ u = { s with store := { s.store with failedPc := insRising s.store.failedPc n } }) :=
  ⟨⟨up, 576 * 2 ^ 24, 2, (none : Option Line), { up with store := { up.store with scrub := 1 } }, by decide +kernel⟩,
   ⟨({ up with home := { up.home with dir := [(saLine (mkSa (own up) 0 0), { st := .owned 1 })] } }), 576 * 2 ^ 24, 2, (none : Option Line), ({ ({ up with home := { up.home with dir := [(saLine (mkSa (own up) 0 0), { st := .owned 1 })] } }) with store := { up.store with scrub := 1 } }), by decide +kernel⟩,
   ⟨511, up, { up with store := { up.store with failedPc := [511] } }, by decide +kernel⟩⟩

theorem witness_agentRequestCommands :
    (∃ (hdr : BitVec 128) (chip : Nat) (ep : Nat) (s : Machine.State) (m : CohMsg), live s = true ∧ m = ⟨hdr, chip, ep, 0⟩ ∧ saTier m.sa ≠ 2 ∧ admitReq s .rdShared m = .serve)
      ∧ (∃ (hdr : BitVec 128) (chip : Nat) (ep : Nat) (s : Machine.State) (m : CohMsg), live s = true ∧ m = ⟨hdr, chip, ep, 0⟩ ∧ saTier m.sa ≠ 2 ∧ admitReq s .rdOwn m = .serve)
      ∧ (∃ (hdr : BitVec 128) (chip : Nat) (ep : Nat) (s : Machine.State) (m : CohMsg), live s = true ∧ m = ⟨hdr, chip, ep, 0⟩ ∧ saTier m.sa ≠ 2 ∧ admitReq s .rdCur m = .serve)
      ∧ (∃ (hdr : BitVec 128) (chip : Nat) (ep : Nat) (data : Line) (s : Machine.State) (m : CohMsg), live s = true ∧ m = ⟨hdr, chip, ep, data⟩ ∧ saTier m.sa ≠ 2 ∧ admitReq s .wrFull m = .serve)
      ∧ (∃ (hdr : BitVec 128) (chip : Nat) (ep : Nat) (s : Machine.State) (m : CohMsg), live s = true ∧ m = ⟨hdr, chip, ep, 0⟩ ∧ saTier m.sa = 2 ∧ admitReq s .rdCur m = .serve)
      ∧ (∃ (hdr : BitVec 128) (chip : Nat) (ep : Nat) (data : Line) (s : Machine.State) (m : CohMsg), live s = true ∧ m = ⟨hdr, chip, ep, data⟩ ∧ saTier m.sa = 2 ∧ admitReq s .wrFull m = .serve)
      ∧ (∃ (hdr : BitVec 128) (chip : Nat) (ep : Nat) (data : Line) (s : Machine.State) (m : CohMsg), live s = true ∧ m = ⟨hdr, chip, ep, data⟩ ∧ saTier m.sa ≠ 2 ∧ admitReq s .wb m = .serve)
      ∧ (∃ (hdr : BitVec 128) (chip : Nat) (ep : Nat) (s : Machine.State) (m : CohMsg), live s = true ∧ m = ⟨hdr, chip, ep, 0⟩ ∧ saTier m.sa ≠ 2 ∧ admitReq s .wb m = .serve) :=
  ⟨⟨0, 0, 0, upHome, ⟨0, 0, 0, 0⟩, by decide +kernel⟩,
   ⟨0, 0, 0, upHome, ⟨0, 0, 0, 0⟩, by decide +kernel⟩,
   ⟨0, 0, 0, upHome, ⟨0, 0, 0, 0⟩, by decide +kernel⟩,
   ⟨0, 0, 0, 0, upHome, ⟨0, 0, 0, 0⟩, by decide +kernel⟩,
   ⟨(bset 0 COHH.LINE (0x20000000000 * 0 + mkSa 0 2 0 / 64)), 0, 0, upHome, ⟨(bset 0 COHH.LINE (0x20000000000 * 0 + mkSa 0 2 0 / 64)), 0, 0, 0⟩, by decide +kernel⟩,
   ⟨(bset 0 COHH.LINE (0x20000000000 * 0 + mkSa 0 2 0 / 64)), 0, 0, 0, upHome, ⟨(bset 0 COHH.LINE (0x20000000000 * 0 + mkSa 0 2 0 / 64)), 0, 0, 0⟩, by decide +kernel⟩,
   ⟨0, 0, 0, 0, upHome, ⟨0, 0, 0, 0⟩, by decide +kernel⟩,
   ⟨0, 0, 0, upHome, ⟨0, 0, 0, 0⟩, by decide +kernel⟩⟩

set_option maxHeartbeats 1000000 in
theorem witness_snoopAnswerCommands :
    (∃ (hdr : BitVec 128) (chip : Nat) (ep : Nat) (s : Machine.State) (m : CohMsg) (h : Nat) (t : Txn), live s = true ∧ m = ⟨hdr, chip, ep, 0⟩ ∧ m.from_ ∉ s.home.dead ∧ servedBy s m.sa = own s ∧ m.reservedSet = false ∧ answered s m = some (h, t) ∧ m.from_ ∈ t.owed)
      ∧ (∃ (hdr : BitVec 128) (chip : Nat) (ep : Nat) (s : Machine.State) (m : CohMsg) (h : Nat) (t : Txn), live s = true ∧ m = ⟨hdr, chip, ep, 0⟩ ∧ m.from_ ∉ s.home.dead ∧ servedBy s m.sa = own s ∧ m.reservedSet = false ∧ answered s m = some (h, t) ∧ m.from_ ∈ t.owed)
      ∧ (∃ (hdr : BitVec 128) (chip : Nat) (ep : Nat) (s : Machine.State) (m : CohMsg) (h : Nat) (t : Txn), live s = true ∧ m = ⟨hdr, chip, ep, 0⟩ ∧ m.from_ ∉ s.home.dead ∧ servedBy s m.sa = own s ∧ m.reservedSet = false ∧ answered s m = some (h, t) ∧ m.from_ ∈ t.owed)
      ∧ (∃ (hdr : BitVec 128) (chip : Nat) (ep : Nat) (s : Machine.State) (m : CohMsg) (h : Nat) (t : Txn), live s = true ∧ m = ⟨hdr, chip, ep, 0⟩ ∧ m.from_ ∉ s.home.dead ∧ servedBy s m.sa = own s ∧ m.reservedSet = false ∧ answered s m = some (h, t) ∧ m.from_ ∈ t.owed)
      ∧ (∃ (hdr : BitVec 128) (chip : Nat) (ep : Nat) (data : Line) (s : Machine.State) (m : CohMsg) (h : Nat) (t : Txn), live s = true ∧ m = ⟨hdr, chip, ep, data⟩ ∧ m.from_ ∉ s.home.dead ∧ servedBy s m.sa = own s ∧ m.reservedSet = false ∧ answered s m = some (h, t) ∧ m.from_ ∈ t.owed)
      ∧ (∃ (hdr : BitVec 128) (chip : Nat) (ep : Nat) (s : Machine.State) (m : CohMsg) (h : Nat) (t : Txn), live s = true ∧ m = ⟨hdr, chip, ep, 0⟩ ∧ m.from_ ∉ s.home.dead ∧ servedBy s m.sa = own s ∧ m.reservedSet = false ∧ answered s m = some (h, t) ∧ t.tr = .ack ∧ m.from_ = m.agent)
      ∧ (∃ (h : Nat) (ecc : Nat) (sec : Option Line) (s : Machine.State) (t : Txn) (sa : Nat) (d : Line) (p : Bool) (u : Machine.State), live s = true ∧ mget s.home.htx h = some t ∧ t.tr = .memRd ∧ sa = (localSa s t.req.sa).getD t.req.sa ∧ needsSecondary s sa = false ∧ ecc < 2 ∧ lineRead s t.req sa = (.got d p, u))
      ∧ (∃ (h : Nat) (ecc : Nat) (d : Line) (s : Machine.State) (t : Txn) (sa : Nat), live s = true ∧ mget s.home.htx h = some t ∧ t.tr = .memRd ∧ sa = (localSa s t.req.sa).getD t.req.sa ∧ needsSecondary s sa = true)
      ∧ (∃ (h : Nat) (s : Machine.State) (t : Txn), live s = true ∧ mget s.home.htx h = some t ∧ t.tr = .memWr)
      ∧ (∃ (n : Nat) (s : Machine.State) (wr : Waiting), live s = true ∧ (s.home.retry.find? fun x => x.num == n) = some wr ∧ (s.home.retry.any fun x => saLine x.req.sa == saLine wr.req.sa && decide (x.num < n)) = false ∧ (startReq s wr.req wr.t0 true wr.made).1 = true)
      ∧ (∃ (n : Nat) (s : Machine.State) (wr : Waiting) (u : Machine.State), live s = true ∧ (s.home.retry.find? fun x => x.num == n) = some wr ∧ u = { s with home := { s.home with retry := s.home.retry.filter (·.num != n) } })
      ∧ (∃ (n : Nat) (s : Machine.State) (t : Txn) (ag : Nat) (tg : Nat) (u : Machine.State), live s = true ∧ mget s.home.htx n = some t ∧ t.req.who = .agent ag tg ∧ u = timeoutEnd (timeoutNote s t.req) n t)
      ∧ (∃ (a : Nat) (ps : List (Nat × Nat)) (s : Machine.State) (u : Machine.State) (y : Machine.State), live s = true ∧ mget s.home.sweep a = some ps ∧ u = ((ps.map (·.2)).eraseDups).foldl (fun u t => sweepTenant u a t (ps.filter (·.2 == t)).length) { s with home := { s.home with sweep := mdel s.home.sweep a } } ∧ y = setEvt (setF (setF u HOME_DEAD.AGENT 0 a) HOME_DEAD.POISONED 0 ps.length) HOME_EVT.DEAD) :=
  ⟨⟨0, 0, 0, upTxn ({ req := rd0, tr := .snp, owed := [0] } : Txn), ⟨0, 0, 0, 0⟩, 0, ({ req := rd0, tr := .snp, owed := [0] } : Txn), by decide +kernel⟩,
   ⟨0, 0, 0, upTxn ({ req := rd0, tr := .snp, owed := [0] } : Txn), ⟨0, 0, 0, 0⟩, 0, ({ req := rd0, tr := .snp, owed := [0] } : Txn), by decide +kernel⟩,
   ⟨0, 0, 0, upTxn ({ req := rd0, tr := .snp, owed := [0] } : Txn), ⟨0, 0, 0, 0⟩, 0, ({ req := rd0, tr := .snp, owed := [0] } : Txn), by decide +kernel⟩,
   ⟨0, 0, 0, upTxn ({ req := rd0, tr := .snp, owed := [0] } : Txn), ⟨0, 0, 0, 0⟩, 0, ({ req := rd0, tr := .snp, owed := [0] } : Txn), by decide +kernel⟩,
   ⟨0, 0, 0, 0, upTxn ({ req := rd0, tr := .snp, owed := [0] } : Txn), ⟨0, 0, 0, 0⟩, 0, ({ req := rd0, tr := .snp, owed := [0] } : Txn), by decide +kernel⟩,
   ⟨0, 0, 0, upTxn ({ req := rd0, tr := .ack } : Txn), ⟨0, 0, 0, 0⟩, 0, ({ req := rd0, tr := .ack } : Txn), by decide +kernel⟩,
   ⟨0, 1, none, nearWrite (upTxn ({ req := rd0, tr := .memRd } : Txn)) (keyOf upHome (recOf upHome 0)) 0 5 false, ({ req := rd0, tr := .memRd } : Txn), 0, 5, false, nearWrite (upTxn ({ req := rd0, tr := .memRd } : Txn)) (keyOf upHome (recOf upHome 0)) 0 5 false, by decide +kernel⟩,
   ⟨0, 2, 0, setExt { upTxn ({ req := rd0, tr := .memRd } : Txn) with store := { (upTxn ({ req := rd0, tr := .memRd } : Txn)).store with failedPc := [0] } } 0 0 (bset (bset 0 EXT.VALID 1) EXT.RCLASS 1), ({ req := rd0, tr := .memRd } : Txn), 0, by decide +kernel⟩,
   ⟨0, upTxn ({ req := rd0, tr := .memWr } : Txn), ({ req := rd0, tr := .memWr } : Txn), by decide +kernel⟩,
   ⟨1, { upExt false (bset (bset 0 EXT.VALID 1) EXT.ATTR 1) with home := { retry := [{ req := req0, num := 1 }] } }, ({ req := req0, num := 1 } : Waiting), by decide +kernel⟩,
   ⟨1, { upHome with home := { upHome.home with retry := [{ req := rd0, num := 1 }] } }, ({ req := rd0, num := 1 } : Waiting), { upHome with home := { upHome.home with retry := [] } }, by decide +kernel⟩,
   ⟨0, upTxn ({ req := rd0, tr := .ack } : Txn), ({ req := rd0, tr := .ack } : Txn), 0, 0, timeoutEnd (timeoutNote (upTxn ({ req := rd0, tr := .ack } : Txn)) rd0) 0 ({ req := rd0, tr := .ack } : Txn), by decide +kernel⟩,
   ⟨5, [], { upHome with home := { upHome.home with sweep := [(5, [])] } }, { upHome with home := { upHome.home with sweep := [] } }, setEvt (setF (setF { upHome with home := { upHome.home with sweep := [] } } HOME_DEAD.AGENT 0 5) HOME_DEAD.POISONED 0 0) HOME_EVT.DEAD, by decide +kernel⟩⟩

set_option maxHeartbeats 1000000 in
theorem witness_engineMessageCommands :
    (∃ (hdr : BitVec 128) (chip : Nat) (ep : Nat) (s : Machine.State) (m : EngIn), live s = true ∧ ep ≤ 8 ∧ m = ⟨hdr, chip, []⟩ ∧ engAdmit s m false = none ∧ saTier m.sa ≠ 2)
      ∧ (∃ (hdr : BitVec 128) (chip : Nat) (ep : Nat) (s : Machine.State) (m : EngIn), live s = true ∧ ep ≤ 8 ∧ m = ⟨hdr, chip, []⟩ ∧ engAdmit s m false = none ∧ saTier m.sa = 2)
      ∧ (∃ (hdr : BitVec 128) (chip : Nat) (ep : Nat) (data : List Byte) (s : Machine.State) (m : EngIn) (qs : List HomeReq), live s = true ∧ ep ≤ 8 ∧ m = ⟨hdr, chip, data⟩ ∧ isMirrorWrite s m = false ∧ engAdmit s m true = none ∧ saTier m.sa ≠ 2 ∧ qs = (cutLines m.sa m.len).map (fun x => engWrReq m x.1 x.2.1 x.2.2.1 x.2.2.2) ∧ (qs.length ≤ 1 ∨ qs.filter (fun q => saTier q.sa == 1 && q.mask != fullMask) = []))
      ∧ (∃ (hdr : BitVec 128) (chip : Nat) (ep : Nat) (data : List Byte) (s : Machine.State) (m : EngIn) (qs part : List HomeReq), live s = true ∧ ep ≤ 8 ∧ m = ⟨hdr, chip, data⟩ ∧ isMirrorWrite s m = false ∧ engAdmit s m true = none ∧ saTier m.sa ≠ 2 ∧ qs = (cutLines m.sa m.len).map (fun x => engWrReq m x.1 x.2.1 x.2.2.1 x.2.2.2) ∧ part = qs.filter (fun q => saTier q.sa == 1 && q.mask != fullMask) ∧ 1 < qs.length ∧ part ≠ [])
      ∧ (∃ (hdr : BitVec 128) (chip : Nat) (ep : Nat) (data : List Byte) (poison : Bool) (s : Machine.State) (m : EngIn) (r : RemRead), live s = true ∧ ep ≤ 8 ∧ m = ⟨hdr, chip, data⟩ ∧ (s.eng.reads.find? fun x => x.tag == m.tag) = some r ∧ ((s.eng.reads.filter (·.tag != m.tag)).find? fun x => x.seq == r.seq && x.sa == r.sa) = none)
      ∧ (∃ (hdr : BitVec 128) (chip : Nat) (ep : Nat) (s : Machine.State) (p : Pend), live s = true ∧ ep ≤ 8 ∧ p ∈ s.eng.pend ∧ p.tag = bget hdr ENGH.TAG ∧ p.held = false)
      ∧ (∃ (hdr : BitVec 128) (chip : Nat) (ep : Nat) (s : Machine.State) (p : Pend) (st : Nat), live s = true ∧ ep ≤ 8 ∧ (s.eng.pend.find? fun x => x.tag == bget hdr ENGH.TAG && !x.held) = some p ∧ st = bget hdr ENGH.TALLY)
      ∧ (∃ (hdr : BitVec 128) (chip : Nat) (ep : Nat) (s : Machine.State) (r : RemRead), live s = true ∧ ep ≤ 8 ∧ (s.eng.pend.find? fun x => x.tag == bget hdr ENGH.TAG && !x.held) = none ∧ (s.eng.reads.find? fun x => x.tag == bget hdr ENGH.TAG) = some r ∧ bget hdr ENGH.TALLY = stRegionLost)
      ∧ (∃ (tag : Nat) (s : Machine.State) (p : Pend), live s = true ∧ (s.eng.pend.find? fun x => x.tag == tag && !x.held) = some p ∧ servedBy s p.sa ≠ own s ∧ fencedChip s (servedBy s p.sa) = true)
      ∧ (∃ (tag : Nat) (s : Machine.State) (p p' : Pend), live s = true ∧ (s.eng.pend.find? fun x => x.tag == tag && !x.held) = some p ∧ servedBy s p.sa ≠ own s ∧ fencedChip s (servedBy s p.sa) = false ∧ servedBy s p.sa ≠ saChip p.sa ∧ p' = { p with dst := servedBy s p.sa })
      ∧ (∃ (tag : Nat) (s : Machine.State) (p : Pend), live s = true ∧ (s.eng.pend.find? fun x => x.tag == tag && !x.held) = some p ∧ servedBy s p.sa ≠ own s ∧ fencedChip s (servedBy s p.sa) = false ∧ servedBy s p.sa = saChip p.sa ∧ ((mget s.xlt.extc (p.sa / 2 ^ 30)).any fun r => bget r EXT.RCLASS != 0) = false)
      ∧ (∃ (tag : Nat) (s : Machine.State) (p : Pend) (u : Machine.State) (m : EngIn), live s = true ∧ (s.eng.pend.find? fun x => x.tag == tag && !x.held) = some p ∧ servedBy s p.sa = own s ∧ u = { s with eng := { s.eng with pend := s.eng.pend.map fun x => if x.tag = tag then { p with dst := own s } else x } } ∧ m = { hdr := (pendMsg u p).hdr, chip := own u, data := (pendMsg u p).data } ∧ extentStop u p.sa = none ∧ redirect u p.sa = .serve)
      ∧ (∃ (tag : Nat) (s : Machine.State) (m : MirrorWrite), live s = true ∧ (s.store.mirrors.find? fun x => x.tag == tag) = some m) :=
  ⟨⟨(bset (bset 0 ENGH.LEN 16) ENGH.SA 0), 0, 8, upHome, ⟨bset (bset 0 ENGH.LEN 16) ENGH.SA 0, 0, []⟩, by decide +kernel⟩,
   ⟨(bset (bset (bset 0 ENGH.LEN 8) ENGH.SA (mkSa 0 2 0)) ENGH.PRIV 1), 0, 8, upHome, ⟨(bset (bset (bset 0 ENGH.LEN 8) ENGH.SA (mkSa 0 2 0)) ENGH.PRIV 1), 0, []⟩, by decide +kernel⟩,
   ⟨(bset (bset 0 ENGH.LEN 16) ENGH.SA 0), 0, 8, List.replicate 16 1, upHome, ⟨bset (bset 0 ENGH.LEN 16) ENGH.SA 0, 0, List.replicate 16 1⟩, [engWrReq ⟨bset (bset 0 ENGH.LEN 16) ENGH.SA 0, 0, List.replicate 16 1⟩ 0 0 16 0], by decide +kernel⟩,
   ⟨(bset (bset 0 ENGH.LEN 80) ENGH.SA (mkSa 0 1 0)), 0, 8, List.replicate 80 1, setExt (setExt upHome 1 0 (bset 0 EXT.VALID 1)) 1 0 (bset 0 EXT.VALID 1), ⟨(bset (bset 0 ENGH.LEN 80) ENGH.SA (mkSa 0 1 0)), 0, List.replicate 80 1⟩, [engWrReq ⟨(bset (bset 0 ENGH.LEN 80) ENGH.SA (mkSa 0 1 0)), 0, List.replicate 80 1⟩ (mkSa 0 1 0) 0 64 0, engWrReq ⟨(bset (bset 0 ENGH.LEN 80) ENGH.SA (mkSa 0 1 0)), 0, List.replicate 80 1⟩ (mkSa 0 1 64) 0 16 64], [engWrReq ⟨(bset (bset 0 ENGH.LEN 80) ENGH.SA (mkSa 0 1 0)), 0, List.replicate 80 1⟩ (mkSa 0 1 64) 0 16 64], by decide +kernel⟩,
   ⟨0, 1, 8, [1], true, { up with eng := { up.eng with reads := [({ tag := 0, sa := mkSa 1 0 0, seq := 0, off := 0, len := 1 } : RemRead)] } }, ⟨0, 1, [1]⟩, ({ tag := 0, sa := mkSa 1 0 0, seq := 0, off := 0, len := 1 } : RemRead), by decide +kernel⟩,
   ⟨0, 1, 8, { up with eng := { up.eng with pend := [({ tag := 0, sa := mkSa 1 0 0, dst := 1, req := req0, ctx := 0, seq := 0 } : Pend)] } }, ({ tag := 0, sa := mkSa 1 0 0, dst := 1, req := req0, ctx := 0, seq := 0 } : Pend), by decide +kernel⟩,
   ⟨0, 1, 8, { up with eng := { up.eng with pend := [({ tag := 0, sa := mkSa 1 0 0, dst := 1, req := req0, ctx := 0, seq := 0 } : Pend)] } }, ({ tag := 0, sa := mkSa 1 0 0, dst := 1, req := req0, ctx := 0, seq := 0 } : Pend), 0, by decide +kernel⟩,
   ⟨bset 0 ENGH.TALLY stRegionLost, 1, 8, { up with eng := { up.eng with reads := [({ tag := 0, sa := mkSa 1 0 0, seq := 0, off := 0, len := 1 } : RemRead)] } }, ({ tag := 0, sa := mkSa 1 0 0, seq := 0, off := 0, len := 1 } : RemRead), by decide +kernel⟩,
   ⟨0, fence1 ({ up with eng := { up.eng with pend := [({ tag := 0, sa := mkSa 1 0 0, dst := 1, req := req0, ctx := 0, seq := 0 } : Pend)] } }), ({ tag := 0, sa := mkSa 1 0 0, dst := 1, req := req0, ctx := 0, seq := 0 } : Pend), by decide +kernel⟩,
   ⟨0, setF (setF (fence1 ({ up with eng := { up.eng with pend := [({ tag := 0, sa := mkSa 1 0 0, dst := 1, req := req0, ctx := 0, seq := 0 } : Pend)] } })) RED_STANDIN.VALID 1 1) RED_STANDIN.CHIP 1 2, ({ tag := 0, sa := mkSa 1 0 0, dst := 1, req := req0, ctx := 0, seq := 0 } : Pend), { ({ tag := 0, sa := mkSa 1 0 0, dst := 1, req := req0, ctx := 0, seq := 0 } : Pend) with dst := 2 }, by decide +kernel⟩,
   ⟨0, { up with eng := { up.eng with pend := [({ tag := 0, sa := mkSa 1 0 0, dst := 1, req := req0, ctx := 0, seq := 0 } : Pend)] } }, ({ tag := 0, sa := mkSa 1 0 0, dst := 1, req := req0, ctx := 0, seq := 0 } : Pend), by decide +kernel⟩,
   ⟨0, setExt (setF (setF (fence1 ({ up with eng := { up.eng with pend := [({ tag := 0, sa := mkSa 1 0 0, dst := 1, req := req0, ctx := 0, seq := 0 } : Pend)] } })) RED_STANDIN.VALID 1 1) RED_STANDIN.CHIP 1 0) 0 0 (bset (bset (bset (bset 0 EXT.VALID 1) EXT.RCLASS 1) EXT.ROLE 1) EXT.PCHIP 1), ({ tag := 0, sa := mkSa 1 0 0, dst := 1, req := req0, ctx := 0, seq := 0 } : Pend), { (setExt (setF (setF (fence1 ({ up with eng := { up.eng with pend := [({ tag := 0, sa := mkSa 1 0 0, dst := 1, req := req0, ctx := 0, seq := 0 } : Pend)] } })) RED_STANDIN.VALID 1 1) RED_STANDIN.CHIP 1 0) 0 0 (bset (bset (bset (bset 0 EXT.VALID 1) EXT.RCLASS 1) EXT.ROLE 1) EXT.PCHIP 1)) with eng := { (setExt (setF (setF (fence1 ({ up with eng := { up.eng with pend := [({ tag := 0, sa := mkSa 1 0 0, dst := 1, req := req0, ctx := 0, seq := 0 } : Pend)] } })) RED_STANDIN.VALID 1 1) RED_STANDIN.CHIP 1 0) 0 0 (bset (bset (bset (bset 0 EXT.VALID 1) EXT.RCLASS 1) EXT.ROLE 1) EXT.PCHIP 1)).eng with pend := [({ tag := 0, sa := mkSa 1 0 0, dst := 0, req := req0, ctx := 0, seq := 0 } : Pend)] } }, { hdr := (pendMsg ({ (setExt (setF (setF (fence1 ({ up with eng := { up.eng with pend := [({ tag := 0, sa := mkSa 1 0 0, dst := 1, req := req0, ctx := 0, seq := 0 } : Pend)] } })) RED_STANDIN.VALID 1 1) RED_STANDIN.CHIP 1 0) 0 0 (bset (bset (bset (bset 0 EXT.VALID 1) EXT.RCLASS 1) EXT.ROLE 1) EXT.PCHIP 1)) with eng := { (setExt (setF (setF (fence1 ({ up with eng := { up.eng with pend := [({ tag := 0, sa := mkSa 1 0 0, dst := 1, req := req0, ctx := 0, seq := 0 } : Pend)] } })) RED_STANDIN.VALID 1 1) RED_STANDIN.CHIP 1 0) 0 0 (bset (bset (bset (bset 0 EXT.VALID 1) EXT.RCLASS 1) EXT.ROLE 1) EXT.PCHIP 1)).eng with pend := [({ tag := 0, sa := mkSa 1 0 0, dst := 0, req := req0, ctx := 0, seq := 0 } : Pend)] } }) ({ tag := 0, sa := mkSa 1 0 0, dst := 1, req := req0, ctx := 0, seq := 0 } : Pend)).hdr, chip := 0, data := (pendMsg ({ (setExt (setF (setF (fence1 ({ up with eng := { up.eng with pend := [({ tag := 0, sa := mkSa 1 0 0, dst := 1, req := req0, ctx := 0, seq := 0 } : Pend)] } })) RED_STANDIN.VALID 1 1) RED_STANDIN.CHIP 1 0) 0 0 (bset (bset (bset (bset 0 EXT.VALID 1) EXT.RCLASS 1) EXT.ROLE 1) EXT.PCHIP 1)) with eng := { (setExt (setF (setF (fence1 ({ up with eng := { up.eng with pend := [({ tag := 0, sa := mkSa 1 0 0, dst := 1, req := req0, ctx := 0, seq := 0 } : Pend)] } })) RED_STANDIN.VALID 1 1) RED_STANDIN.CHIP 1 0) 0 0 (bset (bset (bset (bset 0 EXT.VALID 1) EXT.RCLASS 1) EXT.ROLE 1) EXT.PCHIP 1)).eng with pend := [({ tag := 0, sa := mkSa 1 0 0, dst := 0, req := req0, ctx := 0, seq := 0 } : Pend)] } }) ({ tag := 0, sa := mkSa 1 0 0, dst := 1, req := req0, ctx := 0, seq := 0 } : Pend)).data }, by decide +kernel⟩,
   ⟨3, { up with store := { up.store with mirrors := [⟨3, 0, req0, none⟩] } }, ⟨3, 0, req0, none⟩, by decide +kernel⟩⟩

theorem witness_tallyCommands :
    (∃ (i : Nat) (v : W64) (s : Machine.State) (o : Nat), live s = true ∧ 0 < i ∧ i < 65536 ∧ tallyReserved (maskSet v 9) = false ∧ btst (tallyRec s i) TALLY.EN = false ∧ maskBit (maskSet v 9) 9 = true ∧ o = bget (maskSet v 9) ⟨0, 9⟩ ∧ getF s TEN_QUOTA_TALLY.USED o < limitQ s TEN_QUOTA_TALLY.LIMIT o 65535)
      ∧ (∃ (i : Nat) (v : W64) (s : Machine.State), live s = true ∧ 0 < i ∧ i < 65536)
      ∧ (∃ (i : Nat) (v : W64) (s : Machine.State) (u : Machine.State), live s = true ∧ 0 < i ∧ i < 65536 ∧ tallyReserved (maskClr v 9) = false ∧ btst (tallyRec s i) TALLY.EN = true ∧ bget (maskClr v 9) ⟨0, 9⟩ = bget (tallyRec s i) TALLY.OWNER ∧ maskBit (maskClr v 9) 9 = false ∧ u = chargeQ (setTally s i (bset (tallyRec s i) TALLY.EN 0)) TEN_QUOTA_TALLY.USED (bget (tallyRec s i) TALLY.OWNER) false) :=
  ⟨⟨65535, 0, setF up TEN_QUOTA_TALLY.LIMIT 0 1, 0, by decide +kernel⟩,
   ⟨65535, 7, up, by decide +kernel⟩,
   ⟨65535, 0, setTally up 65535 (bset 0 TALLY.EN 1), chargeQ (setTally (setTally up 65535 (bset 0 TALLY.EN 1)) 65535 (bset (tallyRec (setTally up 65535 (bset 0 TALLY.EN 1)) 65535) TALLY.EN 0)) TEN_QUOTA_TALLY.USED 0 false, by decide +kernel⟩⟩

theorem witness_embeddingRequestCommands :
    (∃ (sq : Nat) (sl : Slot) (s : Machine.State), Begins s ocEmbGather sq sl ∧ sl.work = .idle ∧ embOk s sl = true ∧ gatherLenBad s sl = false ∧ embVer s (tabOf sl.d) (embCur s (tabOf sl.d)) ≠ 0)
      ∧ (∃ (sq : Nat) (sl : Slot) (s : Machine.State) (run : EmbRun) (idx : List Nat), live s = true ∧ slotOf s sq = some sl ∧ sl.ph = .running ∧ sl.stop = none ∧ heldBack s sq = false ∧ opcode sl.d = ocEmbGather ∧ sl.work = .emb run ∧ sl.err = none ∧ run.out = true ∧ run.await_ = [] ∧ embIdxs s sl = some idx ∧ placesCome s sl run (gatherHots s sl run idx) = true)
      ∧ (∃ (sq : Nat) (sl : Slot) (s : Machine.State), Begins s ocEmbUpdate sq sl ∧ sl.work = .idle ∧ embOk s sl = true ∧ updLenBad s sl = false ∧ updRefused s sl = false ∧ embVer s (tabOf sl.d) (embCur s (tabOf sl.d)) ≠ 0)
      ∧ (∃ (sq : Nat) (sl : Slot) (s : Machine.State) (run : EmbRun) (idx : List Nat), live s = true ∧ slotOf s sq = some sl ∧ sl.ph = .running ∧ sl.stop = none ∧ heldBack s sq = false ∧ opcode sl.d = ocEmbUpdate ∧ sl.work = .emb run ∧ sl.err = none ∧ run.out = false ∧ haveBytes sl 0 0 (opLen sl.d 0) = true ∧ haveBytes sl 1 0 (opLen sl.d 1) = true ∧ embIdxs s sl = some idx)
      ∧ (∃ (s : Machine.State) (n : Nat) (x : Exch) (sl : Slot) (run : EmbRun) (e : EmbSent) (u : Machine.State) (r2 : EmbRun), live s = true ∧ nextExch s xPartial = some (n, x) ∧ answers (dropExch s n) x xLookup = some (sl, run, e) ∧ r2 = { run with await_ := run.await_.filter (· != e), parts := run.parts ++ partialSplit (dropExch s n) x } ∧ u = modSlot (dropExch s n) sl.seq (fun y => { y with work := .emb r2, err := if x.poison && y.err.isNone then some (stPoison, 0) else y.err }))
      ∧ (∃ (s : Machine.State) (n : Nat) (x : Exch) (u : Machine.State) (sl : Slot) (run : EmbRun) (r2 : EmbRun) (y : Machine.State), live s = true ∧ nextExch s xUpdAck = some (n, x) ∧ u = dropExch s n ∧ ((mvals u.que.slots).find? fun z => opcode z.d == ocEmbUpdate && awaits x z) = some sl ∧ sl.work = .emb run ∧ r2 = { run with await_ := run.await_.filter (·.chip != x.chip), applied := run.applied + leNat (x.data.take 4), winto := run.winto || leNat ((x.data.drop 4).take 4) != 0 } ∧ y = modSlot u sl.seq (fun z => { z with work := .emb r2 }))
      ∧ (∃ (s : Machine.State) (n : Nat) (x : Exch) (u : Machine.State) (sl : Slot), live s = true ∧ nextExch s xErr = some (n, x) ∧ u = dropExch s n ∧ (mvals u.que.slots).find? (awaits x) = some sl)
      ∧ (∃ (hdr : BitVec 128) (chip : Nat) (ep : Nat) (data : List Byte) (poison : Bool) (s : Machine.State) (h : BitVec 128), live s = true ∧ ep ≤ 8 ∧ 16 ≤ data.length ∧ h = ofBytes 128 (data.take 16) ∧ xBad s (bget h XCH.KIND) (bget h XCH.OBJ) (bget hdr ENGH.TENANT) = false ∧ (s.emb.xin.find? fun e => e.2.chip == chip && e.2.xslot == bget h XCH.XSLOT && e.2.tag == bget hdr ENGH.TAG && e.2.kind == bget h XCH.KIND && !e.2.whole) = none) :=
  ⟨⟨0, slot0 0x300 .launched, upTab (slot0 0x300 .launched), by decide +kernel⟩,
   ⟨0, slot0 0x300 .running [] (.emb ({ tab := 0, slotB := false, ver := 1, gen := 0, out := true } : EmbRun)), upTab (slot0 0x300 .running [] (.emb ({ tab := 0, slotB := false, ver := 1, gen := 0, out := true } : EmbRun))), ({ tab := 0, slotB := false, ver := 1, gen := 0, out := true } : EmbRun), [], by decide +kernel⟩,
   ⟨0, slot0 0x301 .launched, upTab (slot0 0x301 .launched), by decide +kernel⟩,
   ⟨0, slot0 0x301 .running [] (.emb ({ tab := 0, slotB := false, ver := 1, gen := 0 } : EmbRun)), upTab (slot0 0x301 .running [] (.emb ({ tab := 0, slotB := false, ver := 1, gen := 0 } : EmbRun))), ({ tab := 0, slotB := false, ver := 1, gen := 0 } : EmbRun), [], by decide +kernel⟩,
   ⟨upX ({ chip := 0, ten := 0, xslot := 0, tag := 5, kind := xPartial, obj := 0, ver := 1, param := 0, whole := true } : Exch) (slot0 0x300 .running [] (.emb ({ tab := 0, slotB := false, ver := 1, gen := 0, out := true, await_ := [({ chip := 0, tag := 5, kind := xLookup, data := [] } : EmbSent)] } : EmbRun))), 0, ({ chip := 0, ten := 0, xslot := 0, tag := 5, kind := xPartial, obj := 0, ver := 1, param := 0, whole := true } : Exch), (slot0 0x300 .running [] (.emb ({ tab := 0, slotB := false, ver := 1, gen := 0, out := true, await_ := [({ chip := 0, tag := 5, kind := xLookup, data := [] } : EmbSent)] } : EmbRun))), ({ tab := 0, slotB := false, ver := 1, gen := 0, out := true, await_ := [({ chip := 0, tag := 5, kind := xLookup, data := [] } : EmbSent)] } : EmbRun), ({ chip := 0, tag := 5, kind := xLookup, data := [] } : EmbSent), modSlot (dropExch (upX ({ chip := 0, ten := 0, xslot := 0, tag := 5, kind := xPartial, obj := 0, ver := 1, param := 0, whole := true } : Exch) (slot0 0x300 .running [] (.emb ({ tab := 0, slotB := false, ver := 1, gen := 0, out := true, await_ := [({ chip := 0, tag := 5, kind := xLookup, data := [] } : EmbSent)] } : EmbRun)))) 0) 0 (fun y => { y with work := .emb ({ tab := 0, slotB := false, ver := 1, gen := 0, out := true } : EmbRun), err := if false && y.err.isNone then some (stPoison, 0) else y.err }), ({ tab := 0, slotB := false, ver := 1, gen := 0, out := true } : EmbRun), by decide +kernel⟩,
   ⟨upX ({ chip := 0, ten := 0, xslot := 0, tag := 5, kind := xUpdAck, obj := 0, ver := 1, param := 0, whole := true } : Exch) (slot0 0x301 .running [] (.emb ({ tab := 0, slotB := false, ver := 1, gen := 0, out := true, await_ := [{ chip := 0, tag := 5, kind := xUpdEnd, data := [] }] } : EmbRun))), 0, ({ chip := 0, ten := 0, xslot := 0, tag := 5, kind := xUpdAck, obj := 0, ver := 1, param := 0, whole := true } : Exch), dropExch (upX ({ chip := 0, ten := 0, xslot := 0, tag := 5, kind := xUpdAck, obj := 0, ver := 1, param := 0, whole := true } : Exch) (slot0 0x301 .running [] (.emb ({ tab := 0, slotB := false, ver := 1, gen := 0, out := true, await_ := [{ chip := 0, tag := 5, kind := xUpdEnd, data := [] }] } : EmbRun)))) 0, (slot0 0x301 .running [] (.emb ({ tab := 0, slotB := false, ver := 1, gen := 0, out := true, await_ := [{ chip := 0, tag := 5, kind := xUpdEnd, data := [] }] } : EmbRun))), ({ tab := 0, slotB := false, ver := 1, gen := 0, out := true, await_ := [{ chip := 0, tag := 5, kind := xUpdEnd, data := [] }] } : EmbRun), { ({ tab := 0, slotB := false, ver := 1, gen := 0, out := true, await_ := [{ chip := 0, tag := 5, kind := xUpdEnd, data := [] }] } : EmbRun) with await_ := [] }, modSlot (dropExch (upX ({ chip := 0, ten := 0, xslot := 0, tag := 5, kind := xUpdAck, obj := 0, ver := 1, param := 0, whole := true } : Exch) (slot0 0x301 .running [] (.emb ({ tab := 0, slotB := false, ver := 1, gen := 0, out := true, await_ := [{ chip := 0, tag := 5, kind := xUpdEnd, data := [] }] } : EmbRun)))) 0) 0 (fun z => { z with work := .emb { ({ tab := 0, slotB := false, ver := 1, gen := 0, out := true, await_ := [{ chip := 0, tag := 5, kind := xUpdEnd, data := [] }] } : EmbRun) with await_ := [] } }), by decide +kernel⟩,
   ⟨upX ({ chip := 0, ten := 0, xslot := 0, tag := 5, kind := xErr, obj := 0, ver := 1, param := 0, whole := true } : Exch) (slot0 0x301 .running [] (.emb ({ tab := 0, slotB := false, ver := 1, gen := 0, out := true, await_ := [{ chip := 0, tag := 5, kind := xUpdEnd, data := [] }] } : EmbRun))), 0, ({ chip := 0, ten := 0, xslot := 0, tag := 5, kind := xErr, obj := 0, ver := 1, param := 0, whole := true } : Exch), dropExch (upX ({ chip := 0, ten := 0, xslot := 0, tag := 5, kind := xErr, obj := 0, ver := 1, param := 0, whole := true } : Exch) (slot0 0x301 .running [] (.emb ({ tab := 0, slotB := false, ver := 1, gen := 0, out := true, await_ := [{ chip := 0, tag := 5, kind := xUpdEnd, data := [] }] } : EmbRun)))) 0, (slot0 0x301 .running [] (.emb ({ tab := 0, slotB := false, ver := 1, gen := 0, out := true, await_ := [{ chip := 0, tag := 5, kind := xUpdEnd, data := [] }] } : EmbRun))), by decide +kernel⟩,
   ⟨0, 1, 8, bytesOf (bset (0 : BitVec 128) XCH.KIND xPush), true, upTab (slot0 0 .running), bset 0 XCH.KIND xPush, by decide +kernel⟩⟩

theorem witness_embeddingOwnerCommands :
    (∃ (s : Machine.State) (n : Nat) (x y : Exch) (u : Machine.State) (b : Bool) (ps : List Nat), live s = true ∧ nextExch s xLookup = some (n, x) ∧ ownerRefuses s x = none ∧ embSlot s x.obj x.ver = some b ∧ ps = (lookupRecs x).map (·.1) ∧ u = ps.foldl (fun u p => xAsk u n x.ten (embBase u x.obj b + p * embTS u x.obj) (embTS u x.obj)) s ∧ mget u.emb.xin n = some y ∧ ps.all (fun p => xHave y (embBase u x.obj b + p * embTS u x.obj) (embTS u x.obj)) = true ∧ y.err = none)
      ∧ (∃ (s : Machine.State) (n : Nat) (x : Exch) (b : Bool), live s = true ∧ nextUpd s = some (n, x) ∧ mget s.emb.xin n = some x ∧ x.wrote = false ∧ x.param = 1 ∧ ownerRefuses s x = none ∧ embSlot s x.obj x.ver = some b ∧ winClosed s x.obj (winKey x) = false)
      ∧ (∃ (s : Machine.State) (n : Nat) (x : Exch), live s = true ∧ nextUpd s = some (n, x) ∧ x.wrote = true ∧ x.owed = 0 ∧ x.err = none)
      ∧ (∃ (s : Machine.State) (n : Nat) (x : Exch) (e : Nat × Nat), live s = true ∧ nextUpd s = some (n, x) ∧ x.wrote = true ∧ x.owed = 0 ∧ x.err = some e)
      ∧ (∃ (s : Machine.State) (n : Nat) (x : Exch), live s = true ∧ nextExch s xUpdEnd = some (n, x) ∧ embHeld (dropExch s n) x.obj x.ten = true ∧ winClosed (dropExch s n) x.obj (winKey x) = false)
      ∧ (∃ (t : Nat) (i : Nat) (s : Machine.State) (w : EmbWin), live s = true ∧ (embTab s t).wins[i]? = some w) :=
  ⟨⟨upX ({ chip := 0, ten := 0, xslot := 0, tag := 5, kind := xLookup, obj := 0, ver := 1, param := 0, whole := true } : Exch) (slot0 0x300 .running [] (.emb ({ tab := 0, slotB := false, ver := 1, gen := 0, out := true, await_ := [({ chip := 0, tag := 5, kind := xLookup, data := [] } : EmbSent)] } : EmbRun))), 0, ({ chip := 0, ten := 0, xslot := 0, tag := 5, kind := xLookup, obj := 0, ver := 1, param := 0, whole := true } : Exch), ({ chip := 0, ten := 0, xslot := 0, tag := 5, kind := xLookup, obj := 0, ver := 1, param := 0, whole := true } : Exch), upX ({ chip := 0, ten := 0, xslot := 0, tag := 5, kind := xLookup, obj := 0, ver := 1, param := 0, whole := true } : Exch) (slot0 0x300 .running [] (.emb ({ tab := 0, slotB := false, ver := 1, gen := 0, out := true, await_ := [({ chip := 0, tag := 5, kind := xLookup, data := [] } : EmbSent)] } : EmbRun))), false, [], by decide +kernel⟩,
   ⟨upX ({ chip := 0, ten := 0, xslot := 0, tag := 5, kind := xUpdate, obj := 0, ver := 1, param := 1, whole := true } : Exch) (slot0 0x300 .running [] (.emb ({ tab := 0, slotB := false, ver := 1, gen := 0, out := true, await_ := [({ chip := 0, tag := 5, kind := xLookup, data := [] } : EmbSent)] } : EmbRun))), 0, ({ chip := 0, ten := 0, xslot := 0, tag := 5, kind := xUpdate, obj := 0, ver := 1, param := 1, whole := true } : Exch), false, by decide +kernel⟩,
   ⟨upX { ({ chip := 0, ten := 0, xslot := 0, tag := 5, kind := xUpdate, obj := 0, ver := 1, param := 1, whole := true } : Exch) with wrote := true } (slot0 0x300 .running [] (.emb ({ tab := 0, slotB := false, ver := 1, gen := 0, out := true, await_ := [({ chip := 0, tag := 5, kind := xLookup, data := [] } : EmbSent)] } : EmbRun))), 0, { ({ chip := 0, ten := 0, xslot := 0, tag := 5, kind := xUpdate, obj := 0, ver := 1, param := 1, whole := true } : Exch) with wrote := true }, by decide +kernel⟩,
   ⟨upX { ({ chip := 0, ten := 0, xslot := 0, tag := 5, kind := xUpdate, obj := 0, ver := 1, param := 1, whole := true } : Exch) with wrote := true, err := some (0x18, 0) } (slot0 0x300 .running [] (.emb ({ tab := 0, slotB := false, ver := 1, gen := 0, out := true, await_ := [({ chip := 0, tag := 5, kind := xLookup, data := [] } : EmbSent)] } : EmbRun))), 0, { ({ chip := 0, ten := 0, xslot := 0, tag := 5, kind := xUpdate, obj := 0, ver := 1, param := 1, whole := true } : Exch) with wrote := true, err := some (0x18, 0) }, (0x18, 0), by decide +kernel⟩,
   ⟨upX { ({ chip := 0, ten := 0, xslot := 0, tag := 5, kind := xUpdate, obj := 0, ver := 1, param := 1, whole := true } : Exch) with kind := xUpdEnd } (slot0 0x300 .running [] (.emb ({ tab := 0, slotB := false, ver := 1, gen := 0, out := true, await_ := [({ chip := 0, tag := 5, kind := xLookup, data := [] } : EmbSent)] } : EmbRun))), 0, { ({ chip := 0, ten := 0, xslot := 0, tag := 5, kind := xUpdate, obj := 0, ver := 1, param := 1, whole := true } : Exch) with kind := xUpdEnd }, by decide +kernel⟩,
   ⟨4095, 0, setEmbTab up 4095 { wins := [⟨(0, 0, 0), 0, 0, []⟩] }, ⟨(0, 0, 0), 0, 0, []⟩, by decide +kernel⟩⟩

set_option maxHeartbeats 1000000 in
theorem witness_embeddingTableCommands :
    (∃ (t : Nat) (s : Machine.State) (u : Machine.State), s.pwr.fast = true ∧ s.hst.only = false ∧ t < 4096 ∧ embRefuse s t = 0 ∧ etab s t ETAB.ACTIVE = 0 ∧ etab s t ETAB.HOTMAX = 0 ∧ (embTab s t).sketch = false ∧ u = embCount s EMB_TSTAT.ACTIVE true ∧ etab u t ETAB.HOTMAX = 0 ∧ (embTab u t).sketch = false)
      ∧ (∃ (t : Nat) (s : Machine.State), s.pwr.fast = true ∧ s.hst.only = false ∧ t < 4096 ∧ etab s t ETAB.PINSA = 0 ∧ etab s t ETAB.PINSB = 0 ∧ (embTab s t).wins = [] ∧ refreshing s t = false ∧ etab s t ETAB.ACTIVE = 1 ∧ (embTab s t).sketch = false ∧ (embTab (embCount s EMB_TSTAT.ACTIVE false) t).sketch = false)
      ∧ (∃ (sq : Nat) (sl : Slot) (s : Machine.State) (t : Nat) (b : Bool) (u : Machine.State), Begins s ocEmbSwitch sq sl ∧ subOp sl.d = 0 ∧ embOk s sl = true ∧ t = tabOf sl.d ∧ b = !embCur s t ∧ loadBad s sl t = false ∧ etab s t (embPins b) = 0 ∧ u = setEtab s t (if b then ETAB.BASEB else ETAB.BASEA) ((saAt (extsOf sl 0) 0).getD 0))
      ∧ (∃ (sq : Nat) (sl : Slot) (s : Machine.State) (t : Nat) (b : Bool) (u : Machine.State) (y : Machine.State), Begins s ocEmbSwitch sq sl ∧ subOp sl.d = 1 ∧ embOk s sl = true ∧ t = tabOf sl.d ∧ b = !embCur s t ∧ embVer s t b = swVersion sl.d ∧ u = setEtab s t ETAB.CURSEL (if b then 1 else 0) ∧ y = setEtab u t ETAB.SWTIME u.tim.now.toNat)
      ∧ (∃ (sq : Nat) (sl : Slot) (s : Machine.State) (t : Nat) (l : List Nat), Begins s ocEmbSwitch sq sl ∧ subOp sl.d = 3 ∧ embOk s sl = true ∧ t = tabOf sl.d ∧ sl.err = none ∧ haveBytes sl 0 0 (opLen sl.d 0) = true ∧ pinList s sl = some l ∧ ((l.filter fun r => (embOwner s t r).1 == myPos s t).eraseDups).length ≤ embH s t)
      ∧ (∃ (sq : Nat) (sl : Slot) (s : Machine.State), Begins s ocEmbSwitch sq sl ∧ subOp sl.d = 4 ∧ embOk s sl = true)
      ∧ (∃ (sq : Nat) (sl : Slot) (s : Machine.State) (t : Nat) (u : Machine.State) (x : Slot), Begins s ocEmbSwitch sq sl ∧ subOp sl.d = 2 ∧ sl.work = .idle ∧ embOk s sl = true ∧ t = tabOf sl.d ∧ embVer s t (embCur s t) ≠ 0 ∧ (embTab s t).refresh = none ∧ u = modEmbTab s t (fun y => { y with hot := hotSet (embH s t) y, cnt := [], cand := [], refresh := some sq }) ∧ (embTab u t).hot = [] ∧ slotOf u sq = some x)
      ∧ (∃ (s : Machine.State) (n : Nat) (x : Exch), live s = true ∧ nextExch s xPush (fun y => !bufferHeld s y.obj) = some (n, x))
      ∧ (∃ (t : Nat) (s : Machine.State), live s = true ∧ bufferHeld s t = false)
      ∧ (∃ (s : Machine.State) (n : Nat) (x : Exch), live s = true ∧ nextExch s xPushEnd = some (n, x)) :=
  ⟨⟨0, upTact, embCount (upTact) EMB_TSTAT.ACTIVE true, by decide +kernel⟩,
   ⟨0, upTab (slot0 0 .running), by decide +kernel⟩,
   ⟨0, { swSlot 0 with d := bset (swSlot 0).d ⟨8 * 116, 32⟩ 2, ops := [[{ base := mkSa 0 1 0, len := 0 }]] }, upTab { swSlot 0 with d := bset (swSlot 0).d ⟨8 * 116, 32⟩ 2, ops := [[{ base := mkSa 0 1 0, len := 0 }]] }, 0, true, setEtab (upTab { swSlot 0 with d := bset (swSlot 0).d ⟨8 * 116, 32⟩ 2, ops := [[{ base := mkSa 0 1 0, len := 0 }]] }) 0 ETAB.BASEB 0, by decide +kernel⟩,
   ⟨0, (swSlot 1), upTab (swSlot 1), 0, true, setEtab (upTab (swSlot 1)) 0 ETAB.CURSEL 1, setEtab (setEtab (upTab (swSlot 1)) 0 ETAB.CURSEL 1) 0 ETAB.SWTIME 0, by decide +kernel⟩,
   ⟨0, swSlot 3, upTab (swSlot 3), 0, [], by decide +kernel⟩,
   ⟨0, swSlot 4, upTab (swSlot 4), by decide +kernel⟩,
   ⟨0, swSlot 2, upTab (swSlot 2), 0, modEmbTab (upTab (swSlot 2)) 0 (fun y => { y with hot := [], cnt := [], cand := [], refresh := some 0 }), swSlot 2, by decide +kernel⟩,
   ⟨upX { ({ chip := 0, ten := 0, xslot := 0, tag := 5, kind := xUpdate, obj := 0, ver := 1, param := 1, whole := true } : Exch) with kind := xPush } (slot0 0x300 .running [] (.emb ({ tab := 0, slotB := false, ver := 1, gen := 0, out := true, await_ := [({ chip := 0, tag := 5, kind := xLookup, data := [] } : EmbSent)] } : EmbRun))), 0, { ({ chip := 0, ten := 0, xslot := 0, tag := 5, kind := xUpdate, obj := 0, ver := 1, param := 1, whole := true } : Exch) with kind := xPush }, by decide +kernel⟩,
   ⟨0, upX { ({ chip := 0, ten := 0, xslot := 0, tag := 5, kind := xUpdate, obj := 0, ver := 1, param := 1, whole := true } : Exch) with kind := xPush } (slot0 0x300 .running [] (.emb ({ tab := 0, slotB := false, ver := 1, gen := 0, out := true, await_ := [({ chip := 0, tag := 5, kind := xLookup, data := [] } : EmbSent)] } : EmbRun))), by decide +kernel⟩,
   ⟨upX { ({ chip := 0, ten := 0, xslot := 0, tag := 5, kind := xUpdate, obj := 0, ver := 1, param := 1, whole := true } : Exch) with kind := xPushEnd } (slot0 0x300 .running [] (.emb ({ tab := 0, slotB := false, ver := 1, gen := 0, out := true, await_ := [({ chip := 0, tag := 5, kind := xLookup, data := [] } : EmbSent)] } : EmbRun))), 0, { ({ chip := 0, ten := 0, xslot := 0, tag := 5, kind := xUpdate, obj := 0, ver := 1, param := 1, whole := true } : Exch) with kind := xPushEnd }, by decide +kernel⟩⟩

theorem witness_collectionCommands :
    (∃ (c : Nat) (s : Machine.State) (u : Machine.State), s.pwr.fast = true ∧ s.hst.only = false ∧ c < 4096 ∧ vscRefuse s c = 0 ∧ coll s c VCOLL.ACTIVE ≠ 1 ∧ u = setF s VSC_CSTAT.ACTIVE 0 (getF s VSC_CSTAT.ACTIVE + 1))
      ∧ (∃ (c : Nat) (s : Machine.State) (u : Machine.State), s.pwr.fast = true ∧ s.hst.only = false ∧ c < 4096 ∧ vscRefuse s c = 0 ∧ coll s c VCOLL.ACTIVE ≠ 1 ∧ u = setF s VSC_CSTAT.ACTIVE 0 (getF s VSC_CSTAT.ACTIVE + 1))
      ∧ (∃ (c : Nat) (s : Machine.State), s.pwr.fast = true ∧ s.hst.only = false ∧ c < 4096 ∧ coll s c VCOLL.SCANS = 0 ∧ (mvals s.que.slots).any (mutOf c) = false ∧ coll s c VCOLL.ACTIVE = 1)
      ∧ (∃ (sq : Nat) (sl : Slot) (s : Machine.State), Begins s ocVinsert sq sl ∧ sl.work = .idle ∧ mutTurn s sl = true ∧ collOk s sl = true ∧ vscCheck s sl.d = 0 ∧ hardErr sl = none)
      ∧ (∃ (sq : Nat) (sl : Slot) (s : Machine.State) (k : Nat), live s = true ∧ slotOf s sq = some sl ∧ sl.ph = .running ∧ sl.work = .vwrite k ∧ opcode sl.d = ocVinsert ∧ sl.owed = 0 ∧ heldBack s sq = false ∧ sl.stop = none ∧ sl.err = none)
      ∧ (∃ (sq : Nat) (sl : Slot) (s : Machine.State), Begins s ocVdelete sq sl ∧ sl.work = .idle ∧ mutTurn s sl = true ∧ collOk s sl = true ∧ vscCheck s sl.d = 0 ∧ hardErr sl = none)
      ∧ (∃ (sq : Nat) (sl : Slot) (s : Machine.State) (k : Nat), live s = true ∧ slotOf s sq = some sl ∧ sl.ph = .running ∧ sl.work = .vwrite k ∧ opcode sl.d = ocVdelete ∧ sl.owed = 0 ∧ heldBack s sq = false ∧ sl.stop = none ∧ sl.err = none) :=
  ⟨⟨0, upVact, setF upVact VSC_CSTAT.ACTIVE 0 1, by decide +kernel⟩,
   ⟨0, upVact, setF upVact VSC_CSTAT.ACTIVE 0 1, by decide +kernel⟩,
   ⟨0, upColl (slot0 0 .running), by decide +kernel⟩,
   ⟨0, slot0 0x400 .launched, upColl (slot0 0x400 .launched), by decide +kernel⟩,
   ⟨0, slot0 0x400 .running [] (.vwrite 1), upColl (slot0 0x400 .running [] (.vwrite 1)), 1, by decide +kernel⟩,
   ⟨0, slot0 0x401 .launched, upColl (slot0 0x401 .launched), by decide +kernel⟩,
   ⟨0, slot0 0x401 .running [] (.vwrite 2), upColl (slot0 0x401 .running [] (.vwrite 2)), 2, by decide +kernel⟩⟩

set_option maxHeartbeats 1000000 in
theorem witness_scanCommands :
    (∃ (sq : Nat) (sl : Slot) (s : Machine.State) (r : ScanRun) (u : Machine.State) (x : Slot), Begins s ocVscan sq sl ∧ s.arr.waiting.contains sq = false ∧ vscCheck s sl.d = 0 ∧ hardErr sl = none ∧ sl.work = .scan r ∧ u = askAll s sq [0] ∧ slotOf u sq = some x ∧ haveAll x [0] = true ∧ coll u (collOf x.d) VCOLL.TIER = 1)
      ∧ (∃ (sq : Nat) (sl : Slot) (s : Machine.State) (r : ScanRun) (u : Machine.State) (x : Slot), Begins s ocVscan sq sl ∧ s.arr.waiting.contains sq = false ∧ vscCheck s sl.d = 0 ∧ hardErr sl = none ∧ sl.work = .scan r ∧ u = askAll s sq [0] ∧ slotOf u sq = some x ∧ haveAll x [0] = true ∧ coll u (collOf x.d) VCOLL.TIER ≠ 1 ∧ r.m ≠ 0)
      ∧ (∃ (sq : Nat) (sl : Slot) (s : Machine.State) (r : ScanRun) (u : Machine.State) (x : Slot), Begins s ocVrerank sq sl ∧ s.arr.waiting.contains sq = false ∧ vscCheck s sl.d = 0 ∧ hardErr sl = none ∧ sl.work = .scan r ∧ u = askAll s sq [0, 1] ∧ slotOf u sq = some x ∧ haveAll x [0, 1] = true)
      ∧ (∃ (sq : Nat) (ch : Nat) (uncorr : Bool) (red : Option (BitVec 32768)) (sl : Slot) (s : Machine.State) (r : ScanRun), live s = true ∧ slotOf s sq = some sl ∧ sl.work = .scan r ∧ farScan s sl = true ∧ scanTurn s sl = true ∧ engineShare s sl = true ∧ engineUp s ch = true ∧ plumbBusy s sq = false ∧ chanDone r ch = false ∧ mgetD 0 r.pos ch % coll s (collOf sl.d) VCOLL.G ≠ 0)
      ∧ (∃ (ch : Nat) (s : Machine.State), live s = true)
      ∧ (∃ (ch : Nat) (s : Machine.State), live s = true ∧ ch < 64 ∧ (regGet s .VSC_PESTAT 0).getLsbD ch = false)
      ∧ (∃ (ch : Nat) (s : Machine.State), live s = true ∧ ch < 64 ∧ (regGet s .VSC_PESTAT 0).getLsbD ch = false)
      ∧ (∃ (ch : Nat) (s : Machine.State), live s = true ∧ ch < 64)
      ∧ (∃ (ch : Nat) (s : Machine.State) (u : Machine.State), live s = true ∧ ch < 64 ∧ u = { s with store := { s.store with sledRetired := mput s.store.sledRetired (ch / 16) (mgetD 0 s.store.sledRetired (ch / 16) + 1) } }) :=
  ⟨⟨0, (slot0 0x402 .launched [] (.scan ({ sq := 0, m := 1 } : ScanRun))), setColl (upColl (slot0 0x402 .launched [] (.scan ({ sq := 0, m := 1 } : ScanRun)))) 0 VCOLL.TIER 1, ({ sq := 0, m := 1 } : ScanRun), setColl (upColl (slot0 0x402 .launched [] (.scan ({ sq := 0, m := 1 } : ScanRun)))) 0 VCOLL.TIER 1, (slot0 0x402 .launched [] (.scan ({ sq := 0, m := 1 } : ScanRun))), by decide +kernel⟩,
   ⟨0, (slot0 0x402 .launched [] (.scan ({ sq := 0, m := 1 } : ScanRun))), upColl (slot0 0x402 .launched [] (.scan ({ sq := 0, m := 1 } : ScanRun))), ({ sq := 0, m := 1 } : ScanRun), upColl (slot0 0x402 .launched [] (.scan ({ sq := 0, m := 1 } : ScanRun))), (slot0 0x402 .launched [] (.scan ({ sq := 0, m := 1 } : ScanRun))), by decide +kernel⟩,
   ⟨0, (slot0 0x403 .launched [] (.scan ({ sq := 0, m := 1 } : ScanRun))), upColl (slot0 0x403 .launched [] (.scan ({ sq := 0, m := 1 } : ScanRun))), ({ sq := 0, m := 1 } : ScanRun), upColl (slot0 0x403 .launched [] (.scan ({ sq := 0, m := 1 } : ScanRun))), (slot0 0x403 .launched [] (.scan ({ sq := 0, m := 1 } : ScanRun))), by decide +kernel⟩,
   ⟨0, 0, true, none, (slot0 0x402 .running [] (.scan ({ sq := 0, m := 1, pos := [(0, 1)], tot := [(0, 2)] } : ScanRun))), setColl (setColl { upColl (slot0 0x402 .running [] (.scan ({ sq := 0, m := 1, pos := [(0, 1)], tot := [(0, 2)] } : ScanRun))) with vsc := { (upColl (slot0 0x402 .running [] (.scan ({ sq := 0, m := 1, pos := [(0, 1)], tot := [(0, 2)] } : ScanRun)))).vsc with up := [(0, 0)] } } 0 VCOLL.TIER 1) 0 VCOLL.G 2, ({ sq := 0, m := 1, pos := [(0, 1)], tot := [(0, 2)] } : ScanRun), by decide +kernel⟩,
   ⟨63, up, by decide +kernel⟩,
   ⟨63, up, by decide +kernel⟩,
   ⟨63, up, by decide +kernel⟩,
   ⟨63, up, by decide +kernel⟩,
   ⟨63, up, { up with store := { up.store with sledRetired := [(3, 1)] } }, by decide +kernel⟩⟩

theorem witness_timeCommands :
    (∃ (s : Machine.State) (p : Nat), live s = true ∧ tstF s TIM_CFG.EN = true ∧ p = getF s TIM_SYNC.PORT ∧ s.tim.out = none ∧ s.tim.miss < 8 ∧ p < 12 ∧ portUp s p = true)
      ∧ (∃ (p : Nat) (xid : Nat) (s : Machine.State), live s = true ∧ tstF s TIM_CFG.EN = true ∧ portUp s p = true ∧ (isEdge s p = false ∨ tstF s TIM_CFG.EDGESYNC = true))
      ∧ (∃ (p : Nat) (w0 w1 : BitVec 128) (s : Machine.State) (x : Nat) (t1 : W64) (u : Machine.State) (y : Machine.State), live s = true ∧ s.tim.out = some (x, t1) ∧ p = getF s TIM_SYNC.PORT ∧ bget w0 ⟨104, 16⟩ = x ∧ u = { s with tim := { s.tim with out := none, miss := 0 } } ∧ y = setF (regSet u .TIM_EPOCH 0 (w1.extractLsb' 64 64)) TIM_SYNC.DEPTH 0 (min 15 (bget w0 ⟨90, 4⟩ + 1)))
      ∧ (∃ (s : Machine.State), live s = true ∧ timSt s = tsHoldover)
      ∧ (∃ (ref : W64) (locked : Bool) (s : Machine.State), live s = true ∧ eligible s = true ∧ getF s TIM_SYNC.GM = own s ∧ s.tim.known = true ∧ tstF s TIM_CFG.EXTREF = true ∧ locked = true ∧ s.tim.refOff = false ∧ getF s TIM_EPOCH.EPOCH = 0)
      ∧ (∃ (ref : W64) (locked : Bool) (s : Machine.State), live s = true ∧ eligible s = true ∧ getF s TIM_SYNC.GM = own s ∧ s.tim.known = true ∧ tstF s TIM_CFG.EXTREF = true ∧ locked = true ∧ s.tim.refOff = false ∧ getF s TIM_EPOCH.EPOCH ≠ 0 ∧ (ref - (regGet s .TIM_EPOCH 0 + BitVec.ofNat 64 (s.tim.now.toNat / 256))).toInt.natAbs ≤ 1000000) :=
  ⟨⟨setF (setF (upPort 2 6) TIM_CFG.EN 0 1) TIM_SYNC.PORT 0 0, 0, by decide +kernel⟩,
   ⟨0, 7, setF (upPort 2 6) TIM_CFG.EN 0 1, by decide +kernel⟩,
   ⟨0, 0, 0, { setF up TIM_SYNC.PORT 0 0 with tim := { out := some (0, 5) } }, 0, 5, { { setF up TIM_SYNC.PORT 0 0 with tim := { out := some (0, 5) } } with tim := { ({ setF up TIM_SYNC.PORT 0 0 with tim := { out := some (0, 5) } }).tim with out := none, miss := 0 } }, setF (regSet { { setF up TIM_SYNC.PORT 0 0 with tim := { out := some (0, 5) } } with tim := { ({ setF up TIM_SYNC.PORT 0 0 with tim := { out := some (0, 5) } }).tim with out := none, miss := 0 } } .TIM_EPOCH 0 0) TIM_SYNC.DEPTH 0 1, by decide +kernel⟩,
   ⟨setTimSt up 3, by decide +kernel⟩,
   ⟨9, true, { setF (setF up TIM_CFG.EN 0 1) TIM_CFG.EXTREF 0 1 with tim := { known := true } }, by decide +kernel⟩,
   ⟨9, true, { regSet (setF (setF up TIM_CFG.EN 0 1) TIM_CFG.EXTREF 0 1) .TIM_EPOCH 0 5 with tim := { known := true } }, by decide +kernel⟩⟩

set_option maxHeartbeats 1000000 in
theorem witness_linkCommands :
    (∃ (p : Nat) (s : Machine.State), s.pwr.fast = true ∧ p < 12 ∧ portSt s p = psActive ∧ (portOf s p).replay = none ∧ (portOf s p).buf.length < 512)
      ∧ (∃ (p : Nat) (q : Nat) (s : Machine.State), s.pwr.fast = true ∧ p < 12 ∧ portSt s p = psActive ∧ (portOf s p).replay = some q)
      ∧ (∃ (p : Nat) (hdr : BitVec 128) (msgs : List (BitVec 128 × List Byte)) (cnt : Nat) (tagOk : Bool) (stomp : Bool) (s : Machine.State), s.pwr.fast = true ∧ p < 12 ∧ portSt s p = psActive ∧ bget hdr FLIT.SEQ = (portOf s p).rxSeq ∧ (portOf s p).rxNew = false ∧ bget hdr FLIT.KEYSEL = (portOf s p).rxSel ∧ cnt = (portOf s p).rxCnt ∧ tagOk = true)
      ∧ (∃ (p : Nat) (hdr : BitVec 128) (msgs : List (BitVec 128 × List Byte)) (cnt : Nat) (tagOk : Bool) (stomp : Bool) (s : Machine.State), s.pwr.fast = true ∧ p < 12 ∧ portSt s p = psActive)
      ∧ (∃ (p : Nat) (s : Machine.State), s.pwr.fast = true ∧ p < 12 ∧ (portOf s p).discard = true)
      ∧ (∃ (p : Nat) (s : Machine.State), live s = true ∧ p < 12 ∧ portSt s p = psRetrain ∧ (portOf s p).hbHeld = false)
      ∧ (∃ (p : Nat) (s : Machine.State), live s = true ∧ p < 12 ∧ portSt s p = psRetrain)
      ∧ (∃ (p : Nat) (hdr : BitVec 128) (s : Machine.State), live s = true ∧ p < 12 ∧ portUp s p = true ∧ bget hdr HB.HEALTH ≠ 2 ∧ tstF s TIM_CFG.EN = false)
      ∧ (∃ (p : Nat) (s : Machine.State), live s = true ∧ p < 12 ∧ portSt s p = psActive)
      ∧ (∃ (p : Nat) (s : Machine.State), live s = true ∧ p < 12 ∧ portUp s p = true ∧ (portOf s p).hbGot = true)
      ∧ (∃ (p : Nat) (s : Machine.State) (n : Nat), live s = true ∧ p < 12 ∧ portUp s p = true ∧ (portOf s p).hbGot = false ∧ n = getF s LNK_HB.MISSES p + 1) :=
  ⟨⟨11, setPortSt up 11 6, by decide +kernel⟩,
   ⟨11, 5, modPort (setPortSt up 11 6) 11 fun x => { x with replay := some 5 }, by decide +kernel⟩,
   ⟨11, 0, [], 0, true, true, setPortSt up 11 6, by decide +kernel⟩,
   ⟨11, 0, [], 0, true, true, setPortSt up 11 6, by decide +kernel⟩,
   ⟨11, modPort up 11 fun x => { x with discard := true }, by decide +kernel⟩,
   ⟨11, setPortSt up 11 7, by decide +kernel⟩,
   ⟨11, setPortSt up 11 7, by decide +kernel⟩,
   ⟨11, 0, setPortSt up 11 6, by decide +kernel⟩,
   ⟨11, setPortSt up 11 6, by decide +kernel⟩,
   ⟨11, modPort (setPortSt up 11 6) 11 fun x => { x with hbGot := true }, by decide +kernel⟩,
   ⟨11, setF (setPortSt up 11 6) LNK_HB.MISSES 11 2, 3, by decide +kernel⟩⟩

set_option maxHeartbeats 1000000 in
theorem witness_trainingCommands :
    (∃ (p : Nat) (v : W64) (s : Machine.State) (u : Machine.State), s.pwr.fast = true ∧ s.hst.only = false ∧ p < 12 ∧ tstF s SEC_BOOT.SEALED = true ∧ tstF s LNK_CFG.EN p = false ∧ btst v LNK_CFG.EN.bf = true ∧ u = setF s LNK_CFG.EN p 1 ∧ (isPeer u p || isEdge u p) = true ∧ slotTaken u p = false)
      ∧ (∃ (p : Nat) (v : W64) (s : Machine.State) (u : Machine.State), s.pwr.fast = true ∧ s.hst.only = false ∧ p < 12 ∧ tstF s SEC_BOOT.SEALED = true ∧ btst v LNK_CFG.EN.bf = false ∧ u = setF s LNK_CFG.EN p 0)
      ∧ (∃ (p : Nat) (s : Machine.State), live s = true ∧ p < 12 ∧ portSt s p = psDetect)
      ∧ (∃ (p : Nat) (s : Machine.State), live s = true ∧ p < 12 ∧ portSt s p = psPhy)
      ∧ (∃ (p : Nat) (s : Machine.State), live s = true ∧ p < 12 ∧ portSt s p = psFec)
      ∧ (∃ (p : Nat) (s : Machine.State), live s = true ∧ p < 12 ∧ psPhy ≤ portSt s p ∧ portSt s p ≤ psSecure)
      ∧ (∃ (p : Nat) (w0 w1 : BitVec 128) (s : Machine.State) (u : Machine.State), live s = true ∧ p < 12 ∧ portSt s p = psParam ∧ isPeer s p = true ∧ isEdge s p = false ∧ bget w0 ⟨112, 8⟩ = 1 ∧ bget w0 ⟨110, 2⟩ = 1 ∧ bget w0 ⟨100, 10⟩ ≠ own s ∧ [0, 1, 2, 3, 4, 5].all (fun i => decide (22 ≤ bget w1 ⟨16 * i, 16⟩)) = true ∧ u = setF (setF s LNK_STAT.PEER p (bget w0 ⟨100, 10⟩)) LNK_STAT.NRANK p (bget w0 ⟨76, 16⟩))
      ∧ (∃ (p : Nat) (body : List Byte) (s : Machine.State) (u : Machine.State), live s = true ∧ secOpen s p = true ∧ u = (if (mget (portOf s p).sent secHello).isSome then s else secStart s p))
      ∧ (∃ (p : Nat) (body : List Byte) (s : Machine.State), live s = true ∧ secOpen s p = true ∧ (mget (portOf s p).got secHello).isSome = true ∧ body.length = 1092)
      ∧ (∃ (p : Nat) (body : List Byte) (s : Machine.State) (h : List Byte) (e : List Byte), live s = true ∧ secOpen s p = true ∧ portSt s p = psSecure ∧ isPeer s p = false ∧ mget (portOf s p).got secHello = some h ∧ mget (portOf s p).got secEncap = some e ∧ body.length = 3313)
      ∧ (∃ (p : Nat) (s : Machine.State), live s = true ∧ p < 12 ∧ portSt s p = psActive ∧ tstF s LNK_KEYCFG.NEWKEY p = false)
      ∧ (∃ (p : Nat) (fsid : W64) (seed : List Byte) (s : Machine.State) (h : List Byte), live s = true ∧ p < 12 ∧ portSt s p = psActive ∧ isPeer s p = true ∧ tstF s SEC_BOOT.VAULT = false ∧ mget (portOf s p).got secHello = some h ∧ helloFsid h = fsid.toNat ∧ fsid ≠ 0) :=
  ⟨⟨0, 1, setF (setF up SEC_BOOT.SEALED 0 1) LNK_CFG.MODE 0 2, setF (setF (setF up SEC_BOOT.SEALED 0 1) LNK_CFG.MODE 0 2) LNK_CFG.EN 0 1, by decide +kernel⟩,
   ⟨0, 0, setF (setF up SEC_BOOT.SEALED 0 1) LNK_CFG.MODE 0 2, setF (setF (setF up SEC_BOOT.SEALED 0 1) LNK_CFG.MODE 0 2) LNK_CFG.EN 0 0, by decide +kernel⟩,
   ⟨11, setPortSt up 11 1, by decide +kernel⟩,
   ⟨11, setPortSt up 11 2, by decide +kernel⟩,
   ⟨11, setPortSt up 11 3, by decide +kernel⟩,
   ⟨11, setPortSt up 11 5, by decide +kernel⟩,
   ⟨11, bset (bset (bset 0 ⟨112, 8⟩ 1) ⟨110, 2⟩ 1) ⟨100, 10⟩ 3, BitVec.allOnes 128, setF (setPortSt up 11 4) LNK_CFG.MODE 11 2, setF (setF (setF (setPortSt up 11 4) LNK_CFG.MODE 11 2) LNK_STAT.PEER 11 3) LNK_STAT.NRANK 11 0, by decide +kernel⟩,
   ⟨11, [], modPort (setPortSt up 11 5) 11 fun x => { x with sent := [(1, [])] }, modPort (setPortSt up 11 5) 11 fun x => { x with sent := [(1, [])] }, by decide +kernel⟩,
   ⟨11, List.replicate 1092 0, modPort (setPortSt up 11 5) 11 fun x => { x with got := [(1, [])] }, by decide +kernel⟩,
   ⟨11, List.replicate 3313 0, modPort (modPort (setPortSt up 11 5) 11 fun x => { x with got := [(1, [])] }) 11 fun x => { x with got := [(1, []), (2, [])] }, [], [], by decide +kernel⟩,
   ⟨11, setPortSt up 11 6, by decide +kernel⟩,
   ⟨11, 1, [], modPort (setF (setPortSt up 11 6) LNK_CFG.MODE 11 2) 11 (fun x => { x with got := [(1, List.replicate 1220 0 ++ leBytes 8 1)] }), List.replicate 1220 0 ++ leBytes 8 1, by decide +kernel⟩⟩

theorem witness_fenceCommands :
    (∃ (chip : Nat) (s : Machine.State) (u : Machine.State), live s = true ∧ chip ∈ s.lnk.dying ∧ u = { s with lnk := { s.lnk with dying := s.lnk.dying.filter (· != chip) } } ∧ fencedChip u chip = false)
      ∧ (∃ (subj : Nat) (fr : Nat) (tm : Nat) (s : Machine.State), live s = true ∧ fencedChip s fr = false ∧ subj ≠ own s ∧ fencedChip s subj = false)
      ∧ (∃ (ag : Nat) (fr : Nat) (tm : Nat) (s : Machine.State), live s = true ∧ fencedChip s fr = false ∧ ag ∉ s.home.dead)
      ∧ (∃ (fr : Nat) (tm : Nat) (s : Machine.State), live s = true ∧ fencedChip s fr = false)
      ∧ (∃ (s : Machine.State) (n : Nat), s.pwr.fast = true ∧ s.hst.only = false ∧ n = getF s RED_RPTSTAT.UNACK) :=
  ⟨⟨5, { up with lnk := { up.lnk with dying := [5] } }, { up with lnk := { up.lnk with dying := [] } }, by decide +kernel⟩,
   ⟨1, 2, 9, up, by decide +kernel⟩,
   ⟨8, 2, 9, up, by decide +kernel⟩,
   ⟨2, 9, up, by decide +kernel⟩,
   ⟨setF up RED_RPTSTAT.UNACK 0 1, 1, by decide +kernel⟩⟩

theorem witness_orderCommands :
    (∃ (oseq : Nat) (sq : Nat) (s : Machine.State) (u : Machine.State) (n : Nat), s.pwr.fast = true ∧ s.hst.only = false ∧ getF s SEC_OSEQ.OSEQ < oseq ∧ u = setF s SEC_OSEQ.OSEQ 0 oseq ∧ n = (getF u RED_RPTSTAT.NEXTSEQ + 2 ^ 32 - (sq + 1)) % 2 ^ 32 ∧ n < getF u RED_RPTSTAT.UNACK)
      ∧ (∃ (oseq : Nat) (ok : Bool) (sq : Nat) (s : Machine.State), s.pwr.fast = true ∧ s.hst.only = false ∧ (ok = false ∨ oseq ≤ getF s SEC_OSEQ.OSEQ))
      ∧ (∃ (oseq : Nat) (src : Nat) (dst : Nat) (r : BitVec 128) (s : Machine.State) (u : Machine.State) (y : Machine.State), live s = true ∧ getF s SEC_OSEQ.OSEQ < oseq ∧ u = setF s SEC_OSEQ.OSEQ 0 oseq ∧ u.red.rebuild = none ∧ saChip dst = own u ∧ saChip src ≠ own u ∧ saTier dst ≤ 1 ∧ populated u (saTier dst) (saExt dst) = true ∧ btst (extRec u (saTier dst) (saExt dst)) EXT.VALID = false ∧ btst r EXT.SYS = true ∧ y = setExt u (saTier dst) (saExt dst) (rebuildRec src r))
      ∧ (∃ (oseq : Nat) (src : Nat) (dst : Nat) (r : BitVec 128) (s : Machine.State) (u : Machine.State) (y : Machine.State) (x : BitVec 128), live s = true ∧ getF s SEC_OSEQ.OSEQ < oseq ∧ u = setF s SEC_OSEQ.OSEQ 0 oseq ∧ u.red.rebuild = none ∧ saChip dst ≠ own u ∧ saChip src = own u ∧ x = extRec u (saTier src) (saExt src) ∧ btst x EXT.VALID = true ∧ fencedChip u (saChip dst) = false ∧ bget x EXT.RCLASS = 1 ∧ y = setExt u (saTier src) (saExt src) (bset (bset (bset (bset (bset x EXT.ROLE 0) EXT.PCHIP (saChip dst)) EXT.PEXT (saExt dst)) EXT.PTIER (saTier dst)) EXT.STATE exRebuilding))
      ∧ (∃ (src : Nat) (dst : Nat) (s : Machine.State) (u : Machine.State), live s = true ∧ s.red.rebuild = some (src, dst, false) ∧ u = wardCopy (setExtState s (saTier src) (saExt src) exNormal) (saTier src) (saExt src))
      ∧ (∃ (oseq : Nat) (src : Nat) (dst : Nat) (s : Machine.State) (u : Machine.State), live s = true ∧ getF s SEC_OSEQ.OSEQ < oseq ∧ u = { setF s SEC_OSEQ.OSEQ 0 oseq with red := { s.red with rebuild := none } } ∧ s.red.rebuild = some (src, dst, false))
      ∧ (∃ (oseq : Nat) (first : Nat) (count : Nat) (s : Machine.State) (u : Machine.State), s.pwr.fast = true ∧ s.hst.only = false ∧ getF s SEC_OSEQ.OSEQ < oseq ∧ 1 ≤ count ∧ count ≤ 1024 ∧ u = setF s SEC_OSEQ.OSEQ 0 oseq) :=
  ⟨⟨1, 0, setF (setF up RED_RPTSTAT.UNACK 0 2) RED_RPTSTAT.NEXTSEQ 0 2, setF (setF (setF up RED_RPTSTAT.UNACK 0 2) RED_RPTSTAT.NEXTSEQ 0 2) SEC_OSEQ.OSEQ 0 1, 1, by decide +kernel⟩,
   ⟨0, true, 0, up, by decide +kernel⟩,
   ⟨1, mkSa 1 0 0, mkSa 0 0 0, bset 0 EXT.SYS 1, up, setF up SEC_OSEQ.OSEQ 0 1, setExt (setF up SEC_OSEQ.OSEQ 0 1) 0 0 (rebuildRec (mkSa 1 0 0) (bset 0 EXT.SYS 1)), by decide +kernel⟩,
   ⟨1, mkSa 0 0 0, mkSa 2 0 0, 0, upExt false (bset (bset 0 EXT.VALID 1) EXT.RCLASS 1), setF (upExt false (bset (bset 0 EXT.VALID 1) EXT.RCLASS 1)) SEC_OSEQ.OSEQ 0 1, setExt (setF (upExt false (bset (bset 0 EXT.VALID 1) EXT.RCLASS 1)) SEC_OSEQ.OSEQ 0 1) 0 0 (bset (bset (bset (bset (bset (bset (bset 0 EXT.VALID 1) EXT.RCLASS 1) EXT.ROLE 0) EXT.PCHIP 2) EXT.PEXT 0) EXT.PTIER 0) EXT.STATE exRebuilding), bset (bset 0 EXT.VALID 1) EXT.RCLASS 1, by decide +kernel⟩,
   ⟨mkSa 0 0 0, mkSa 1 0 0, { upExt false (bset (bset 0 EXT.VALID 1) EXT.RCLASS 1) with red := { rebuild := some (mkSa 0 0 0, mkSa 1 0 0, false) } }, wardCopy (setExtState ({ upExt false (bset (bset 0 EXT.VALID 1) EXT.RCLASS 1) with red := { rebuild := some (mkSa 0 0 0, mkSa 1 0 0, false) } }) 0 0 exNormal) 0 0, by decide +kernel⟩,
   ⟨1, mkSa 0 0 0, mkSa 1 0 0, { upExt false (bset (bset 0 EXT.VALID 1) EXT.RCLASS 1) with red := { rebuild := some (mkSa 0 0 0, mkSa 1 0 0, false) } }, { setF ({ upExt false (bset (bset 0 EXT.VALID 1) EXT.RCLASS 1) with red := { rebuild := some (mkSa 0 0 0, mkSa 1 0 0, false) } }) SEC_OSEQ.OSEQ 0 1 with red := { ({ upExt false (bset (bset 0 EXT.VALID 1) EXT.RCLASS 1) with red := { rebuild := some (mkSa 0 0 0, mkSa 1 0 0, false) } }).red with rebuild := none } }, by decide +kernel⟩,
   ⟨1, 1, 1024, up, setF up SEC_OSEQ.OSEQ 0 1, by decide +kernel⟩⟩

theorem witness_cutCommands :
    (∃ (sq : Nat) (sl : Slot) (s : Machine.State) (n : Nat) (u : Machine.State), Begins s ocCut sq sl ∧ s.red.cut = none ∧ getF s RED_CUTSEAL.CUTID < cutId sl.d ∧ cutAreaOk s = true ∧ n = (match s.red.newest with | some k => 1 - k | none => 0) ∧ u = setF (setF (setF (modSlot s sq fun x => { x with ph := .running, work := .await sq }) RED_CUTSTAT.STATE 0 csFreeze) RED_CUTSTAT.SLOT 0 n) RED_CUTSTAT.HOLDMS 0 0)
      ∧ (∃ (s : Machine.State) (c : CutRun), live s = true ∧ s.red.cut = some c ∧ c.frozen = true ∧ recallLines s = [])
      ∧ (∃ (s : Machine.State) (c : CutRun), live s = true ∧ s.red.cut = some c ∧ c.frozen = true ∧ recallLines s ≠ [])
      ∧ (∃ (s : Machine.State) (c : CutRun) (k : Nat) (sa : Nat) (l : List NearLine) (u : Machine.State), live s = true ∧ s.red.cut = some c ∧ c.frozen = false ∧ nextNear c = some k ∧ k < 2 ^ 36 ∧ (mget c.held k).isSome = true ∨ (c.pull ≠ some (4096 * k) ∧ ownedIn s (mkSa (own s) 0 (4096 * k)) 64 = []) ∧ l = mgetD (nearPage s k) c.held k ∧ sa = mkSa (own s) 0 (4096 * k) ∧ u = setCutSlot s c.slot { mgetD {} s.red.slots c.slot with near := mput (mgetD {} s.red.slots c.slot).near k l, index := mput (mgetD {} s.red.slots c.slot).index (sa / 4096) (pageCrc sa (linesBytes l)) })
      ∧ (∃ (s : Machine.State) (c : CutRun) (k : Nat) (sa : Nat), live s = true ∧ s.red.cut = some c ∧ c.frozen = false ∧ nextNear c = some k ∧ k < 2 ^ 36 ∧ (mget c.held k).isSome = false ∧ c.pull ≠ some (4096 * k) ∧ sa = mkSa (own s) 0 (4096 * k) ∧ ownedIn s sa 64 ≠ [])
      ∧ (∃ (s : Machine.State) (c : CutRun) (u : Machine.State), live s = true ∧ s.red.cut = some c ∧ c.waiting ≠ [] ∧ reserveRoom s = true ∧ u = { s with red := { s.red with cut := some { c with waiting := [], since := none, hold := cutHeld s c } } })
      ∧ (∃ (s : Machine.State) (c : CutRun) (u : Machine.State) (y : Machine.State), live s = true ∧ s.red.cut = some c ∧ c.frozen = false ∧ nextNear c = none ∧ c.stg.all c.stgGone.contains = true ∧ u = setCutSlot s c.slot { mgetD {} s.red.slots c.slot with sealed := true } ∧ y = regSet (setF (cutRelease { u with red := { u.red with newest := some c.slot } } c) RED_CUTSTAT.STATE 0 csSealed) .RED_CUTSEAL 0 (BitVec.ofNat 64 c.id))
      ∧ (∃ (s : Machine.State) (c : CutRun), live s = true ∧ s.red.cut = some c) :=
  ⟨⟨0, slot0 (bset 3 ⟨8 * 112, 64⟩ 1) .launched, upCut (slot0 (bset 3 ⟨8 * 112, 64⟩ 1) .launched), 0, setF (setF (setF (modSlot (upCut (slot0 (bset 3 ⟨8 * 112, 64⟩ 1) .launched)) 0 fun x => { x with ph := .running, work := .await 0 }) RED_CUTSTAT.STATE 0 csFreeze) RED_CUTSTAT.SLOT 0 0) RED_CUTSTAT.HOLDMS 0 0, by decide +kernel⟩,
   ⟨{ up with red := { up.red with freeze := true, cut := some ({ sq := 0, id := 1, stepb := false, slot := 0, t0 := 0 } : CutRun) } }, ({ sq := 0, id := 1, stepb := false, slot := 0, t0 := 0 } : CutRun), by decide +kernel⟩,
   ⟨{ up with red := { up.red with freeze := true, cut := some ({ sq := 0, id := 1, stepb := false, slot := 0, t0 := 0 } : CutRun) }, home := { up.home with dir := [(0, { st := .owned 3 })] } }, ({ sq := 0, id := 1, stepb := false, slot := 0, t0 := 0 } : CutRun), by decide +kernel⟩,
   ⟨{ up with red := { up.red with cut := some ({ ({ sq := 0, id := 1, stepb := false, slot := 0, t0 := 0 } : CutRun) with frozen := false, held := [(0, [])] } : CutRun) } }, ({ ({ sq := 0, id := 1, stepb := false, slot := 0, t0 := 0 } : CutRun) with frozen := false, held := [(0, [])] } : CutRun), 0, 0, [], setCutSlot ({ up with red := { up.red with cut := some ({ ({ sq := 0, id := 1, stepb := false, slot := 0, t0 := 0 } : CutRun) with frozen := false, held := [(0, [])] } : CutRun) } }) 0 { near := [(0, [])], index := [(0, pageCrc 0 [])] }, by decide +kernel⟩,
   ⟨{ up with red := { up.red with cut := some ({ ({ sq := 0, id := 1, stepb := false, slot := 0, t0 := 0 } : CutRun) with frozen := false, exts := [0] } : CutRun) }, home := { up.home with dir := [(0, { st := .owned 3 })] } }, ({ ({ sq := 0, id := 1, stepb := false, slot := 0, t0 := 0 } : CutRun) with frozen := false, exts := [0] } : CutRun), 0, 0, by decide +kernel⟩,
   ⟨{ setF up RED_CUTCFG.RESCOUNT 0 1 with red := { cut := some ({ ({ sq := 0, id := 1, stepb := false, slot := 0, t0 := 0 } : CutRun) with frozen := false, waiting := [req0] } : CutRun) } }, ({ ({ sq := 0, id := 1, stepb := false, slot := 0, t0 := 0 } : CutRun) with frozen := false, waiting := [req0] } : CutRun), { ({ setF up RED_CUTCFG.RESCOUNT 0 1 with red := { cut := some ({ ({ sq := 0, id := 1, stepb := false, slot := 0, t0 := 0 } : CutRun) with frozen := false, waiting := [req0] } : CutRun) } }) with red := { ({ setF up RED_CUTCFG.RESCOUNT 0 1 with red := { cut := some ({ ({ sq := 0, id := 1, stepb := false, slot := 0, t0 := 0 } : CutRun) with frozen := false, waiting := [req0] } : CutRun) } }).red with cut := some { ({ ({ sq := 0, id := 1, stepb := false, slot := 0, t0 := 0 } : CutRun) with frozen := false, waiting := [req0] } : CutRun) with waiting := [], since := none, hold := 0 } } }, by decide +kernel⟩,
   ⟨{ up with red := { up.red with cut := some ({ ({ sq := 0, id := 1, stepb := false, slot := 0, t0 := 0 } : CutRun) with frozen := false } : CutRun) } }, ({ ({ sq := 0, id := 1, stepb := false, slot := 0, t0 := 0 } : CutRun) with frozen := false } : CutRun), setCutSlot ({ up with red := { up.red with cut := some ({ ({ sq := 0, id := 1, stepb := false, slot := 0, t0 := 0 } : CutRun) with frozen := false } : CutRun) } }) 0 { sealed := true }, regSet (setF (cutRelease { setCutSlot ({ up with red := { up.red with cut := some ({ ({ sq := 0, id := 1, stepb := false, slot := 0, t0 := 0 } : CutRun) with frozen := false } : CutRun) } }) 0 { sealed := true } with red := { (setCutSlot ({ up with red := { up.red with cut := some ({ ({ sq := 0, id := 1, stepb := false, slot := 0, t0 := 0 } : CutRun) with frozen := false } : CutRun) } }) 0 { sealed := true }).red with newest := some 0 } } ({ ({ sq := 0, id := 1, stepb := false, slot := 0, t0 := 0 } : CutRun) with frozen := false } : CutRun)) RED_CUTSTAT.STATE 0 csSealed) .RED_CUTSEAL 0 1, by decide +kernel⟩,
   ⟨{ up with red := { up.red with cut := some ({ sq := 0, id := 1, stepb := false, slot := 0, t0 := 0 } : CutRun) } }, ({ sq := 0, id := 1, stepb := false, slot := 0, t0 := 0 } : CutRun), by decide +kernel⟩⟩

theorem witness_counterCommands :
    (∃ (v : W64) (s : Machine.State), s.pwr.fast = true ∧ s.hst.only = false ∧ btst v CNT_DUMPCTL.NOW.bf = true ∧ btst v CNT_DUMPCTL.MODE.bf = false)
      ∧ (∃ (s : Machine.State) (d : W64), s.pwr.fast = true ∧ s.hst.only = false ∧ s.obs.ddue = some d ∧ 0 ≤ ftDiff s.tim.now d)
      ∧ (∃ (s : Machine.State), live s = true ∧ s.obs.ddue = none)
      ∧ (∃ (s : Machine.State) (r : BitVec 512) (l : List (BitVec 512)) (n : Nat) (t : Nat) (u : Machine.State), s.pwr.fast = true ∧ s.hst.only = false ∧ s.obs.sbuf = r :: l ∧ sampleRoom s = true ∧ n = 2 ^ (min 15 (max 4 (getF s CNT_SRING.LOG2N))) ∧ t = getF s CNT_SSTAT.TAIL ∧ u = { s with obs := { s.obs with sbuf := l } })
      ∧ (∃ (s : Machine.State) (r : LRec) (l : List LRec) (w : BitVec 512), s.pwr.sill = true ∧ s.obs.lqueue = r :: l ∧ s.obs.lfull = 0 ∧ r.sev < 2 ∧ tstF s LDG_STREAM.EN = false ∧ w = ledgerRec s r)
      ∧ (∃ (s : Machine.State) (u : Machine.State), s.pwr.sill = true ∧ u = { s with obs := { s.obs with lwin := [] } })
      ∧ (∃ (s : Machine.State), s.pwr.sill = true) :=
  ⟨⟨bset 0 CNT_DUMPCTL.NOW.bf 1, up, by decide +kernel⟩,
   ⟨{ up with obs := { up.obs with ddue := some 0 } }, 0, by decide +kernel⟩,
   ⟨up, by decide +kernel⟩,
   ⟨{ up with obs := { up.obs with sbuf := [0] } }, 0, ([] : List (BitVec 512)), 16, 0, { { up with obs := { up.obs with sbuf := [0] } } with obs := { ({ up with obs := { up.obs with sbuf := [0] } }).obs with sbuf := [] } }, by decide +kernel⟩,
   ⟨{ up with obs := { up.obs with lqueue := [({ code := 1, sev := 0, ten := none, args := [], time := 0 } : LRec)] } }, ({ code := 1, sev := 0, ten := none, args := [], time := 0 } : LRec), ([] : List LRec), ledgerRec ({ up with obs := { up.obs with lqueue := [({ code := 1, sev := 0, ten := none, args := [], time := 0 } : LRec)] } }) ({ code := 1, sev := 0, ten := none, args := [], time := 0 } : LRec), by decide +kernel⟩,
   ⟨up, { up with obs := { up.obs with lwin := [] } }, by decide +kernel⟩,
   ⟨up, by decide +kernel⟩⟩

set_option maxHeartbeats 1000000 in
theorem witness_resetCommands :
    (∃ (s : Machine.State), s.pwr.sill = true ∧ 1 ≤ getF s GLB_STAT.STAGE)
      ∧ (∃ (s : Machine.State), s.pwr.sill = true ∧ getF s PWR_STATE.CUR ≠ 3)
      ∧ (∃ (s : Machine.State), s.pwr.sill = true ∧ getF s PWR_STATE.CUR ≠ 3)
      ∧ (∃ (s : Machine.State), s.pwr.sill = true ∧ getF s PWR_STATE.CUR ≠ 3)
      ∧ (∃ (s : Machine.State), s.pwr.sill = true ∧ getF s PWR_STATE.CUR = 3)
      ∧ (∃ (hot : Bool) (s : Machine.State), s.pwr.sill = true ∧ 2 ≤ getF s GLB_STAT.STAGE)
      ∧ (∃ (n : Nat) (s : Machine.State), s.pwr.sill = true ∧ 2 ≤ getF s GLB_STAT.STAGE ∧ s.hst.vfEn = true ∧ 1 ≤ n ∧ n ≤ s.hst.numVfs)
      ∧ (∃ (n : Nat) (s : Machine.State) (u : Machine.State), s.pwr.sill = true ∧ 2 ≤ getF s GLB_STAT.STAGE ∧ u = vfsLeave s n)
      ∧ (∃ (n : Nat) (s : Machine.State) (u : Machine.State), s.pwr.sill = true ∧ 2 ≤ getF s GLB_STAT.STAGE ∧ u = vfsLeave s 0)
      ∧ (∃ (t : Nat) (s : Machine.State), s.pwr.fast = true ∧ s.hst.only = false ∧ t < 512 ∧ t ∉ s.sec.resetting)
      ∧ (∃ (t : Nat) (s : Machine.State) (u : Machine.State), s.pwr.fast = true ∧ s.hst.only = false ∧ t ∈ s.sec.resetting ∧ tenClean s t = true ∧ u = tenFree s t ∧ tenPages u t = [])
      ∧ (∃ (t : Nat) (s : Machine.State), s.pwr.fast = true ∧ s.hst.only = false ∧ t ∈ s.sec.resetting ∧ tenClean s t = true ∧ tenPages (tenFree s t) t ≠ []) :=
  ⟨⟨up, by decide +kernel⟩,
   ⟨up, by decide +kernel⟩,
   ⟨up, by decide +kernel⟩,
   ⟨State.reset, by decide +kernel⟩,
   ⟨setF up PWR_STATE.CUR 0 3, by decide +kernel⟩,
   ⟨false, up, by decide +kernel⟩,
   ⟨512, { up with hst := { up.hst with vfEn := true, numVfs := 512 } }, by decide +kernel⟩,
   ⟨3, up, up, by decide +kernel⟩,
   ⟨3, up, up, by decide +kernel⟩,
   ⟨511, up, by decide +kernel⟩,
   ⟨511, { up with sec := { up.sec with resetting := [511] } }, { up with sec := { up.sec with resetting := [511] } }, by decide +kernel⟩,
   ⟨0, { upPage (page0 2) with sec := { up.sec with resetting := [0] }, home := { up.home with dir := [(saLine (mkSa 0 1 0), { st := .owned 3 })], htx := [(0, { req := { rd0 with sa := mkSa 0 1 0 }, tr := .snp, owed := [3] })] } }, by decide +kernel⟩⟩

theorem witness_tenancyCommands :
    (∃ (t : Nat) (v : W64) (s : Machine.State) (u : Machine.State), s.pwr.fast = true ∧ s.hst.only = false ∧ t < 512 ∧ btst v TEN_SECCTL.RESET.bf = false ∧ btst v TEN_SECCTL.ERASE.bf = false ∧ u = plainWrite s .TEN_SECCTL t (bset (bset v TEN_SECCTL.EN.bf 1) TEN_SECCTL.EN.bf (getF s TEN_SECCTL.EN t)) ∧ tstF u TEN_SECCTL.EN t = false ∧ t ∉ u.sec.enabling ∧ tstF u GLB_STAT.READY = true ∧ partitioned u = false)
      ∧ (∃ (t : Nat) (s : Machine.State), s.pwr.fast = true ∧ s.hst.only = false ∧ t ∈ s.sec.enabling ∧ t ∉ s.sec.resetting ∧ seedHeld s = true)
      ∧ (∃ (t : Nat) (v : W64) (s : Machine.State) (u : Machine.State) (y : Machine.State), s.pwr.fast = true ∧ s.hst.only = false ∧ t < 512 ∧ btst v TEN_SECCTL.RESET.bf = false ∧ btst v TEN_SECCTL.EN.bf = false ∧ u = tenantDisable (plainWrite s .TEN_SECCTL t (bset (bset v TEN_SECCTL.ERASE.bf 1) TEN_SECCTL.EN.bf (getF s TEN_SECCTL.EN t))) t ∧ tstF u TEN_SECCTL.EN t = false ∧ t ∉ u.sec.enabling ∧ owns u t = false ∧ y = setF u TEN_SECCTL.KGEN t ((getF u TEN_SECCTL.KGEN t + 1) % 65536))
      ∧ (∃ (t : Nat) (s : Machine.State), s.pwr.fast = true ∧ s.hst.only = false ∧ t ∈ s.sec.erasing)
      ∧ (∃ (v : W64) (s : Machine.State), s.pwr.fast = true ∧ s.hst.only = false ∧ btst v SEC_FSCMD.CREATE.bf = true ∧ tstF s SEC_BOOT.VAULT = false) :=
  ⟨⟨511, 0, up, plainWrite up .TEN_SECCTL 511 0, by decide +kernel⟩,
   ⟨511, { up with sec := { up.sec with enabling := [511], seed := true } }, by decide +kernel⟩,
   ⟨511, 0, up, tenantDisable (plainWrite up .TEN_SECCTL 511 (bset (bset 0 TEN_SECCTL.ERASE.bf 1) TEN_SECCTL.EN.bf 0)) 511, setF (tenantDisable (plainWrite up .TEN_SECCTL 511 (bset (bset 0 TEN_SECCTL.ERASE.bf 1) TEN_SECCTL.EN.bf 0)) 511) TEN_SECCTL.KGEN 511 1, by decide +kernel⟩,
   ⟨511, { up with sec := { up.sec with erasing := [511] } }, by decide +kernel⟩,
   ⟨1, up, by decide +kernel⟩⟩

theorem witness_hostFunctionCommands :
    (∃ (fn : Nat) (s : Machine.State), s.pwr.sill = true ∧ 2 ≤ getF s GLB_STAT.STAGE ∧ fnExists s fn = true)
      ∧ (∃ (fn : Nat) (s : Machine.State), s.pwr.sill = true ∧ 2 ≤ getF s GLB_STAT.STAGE ∧ fnExists s fn = true)
      ∧ (∃ (fn : Nat) (enter : Bool) (s : Machine.State), s.pwr.sill = true ∧ 2 ≤ getF s GLB_STAT.STAGE ∧ fnExists s fn = true)
      ∧ (∃ (fn : Nat) (s : Machine.State), s.pwr.sill = true ∧ 2 ≤ getF s GLB_STAT.STAGE ∧ fnExists s fn = true)
      ∧ (∃ (fn : Nat) (n : Nat) (s : Machine.State), s.pwr.sill = true ∧ 2 ≤ getF s GLB_STAT.STAGE ∧ fnExists s fn = true ∧ n < (if fn = 0 then 2048 else 128))
      ∧ (∃ (speed : Nat) (width : Nat) (flit : Bool) (s : Machine.State), s.pwr.sill = true ∧ 2 ≤ getF s GLB_STAT.STAGE ∧ linkOk speed width = true) :=
  ⟨⟨0, up, by decide +kernel⟩,
   ⟨0, up, by decide +kernel⟩,
   ⟨0, true, up, by decide +kernel⟩,
   ⟨0, up, by decide +kernel⟩,
   ⟨0, 2047, up, by decide +kernel⟩,
   ⟨6, 8, true, up, by decide +kernel⟩⟩

set_option maxHeartbeats 1000000 in
theorem witness_debugAndMeasureCommands :
    (∃ (s : Machine.State), s.pwr.sill = true ∧ mctpFast s = true)
      ∧ (∃ (len : Nat) (s : Machine.State), s.pwr.sill = true ∧ mctpFast s = true ∧ len ≠ 3361)
      ∧ (∃ (s : Machine.State) (l : Nat), s.pwr.sill = true ∧ mctpFast s = true ∧ l = leNat (((tokenBytes s).drop 48).take 1))
      ∧ (∃ (doe : Bool) (s : Machine.State), spdmReach s doe = true ∧ spdmUp s = true)
      ∧ (∃ (doe : Bool) (s : Machine.State), spdmReach s doe = true ∧ spdmUp s = true ∧ 1 ≤ spdmSt s doe)
      ∧ (∃ (doe : Bool) (s : Machine.State), spdmReach s doe = true ∧ spdmUp s = true ∧ spdmSt s doe < 1)
      ∧ (∃ (doe : Bool) (s : Machine.State), spdmReach s doe = true ∧ spdmUp s = true ∧ 2 ≤ spdmSt s doe)
      ∧ (∃ (doe : Bool) (hash : Bool) (asym : Bool) (s : Machine.State), spdmReach s doe = true ∧ spdmUp s = true ∧ spdmSt s doe < 2)
      ∧ (∃ (doe : Bool) (s : Machine.State), spdmReach s doe = true ∧ spdmUp s = true ∧ 3 ≤ spdmSt s doe)
      ∧ (∃ (doe : Bool) (off : Nat) (len : Nat) (s : Machine.State), spdmReach s doe = true ∧ spdmUp s = true ∧ 3 ≤ spdmSt s doe)
      ∧ (∃ (doe : Bool) (slot : Nat) (off : Nat) (len : Nat) (s : Machine.State), spdmReach s doe = true ∧ spdmUp s = true ∧ 3 ≤ spdmSt s doe ∧ slot ≠ 0)
      ∧ (∃ (doe : Bool) (s : Machine.State), spdmReach s doe = true ∧ spdmUp s = true ∧ 3 ≤ spdmSt s doe)
      ∧ (∃ (doe : Bool) (idx : Nat) (raw : Bool) (s : Machine.State), spdmReach s doe = true ∧ spdmUp s = true ∧ 3 ≤ spdmSt s doe ∧ 1 ≤ idx ∧ idx ≤ 8)
      ∧ (∃ (doe : Bool) (raw : Bool) (s : Machine.State), spdmReach s doe = true ∧ spdmUp s = true ∧ 3 ≤ spdmSt s doe)
      ∧ (∃ (doe : Bool) (idx : Nat) (raw : Bool) (sig : Bool) (s : Machine.State), spdmReach s doe = true ∧ spdmUp s = true ∧ 3 ≤ spdmSt s doe ∧ 8 < idx ∧ idx ≠ 255) :=
  ⟨⟨up, by decide +kernel⟩,
   ⟨3360, up, by decide +kernel⟩,
   ⟨up, 0, by decide +kernel⟩,
   ⟨true, (setF up SEC_BOOT.STAGE 0 6), by decide +kernel⟩,
   ⟨true, (setSpdm (setF up SEC_BOOT.STAGE 0 6) true 3), by decide +kernel⟩,
   ⟨true, (setF up SEC_BOOT.STAGE 0 6), by decide +kernel⟩,
   ⟨true, (setSpdm (setF up SEC_BOOT.STAGE 0 6) true 3), by decide +kernel⟩,
   ⟨false, true, true, (setF up SEC_BOOT.STAGE 0 6), by decide +kernel⟩,
   ⟨true, (setSpdm (setF up SEC_BOOT.STAGE 0 6) true 3), by decide +kernel⟩,
   ⟨true, 0, 100, (setSpdm (setF up SEC_BOOT.STAGE 0 6) true 3), by decide +kernel⟩,
   ⟨true, 1, 0, 100, (setSpdm (setF up SEC_BOOT.STAGE 0 6) true 3), by decide +kernel⟩,
   ⟨true, (setSpdm (setF up SEC_BOOT.STAGE 0 6) true 3), by decide +kernel⟩,
   ⟨true, 8, true, (setSpdm (setF up SEC_BOOT.STAGE 0 6) true 3), by decide +kernel⟩,
   ⟨true, true, (setSpdm (setF up SEC_BOOT.STAGE 0 6) true 3), by decide +kernel⟩,
   ⟨true, 9, true, true, (setSpdm (setF up SEC_BOOT.STAGE 0 6) true 3), by decide +kernel⟩⟩

set_option maxHeartbeats 1000000 in
theorem witness_ideCommands :
    (∃ (s : Machine.State), s.pwr.sill = true ∧ 2 ≤ getF s GLB_STAT.STAGE)
      ∧ (∃ (s : Machine.State), s.pwr.sill = true ∧ 2 ≤ getF s GLB_STAT.STAGE)
      ∧ (∃ (s : Machine.State), s.pwr.sill = true ∧ 2 ≤ getF s GLB_STAT.STAGE)
      ∧ (∃ (nonce : List Byte) (ek : List Byte) (s : Machine.State), s.pwr.sill = true ∧ 2 ≤ getF s GLB_STAT.STAGE ∧ nonce.length = 32 ∧ ek.length = 1184 ∧ spdmUp s = true)
      ∧ (∃ (port : Nat) (s : Machine.State), s.pwr.sill = true ∧ 2 ≤ getF s GLB_STAT.STAGE ∧ s.sec.ideSess ≠ 0)
      ∧ (∃ (stream : Nat) (set : Nat) (dir : Nat) (sub : Nat) (s : Machine.State) (u : Machine.State), s.pwr.sill = true ∧ 2 ≤ getF s GLB_STAT.STAGE ∧ s.sec.ideSess ≠ 0 ∧ stream ≤ 4 ∧ set ≤ 1 ∧ dir ≤ 1 ∧ sub ≤ 2 ∧ u = { s with sec := { s.sec with ideKeys := insRising s.sec.ideKeys (ideKey stream set dir sub), ideN := s.sec.ideN + 1 } })
      ∧ (∃ (stream : Nat) (set : Nat) (dir : Nat) (sub : Nat) (s : Machine.State), s.pwr.sill = true ∧ 2 ≤ getF s GLB_STAT.STAGE ∧ s.sec.ideSess ≠ 0 ∧ ideKeyOk stream set dir sub = false)
      ∧ (∃ (stream : Nat) (set : Nat) (dir : Nat) (sub : Nat) (s : Machine.State) (u : Machine.State), s.pwr.sill = true ∧ 2 ≤ getF s GLB_STAT.STAGE ∧ s.sec.ideSess ≠ 0 ∧ ideKey stream set dir sub ∈ s.sec.ideKeys ∧ u = ideAnswer (ideActive { s with sec := { s.sec with ideGo := insRising s.sec.ideGo (ideKey stream set dir sub) } }) 6 [stream, set, dir, sub])
      ∧ (∃ (stream : Nat) (set : Nat) (dir : Nat) (sub : Nat) (s : Machine.State) (u : Machine.State), s.pwr.sill = true ∧ 2 ≤ getF s GLB_STAT.STAGE ∧ s.sec.ideSess ≠ 0 ∧ ideKey stream set dir sub ∉ s.sec.ideKeys ∧ u = ideAnswer (ideActive s) 6 [stream, set, dir, sub])
      ∧ (∃ (stream : Nat) (set : Nat) (dir : Nat) (sub : Nat) (s : Machine.State) (u : Machine.State), s.pwr.sill = true ∧ 2 ≤ getF s GLB_STAT.STAGE ∧ s.sec.ideSess ≠ 0 ∧ u = ideAnswer (ideActive { s with sec := { s.sec with ideGo := s.sec.ideGo.filter (· != ideKey stream set dir sub) } }) 6 [stream, set, dir, sub])
      ∧ (∃ (stream : Nat) (set : Nat) (dir : Nat) (sub : Nat) (port : Nat) (s : Machine.State), s.pwr.sill = true ∧ 2 ≤ getF s GLB_STAT.STAGE) :=
  ⟨⟨up, by decide +kernel⟩,
   ⟨up, by decide +kernel⟩,
   ⟨up, by decide +kernel⟩,
   ⟨List.replicate 32 0, List.replicate 1184 0, (setF up SEC_BOOT.STAGE 0 6), by decide +kernel⟩,
   ⟨0, ({ up with sec := { up.sec with ideSess := 1 } } : State), by decide +kernel⟩,
   ⟨4, 1, 1, 2, ({ up with sec := { up.sec with ideSess := 1 } } : State), { ({ up with sec := { up.sec with ideSess := 1 } } : State) with sec := { ({ up with sec := { up.sec with ideSess := 1 } } : State).sec with ideKeys := [59], ideN := 1 } }, by decide +kernel⟩,
   ⟨5, 0, 0, 0, ({ up with sec := { up.sec with ideSess := 1 } } : State), by decide +kernel⟩,
   ⟨0, 0, 0, 0, ({ up with sec := { up.sec with ideSess := 1, ideKeys := [0] } } : State), ideAnswer (ideActive { ({ up with sec := { up.sec with ideSess := 1, ideKeys := [0] } } : State) with sec := { ({ up with sec := { up.sec with ideSess := 1, ideKeys := [0] } } : State).sec with ideGo := insRising ({ up with sec := { up.sec with ideSess := 1, ideKeys := [0] } } : State).sec.ideGo (ideKey 0 0 0 0) } }) 6 [0, 0, 0, 0], by decide +kernel⟩,
   ⟨0, 0, 0, 0, ({ up with sec := { up.sec with ideSess := 1 } } : State), ideAnswer (ideActive ({ up with sec := { up.sec with ideSess := 1 } } : State)) 6 [0, 0, 0, 0], by decide +kernel⟩,
   ⟨0, 0, 0, 0, ({ up with sec := { up.sec with ideSess := 1 } } : State), ideAnswer (ideActive { ({ up with sec := { up.sec with ideSess := 1 } } : State) with sec := { ({ up with sec := { up.sec with ideSess := 1 } } : State).sec with ideGo := ({ up with sec := { up.sec with ideSess := 1 } } : State).sec.ideGo.filter (· != ideKey 0 0 0 0) } }) 6 [0, 0, 0, 0], by decide +kernel⟩,
   ⟨0, 0, 0, 0, 0, up, by decide +kernel⟩⟩

set_option maxHeartbeats 1000000 in
theorem witness_powerStateCommands :
    (∃ (mctp : Bool) (s : Machine.State), pwrReach s mctp = true ∧ powerSt s = psParked)
      ∧ (∃ (s : Machine.State), s.pwr.sill = true ∧ powerSt s = psSill ∧ s.pwr.railFault = false)
      ∧ (∃ (mctp : Bool) (s : Machine.State), pwrReach s mctp = true ∧ powerSt s ≤ psIdle)
      ∧ (∃ (mctp : Bool) (s : Machine.State), pwrReach s mctp = true ∧ powerSt s ≤ psIdle ∧ tstF s HOME_DIRCFG.EN = false ∧ s.pwr.parking = false)
      ∧ (∃ (mctp : Bool) (s : Machine.State), pwrReach s mctp = true ∧ (tstF s HOME_DIRCFG.EN = true ∨ psIdle < powerSt s))
      ∧ (∃ (mctp : Bool) (s : Machine.State), pwrReach s mctp = true ∧ powerSt s = psParked)
      ∧ (∃ (mctp : Bool) (s : Machine.State), pwrReach s mctp = true ∧ powerSt s ≠ psParked)
      ∧ (∃ (s : Machine.State), live s = true ∧ powerSt s = psRun ∧ s.que.slots = [] ∧ s.arr.held = [] ∧ s.arr.waiting = [] ∧ allGated s = true)
      ∧ (∃ (a : Nat) (s : Machine.State), s.pwr.fast = true ∧ tstF s PWR_CFG.AGATE = true ∧ partitioned s = false ∧ arrayFree s a = true)
      ∧ (∃ (a : Nat) (s : Machine.State), s.pwr.fast = true) :=
  ⟨⟨false, setF up PWR_STATE.CUR 0 2, by decide +kernel⟩,
   ⟨setF State.reset PWR_STATE.CUR 0 3, by decide +kernel⟩,
   ⟨true, up, by decide +kernel⟩,
   ⟨false, up, by decide +kernel⟩,
   ⟨true, setF up HOME_DIRCFG.EN 0 1, by decide +kernel⟩,
   ⟨true, setF up PWR_STATE.CUR 0 2, by decide +kernel⟩,
   ⟨true, up, by decide +kernel⟩,
   ⟨{ up with arr := { up.arr with gated := List.range 32 } }, by decide +kernel⟩,
   ⟨31, setF up PWR_CFG.AGATE 0 1, by decide +kernel⟩,
   ⟨31, up, by decide +kernel⟩⟩

theorem witness_powerLimitCommands :
    (∃ (w : Nat) (temp : Nat) (sensor : Nat) (s : Machine.State), s.pwr.sill = true ∧ s.pwr.parking = false ∧ temp < 105 ∧ w ≤ sustLimit s ∧ s.pwr.cnt + 1 < 100000 ∧ s.pwr.hot12 < 10000)
      ∧ (∃ (w : Nat) (temp : Nat) (sensor : Nat) (s : Machine.State), s.pwr.sill = true ∧ s.pwr.parking = false ∧ 115 ≤ temp ∧ temp < 65536 ∧ w ≤ sustLimit s ∧ s.pwr.cnt + 1 < 100000 ∧ s.pwr.fast = true ∧ tstF s PWR_EVT.THERMTRIP = false ∧ powerSt s ≠ psSill ∧ getF s PWR_MON.STEP < 12)
      ∧ (∃ (s : Machine.State), s.pwr.sill = true ∧ throttleCause s = true ∧ 0 < getF s PWR_MON.STEP)
      ∧ (∃ (s : Machine.State), s.pwr.sill = true ∧ throttleCause s = true ∧ getF s PWR_MON.STEP = 0)
      ∧ (∃ (s : Machine.State), s.pwr.sill = true ∧ throttleCause s = false ∧ 0 < getF s PWR_MON.STEP ∧ 100 ≤ s.pwr.clear ∧ getF s PWR_MON.LAST * 100 ≤ sustLimit s * 95) :=
  ⟨⟨900, 80, 3, up, by decide +kernel⟩,
   ⟨900, 115, 3, up, by decide +kernel⟩,
   ⟨setF (setF up PWR_MON.TMAX 0 100) PWR_MON.STEP 0 12, by decide +kernel⟩,
   ⟨setF up PWR_MON.TMAX 0 100, by decide +kernel⟩,
   ⟨setF ({ up with pwr := { up.pwr with clear := 100 } } : State) PWR_MON.STEP 0 1, by decide +kernel⟩⟩

set_option maxHeartbeats 1000000 in
theorem witness_railCommands :
    (∃ (rail : Nat) (s : Machine.State) (u : Machine.State), s.pwr.sill = true ∧ rail < 6 ∧ railNeeds rail ≤ s.pwr.railen ∧ ¬ (rail = 0 ∧ s.pwr.railen = 1) ∧ ¬ (rail = 3 ∧ s.pwr.railen = 2) ∧ u = { s with pwr := { s.pwr with rails := insRising s.pwr.rails rail } })
      ∧ (∃ (s : Machine.State) (u : Machine.State), s.pwr.sill = true ∧ s.pwr.railen = 1 ∧ u = { s with pwr := { s.pwr with rails := insRising s.pwr.rails 0, railen := 2 } })
      ∧ (∃ (s : Machine.State) (u : Machine.State), s.pwr.sill = true ∧ s.pwr.railen = 2 ∧ u = { s with pwr := { s.pwr with rails := insRising s.pwr.rails 3, railen := 3 } })
      ∧ (∃ (rail : Nat) (s : Machine.State) (u : Machine.State), s.pwr.sill = true ∧ powerSt s ≠ psSill ∧ u = ledgerFF (if s.pwr.fast then selfFence s else s) 0xE rail)
      ∧ (∃ (s : Machine.State), s.pwr.sill = true ∧ powerSt s ≠ psSill)
      ∧ (∃ (s : Machine.State), s.pwr.sill = true ∧ 2 ≤ getF s GLB_STAT.STAGE)
      ∧ (∃ (s : Machine.State), s.pwr.sill = true ∧ s.pwr.crystal = true) ∧ (∃ (s : Machine.State), s.pwr.sill = true)
      ∧ (∃ (s : Machine.State), s.pwr.sill = false) :=
  ⟨⟨5, { State.reset with pwr := { State.reset.pwr with railen := 3, rails := [0, 1, 2, 3, 4] } }, { ({ State.reset with pwr := { State.reset.pwr with railen := 3, rails := [0, 1, 2, 3, 4] } } : State) with pwr := { ({ State.reset with pwr := { State.reset.pwr with railen := 3, rails := [0, 1, 2, 3, 4] } } : State).pwr with rails := [0, 1, 2, 3, 4, 5] } }, by decide +kernel⟩,
   ⟨State.reset, { State.reset with pwr := { State.reset.pwr with rails := [0], railen := 2 } }, by decide +kernel⟩,
   ⟨{ State.reset with pwr := { State.reset.pwr with rails := [0, 1, 2], railen := 2 } }, { ({ State.reset with pwr := { State.reset.pwr with rails := [0, 1, 2], railen := 2 } } : State) with pwr := { ({ State.reset with pwr := { State.reset.pwr with rails := [0, 1, 2], railen := 2 } } : State).pwr with rails := [0, 1, 2, 3], railen := 3 } }, by decide +kernel⟩,
   ⟨6, up, ledgerFF (selfFence up) 0xE 6, by decide +kernel⟩,
   ⟨up, by decide +kernel⟩,
   ⟨up, by decide +kernel⟩,
   ⟨up, by decide +kernel⟩,
   ⟨up, by decide +kernel⟩,
   ⟨{ up with pwr := { up.pwr with sill := false } }, by decide +kernel⟩⟩

set_option maxHeartbeats 1000000 in
theorem witness_sledCommands :
    (∃ (n : Nat) (s : Machine.State), s.pwr.sill = true ∧ n < 4 ∧ sledSt s n = slActive)
      ∧ (∃ (n : Nat) (s : Machine.State), s.pwr.sill = true ∧ n < 4 ∧ sledSt s n = slAbortwin)
      ∧ (∃ (n : Nat) (s : Machine.State), s.pwr.sill = true ∧ n < 4 ∧ sledSt s n ∈ [slStandby, slTesting, slFailed])
      ∧ (∃ (mctp : Bool) (n : Nat) (v : W64) (s : Machine.State) (u : Machine.State), pwrReach s mctp = true ∧ n < 4 ∧ u = setF s PWR_SLED.LEFT n (bget v PWR_SLED.LEFT.bf) ∧ sledSt s n = slActive)
      ∧ (∃ (n : Nat) (s : Machine.State), s.pwr.sill = true ∧ n < 4 ∧ sledSt s n = slAbortwin)
      ∧ (∃ (n : Nat) (s : Machine.State), s.pwr.sill = true ∧ n < 4 ∧ sledSt s n = slQuiescing ∧ s.red.selfFenced = false ∧ sledDirty s n = [] ∧ (∀ c ∈ mgetD [] s.pwr.mirrors n, fencedChip s c = true))
      ∧ (∃ (n : Nat) (s : Machine.State), s.pwr.sill = true ∧ n < 4 ∧ sledSt s n = slQuiescing ∧ s.red.selfFenced = false)
      ∧ (∃ (chip : Nat) (exts : List Nat) (s : Machine.State), live s = true)
      ∧ (∃ (chip : Nat) (n : Nat) (s : Machine.State), live s = true)
      ∧ (∃ (n : Nat) (s : Machine.State), s.pwr.sill = true ∧ n < 4 ∧ sledSt s n = slSafe)
      ∧ (∃ (n : Nat) (s : Machine.State), s.pwr.sill = true ∧ n < 4 ∧ sledSt s n ≠ slAbsent ∧ sledSt s n ≠ slSafe)
      ∧ (∃ (n : Nat) (s : Machine.State), s.pwr.sill = true ∧ n < 4 ∧ sledSt s n = slAbsent)
      ∧ (∃ (n : Nat) (s : Machine.State), s.pwr.sill = true ∧ n ∈ s.pwr.sledOn)
      ∧ (∃ (n : Nat) (s : Machine.State), s.pwr.sill = true ∧ n < 4 ∧ sledSt s n = slTesting ∧ n ∉ s.pwr.sledGood)
      ∧ (∃ (n : Nat) (k : Nat) (s : Machine.State), s.pwr.sill = true ∧ n < 4 ∧ sledSt s n = slTesting ∧ n ∈ s.pwr.sledGood)
      ∧ (∃ (n : Nat) (k : Nat) (m : AMap FarBlock) (a : Nat) (b : Nat) (s : Machine.State) (u : Machine.State), s.pwr.sill = true ∧ n < 4 ∧ sledSt s n = slTesting ∧ n ∈ s.pwr.sledGood ∧ u = sledContent s n m a b)
      ∧ (∃ (n : Nat) (k : Nat) (content : Option (AMap FarBlock × Nat × Nat)) (s : Machine.State), s.pwr.sill = true ∧ n < 4 ∧ sledSt s n = slTesting ∧ n ∈ s.pwr.sledGood) :=
  ⟨⟨3, setF up PWR_SLED.STATE 3 3, by decide +kernel⟩,
   ⟨3, setF up PWR_SLED.STATE 3 4, by decide +kernel⟩,
   ⟨3, setF up PWR_SLED.STATE 3 7, by decide +kernel⟩,
   ⟨true, 3, 0, setF up PWR_SLED.STATE 3 3, setF (setF up PWR_SLED.STATE 3 3) PWR_SLED.LEFT 3 (bget (0 : W64) PWR_SLED.LEFT.bf), by decide +kernel⟩,
   ⟨0, setF up PWR_SLED.STATE 0 4, by decide +kernel⟩,
   ⟨0, fence1 { (setF up PWR_SLED.STATE 0 5) with pwr := { up.pwr with mirrors := [(0, [1])] } }, by decide +kernel⟩,
   ⟨0, setF up PWR_SLED.STATE 0 5, by decide +kernel⟩,
   ⟨1, [0], up, by decide +kernel⟩,
   ⟨1, 0, up, by decide +kernel⟩,
   ⟨0, setF up PWR_SLED.STATE 0 6, by decide +kernel⟩,
   ⟨0, setF up PWR_SLED.STATE 0 3, by decide +kernel⟩,
   ⟨3, up, by decide +kernel⟩,
   ⟨3, { up with pwr := { up.pwr with sledOn := [3] } }, by decide +kernel⟩,
   ⟨3, setF up PWR_SLED.STATE 3 1, by decide +kernel⟩,
   ⟨0, 65536, setF ({ up with pwr := { up.pwr with sledGood := [0] } } : State) PWR_SLED.STATE 0 1, by decide +kernel⟩,
   ⟨0, 65536, [], 0, 0, setF ({ up with pwr := { up.pwr with sledGood := [0] } } : State) PWR_SLED.STATE 0 1, sledContent (setF ({ up with pwr := { up.pwr with sledGood := [0] } } : State) PWR_SLED.STATE 0 1) 0 [] 0 0, by decide +kernel⟩,
   ⟨0, 0, none, setF ({ up with pwr := { up.pwr with sledGood := [0] } } : State) PWR_SLED.STATE 0 1, by decide +kernel⟩⟩

set_option maxHeartbeats 1000000 in
theorem witness_bringupCommands :
    (∃ (e : StageEnd) (s : Machine.State), bringupRuns s = true ∧ stage s = 1 ∧ linkOk e.speed e.width = true)
      ∧ (∃ (e : StageEnd) (s : Machine.State), bringupRuns s = true ∧ stage s = 2)
      ∧ (∃ (e : StageEnd) (s : Machine.State) (u : Machine.State), bringupRuns s = true ∧ stage s = 3 ∧ u = setF (boot ((manifestSettings s.sec.manifest).foldl applySetting s) 5) SEC_BOOT.SEALED 0 1)
      ∧ (∃ (e : StageEnd) (s : Machine.State) (b : List Nat) (u : Machine.State), bringupRuns s = true ∧ stage s = 4 ∧ b = (e.badPc.filter fun p => decide (p < 512)).foldl insRising s.store.retiredPc ∧ u = setF (setF { s with store := { s.store with near := [], failedPc := [], retiredPc := b } } TIER_NEARCAP.RETIRED 0 (min 255 b.length)) TIER_NEARCAP.EXTENTS 0 (576 - 2 * b.length))
      ∧ (∃ (e : StageEnd) (s : Machine.State), bringupRuns s = true ∧ stage s = 5)
      ∧ (∃ (e : StageEnd) (s : Machine.State) (x : Nat × Nat) (u : Machine.State), bringupRuns s = true ∧ stage s = 6 ∧ s.red.restore = some x ∧ u = ((List.range 4).filter (sledJoins s)).foldl sledReload (setF s TIER_QUARCNT.BLOCKS 0 0))
      ∧ (∃ (e : StageEnd) (s : Machine.State) (p : Nat), bringupRuns s = true ∧ stage s = 7 ∧ tstF s GLB_STAT.READY = false ∧ mayJoin s = true ∧ s.red.restore = some (0, p))
      ∧ (∃ (e : StageEnd) (s : Machine.State) (id : Nat) (p : Nat) (c : CutSlot), bringupRuns s = true ∧ stage s = 7 ∧ tstF s GLB_STAT.READY = false ∧ mayJoin s = true ∧ s.red.restore = some (id, p) ∧ id ≠ 0 ∧ cutToRestore s id e.slot = some c)
      ∧ (∃ (s : Machine.State), bringupRuns s = true ∧ mayFail s 0 = true)
      ∧ (∃ (i : Nat) (s : Machine.State), bringupRuns s = true ∧ 1 ≤ i ∧ i ≤ 6 ∧ stage s = failStage i)
      ∧ (∃ (oseq : Nat) (cut : Nat) (plan : Nat) (s : Machine.State) (u : Machine.State), s.pwr.sill = true ∧ 4 ≤ getF s SEC_BOOT.STAGE ∧ s.hst.only = false ∧ getF s SEC_OSEQ.OSEQ < oseq ∧ u = setF s SEC_OSEQ.OSEQ 0 oseq ∧ stage u ≠ 7)
      ∧ (∃ (oseq : Nat) (cut : Nat) (plan : Nat) (s : Machine.State) (u : Machine.State), s.pwr.sill = true ∧ 4 ≤ getF s SEC_BOOT.STAGE ∧ s.hst.only = false ∧ getF s SEC_OSEQ.OSEQ < oseq ∧ u = setF s SEC_OSEQ.OSEQ 0 oseq ∧ stage u = 7) :=
  ⟨⟨{}, setF (setF up GLB_STAT.READY 0 0) GLB_STAT.STAGE 0 1, by decide +kernel⟩,
   ⟨{}, setF (setF up GLB_STAT.READY 0 0) GLB_STAT.STAGE 0 2, by decide +kernel⟩,
   ⟨{}, setF (setF up GLB_STAT.READY 0 0) GLB_STAT.STAGE 0 3, setF (boot ((manifestSettings (setF (setF up GLB_STAT.READY 0 0) GLB_STAT.STAGE 0 3).sec.manifest).foldl applySetting (setF (setF up GLB_STAT.READY 0 0) GLB_STAT.STAGE 0 3)) 5) SEC_BOOT.SEALED 0 1, by decide +kernel⟩,
   ⟨{ badPc := [511, 512] }, setF (setF up GLB_STAT.READY 0 0) GLB_STAT.STAGE 0 4, [511], setF (setF { (setF (setF up GLB_STAT.READY 0 0) GLB_STAT.STAGE 0 4) with store := { (setF (setF up GLB_STAT.READY 0 0) GLB_STAT.STAGE 0 4).store with near := [], failedPc := [], retiredPc := [511] } } TIER_NEARCAP.RETIRED 0 1) TIER_NEARCAP.EXTENTS 0 574, by decide +kernel⟩,
   ⟨{}, setF (setF up GLB_STAT.READY 0 0) GLB_STAT.STAGE 0 5, by decide +kernel⟩,
   ⟨{}, setF ({ (setF up GLB_STAT.READY 0 0) with red := { (setF up GLB_STAT.READY 0 0).red with restore := some (0, 0) } } : State) GLB_STAT.STAGE 0 6, (0, 0), setF (setF ({ (setF up GLB_STAT.READY 0 0) with red := { (setF up GLB_STAT.READY 0 0).red with restore := some (0, 0) } } : State) GLB_STAT.STAGE 0 6) TIER_QUARCNT.BLOCKS 0 0, by decide +kernel⟩,
   ⟨{}, ({ (setF up GLB_STAT.READY 0 0) with red := { (setF up GLB_STAT.READY 0 0).red with restore := some (0, 5) } } : State), 5, by decide +kernel⟩,
   ⟨{ slot := some { id := 1 } }, ({ (setF up GLB_STAT.READY 0 0) with red := { (setF up GLB_STAT.READY 0 0).red with restore := some (1, 5) } } : State), 1, 5, { id := 1 }, by decide +kernel⟩,
   ⟨(setF up GLB_STAT.READY 0 0), by decide +kernel⟩,
   ⟨6, setF (setF up GLB_STAT.READY 0 0) GLB_STAT.STAGE 0 5, by decide +kernel⟩,
   ⟨1, 0, 0, setF (setF up SEC_BOOT.STAGE 0 6) GLB_STAT.STAGE 0 6, setF (setF (setF up SEC_BOOT.STAGE 0 6) GLB_STAT.STAGE 0 6) SEC_OSEQ.OSEQ 0 1, by decide +kernel⟩,
   ⟨1, 0, 0, setF up SEC_BOOT.STAGE 0 6, setF (setF up SEC_BOOT.STAGE 0 6) SEC_OSEQ.OSEQ 0 1, by decide +kernel⟩⟩

set_option maxHeartbeats 1000000 in
theorem witness_hostAccessCommands :
    (∃ (fn : Nat) (off : Nat) (s : Machine.State), fnServes s fn = true ∧ ideOk s = true ∧ inBar0 fn off = true ∧ inAlias fn off = false ∧ off % 8 = 0 ∧ (fnOf s fn).wlatch = none)
      ∧ (∃ (fn : Nat) (off : Nat) (s : Machine.State), fnServes s fn = true ∧ ideOk s = true ∧ inBar0 fn off = true ∧ inAlias fn off = false ∧ off % 8 = 0 ∧ (fnOf s fn).wlatch = none)
      ∧ (∃ (fn : Nat) (off : Nat) (h : BitVec 32) (s : Machine.State), fnServes s fn = true ∧ ideOk s = true ∧ inBar0 fn off = true ∧ inAlias fn off = false ∧ off % 8 = 4 ∧ (fnOf s fn).wlatch = none ∧ (fnOf s fn).rlatch = some (off - 4, h))
      ∧ (∃ (fn : Nat) (off : Nat) (size : Nat) (s : Machine.State), fnServes s fn = true ∧ ideOk s = true ∧ inBar0 fn off = true ∧ inAlias fn off = false ∧ accessOk off size = false)
      ∧ (∃ (fn : Nat) (off : Nat) (size : Nat) (s : Machine.State), fnServes s fn = true ∧ ideOk s = true)
      ∧ (∃ (off : Nat) (v : Line) (r : Reg) (i : Nat) (s : Machine.State), fnServes s 0 = true ∧ ideOk s = true ∧ inBar0 0 off = true ∧ inAlias 0 off = false ∧ off % 8 = 0 ∧ (fnOf s 0).wlatch = none ∧ regAt off = some (r, i) ∧ regOpen s r = true)
      ∧ (∃ (fn : Nat) (off : Nat) (v : Line) (s : Machine.State), fnServes s fn = true ∧ ideOk s = true ∧ inBar0 fn off = true ∧ inAlias fn off = false ∧ off % 8 = 0 ∧ (fnOf s fn).wlatch = none)
      ∧ (∃ (off : Nat) (v : Line) (l : BitVec 32) (r : Reg) (i : Nat) (s : Machine.State), fnServes s 0 = true ∧ ideOk s = true ∧ inBar0 0 off = true ∧ inAlias 0 off = false ∧ off % 8 = 4 ∧ (fnOf s 0).wlatch = some (off - 4, l) ∧ regAt (off - 4) = some (r, i) ∧ regOpen s r = true)
      ∧ (∃ (fn : Nat) (off : Nat) (size : Nat) (v : Line) (s : Machine.State), fnServes s fn = true ∧ ideOk s = true ∧ inBar0 fn off = true ∧ inAlias fn off = false ∧ accessOk off size = false)
      ∧ (∃ (fn : Nat) (off : Nat) (v : Line) (b : Bell) (o : Nat) (s : Machine.State), fnServes s fn = true ∧ ideOk s = true ∧ live s = true ∧ bellAt fn off = some (b, o) ∧ off % 8 = 0)
      ∧ (∃ (fn : Nat) (off : Nat) (v : Line) (b : Bell) (o : Nat) (s : Machine.State), fnServes s fn = true ∧ ideOk s = true ∧ live s = true ∧ bellAt fn off = some (b, o) ∧ off % 64 = 0)
      ∧ (∃ (fn : Nat) (off : Nat) (size : Nat) (v : Line) (s : Machine.State), fnServes s fn = true ∧ ideOk s = true)
      ∧ (∃ (fn : Nat) (bar : Nat) (off : Nat) (size : Nat) (v : Line) (s : Machine.State), fnServes s fn = false) :=
  ⟨⟨0, 0x0FFFFFF8, up, by decide +kernel⟩,
   ⟨0, 0, up, by decide +kernel⟩,
   ⟨0, 4, 7, setFn up 0 { fnOf up 0 with rlatch := some (0, 7) }, by decide +kernel⟩,
   ⟨0, 4, 8, up, by decide +kernel⟩,
   ⟨0, 0, 8, up, by decide +kernel⟩,
   ⟨(regPlace .CNT_VAL).base, 5, .CNT_VAL, 0, up, by decide +kernel⟩,
   ⟨0, 0, 5, up, by decide +kernel⟩,
   ⟨(regPlace .CNT_VAL).base + 4, 5, 3, .CNT_VAL, 0, setFn up 0 { fnOf up 0 with wlatch := some ((regPlace .CNT_VAL).base, 3) }, by decide +kernel⟩,
   ⟨0, 2, 4, 5, up, by decide +kernel⟩,
   ⟨0, 0x23FFC0, 5, ⟨true, 0, 4095⟩, 0, up, by decide +kernel⟩,
   ⟨0, 0x23FFC0, 5, ⟨true, 0, 4095⟩, 0, up, by decide +kernel⟩,
   ⟨0, 0, 8, 5, up, by decide +kernel⟩,
   ⟨0, 0, 0, 8, 0, State.reset, by decide +kernel⟩⟩

theorem witness_mctpAccessCommands :
    (∃ (off : Nat) (r : Reg) (i : Nat) (s : Machine.State), s.pwr.sill = true ∧ mctpAt off = .reg r i ∧ (sillReg r = true ∨ mctpFast s = true) ∧ r ≠ .LDG_WINSEL ∧ r ≠ .LDG_WIN)
      ∧ (∃ (off : Nat) (i : Nat) (s : Machine.State), s.pwr.sill = true ∧ mctpAt off = .reg .LDG_WIN i)
      ∧ (∃ (off : Nat) (r : Reg) (i : Nat) (s : Machine.State) (v : W64), s.pwr.sill = true ∧ mctpAt off = .reg r i ∧ sillReg r = false ∧ mctpFast s = false)
      ∧ (∃ (off : Nat) (v : W64) (s : Machine.State), s.pwr.sill = true ∧ mctpAt off = .nothing)
      ∧ (∃ (off : Nat) (r : Reg) (i : Nat) (v : W64) (s : Machine.State), s.pwr.sill = true ∧ mctpAt off = .reg r i ∧ (sillReg r = true ∨ mctpFast s = true))
      ∧ (∃ (off : Nat) (w : Nat) (v : W64) (s : Machine.State), s.pwr.sill = true ∧ mctpAt off = .token w ∧ mctpFast s = true ∧ w ≠ 0) :=
  ⟨⟨(regPlace .PWR_STATE).base, .PWR_STATE, 0, State.reset, by decide +kernel⟩,
   ⟨(regPlace .LDG_WIN).base, 0, State.reset, by decide +kernel⟩,
   ⟨(regPlace .SEC_BOOT).base, .SEC_BOOT, 0, State.reset, 0, by decide +kernel⟩,
   ⟨1, 0, State.reset, by decide +kernel⟩,
   ⟨(regPlace .LDG_WINSEL).base, .LDG_WINSEL, 0, 3, State.reset, by decide +kernel⟩,
   ⟨0x1301FF8, 511, 3, up, by decide +kernel⟩⟩

/-! ## Ill-formed commands, refused -/

theorem test_wf_refuses_extent :
    ([
      .extentRecordHighWrite false 262144 0, .extentRecordApply false 262144 0, .extentValidClear false 262144 0,
      .extentRetireIdle false 262144] : List Instr).all (fun c => !c.wf) = true := by decide

theorem test_wf_refuses_tenant_or_pseudo_channel :
    ([
      .tier2WideWrite 0 0 false 512, .faultRecordWrite 512, .faultBatchClose 512, .faultRingHeadWrite 512 0,
      .faultRingEnable 512 0, .resumeRetry 512 0 0, .resumeAbort 512 0 0, .shoot 0 0 0 0 0 512, .sqTail false 512 0 0,
      .cqHead false 512 0 0, .resume false 512 0, .cancelAll false 512 0, .cancelTag false 512 0 0,
      .evictionStart 512 false, .kvPoolEnable 512 0, .pseudoChannelFail 512, .tenantEnable 512 0,
      .tenantKeysInstalled 512, .tenantReset 512, .tenantResetDone 512, .tenantErase 512 0, .tenantEraseDone 512] : List Instr).all (fun c => !c.wf) = true := by decide

theorem test_wf_refuses_region_or_transaction :
    ([
      .versionRecordWrite 16384 none 0, .publishHomeUpdate 16384 0 0 0 ⟨0, 0⟩, .nearReadReturn 16384 0 none,
      .nearWriteDone 16384] : List Instr).all (fun c => !c.wf) = true := by decide

theorem test_wf_refuses_chip :
    ([
      .publishHomeUpdate 0 0 0 1024 ⟨0, 0⟩, .parityDeltaUpdate 1024 0 0 0 0, .shoot 1024 0 0 0 0 0, .shootAck 1024 0 false,
      .rdShared 0 1024 0, .rdOwn 0 1024 0, .rdCur 0 1024 0, .wrFull 0 1024 0 0, .wb 0 1024 0 0, .evictClean 0 1024 0,
      .rspI 0 1024 0, .rspS 0 1024 0, .rspFwd 0 1024 0, .rspGone 0 1024 0, .rspData 0 1024 0 0, .cmpAck 0 1024 0,
      .engRd 0 1024 0, .engRdata 0 1024 0 [] false, .engWr 0 1024 0 [], .engAck 0 1024 0, .engErr 0 1024 0,
      .engOpx 0 1024 0 ⟨[], false⟩, .deathDeclareWait 1024, .mirrorWritebackRequest 1024 [], .mirrorPagesWritten 1024 0] : List Instr).all (fun c => !c.wf) = true := by decide

theorem test_wf_refuses_park_slot :
    ([
      .resumeRetry 0 2048 0, .resumeAbort 0 2048 0, .parkedDeadlineExpire 2048] : List Instr).all (fun c => !c.wf) = true := by decide

theorem test_wf_refuses_record :
    ([
      .resumeRetry 0 0 65536, .resumeAbort 0 0 65536, .tallyAllocate 65536 0, .tallyCountWrite 65536 0,
      .tallyRelease 65536 0, .leaseReclaim 65536, .truncateBlockRelease 65536] : List Instr).all (fun c => !c.wf) = true := by decide

theorem test_wf_refuses_queue_context :
    ([
      .parkSlotAvailable 4096, .spillSpaceAvailable 4096, .queueContextEnable 4096 0, .queueContextDisable 4096 0,
      .queueDrainEnd 4096, .descriptorFetch 4096, .descriptorArrive 4096 0 [], .interruptModerationTimer 4096] : List Instr).all (fun c => !c.wf) = true := by decide

theorem test_wf_refuses_sled_or_kind :
    ([
      .shoot 0 0 4 0 0 0, .sledButtonPress 4, .pwrSledPress false 4 0, .abortWindowEnd 4, .quiesceWritebackDone 4,
      .quiesceTimeout 4, .sledLatchOpen 4, .sledLatchClose 4, .sledTestDone 4 false 0 none, .sledPowerGoodTimeout 4,
      .mirrorPagesWritten 0 4, .sledPowerGood 4] : List Instr).all (fun c => !c.wf) = true := by decide

theorem test_wf_refuses_queue_or_channel :
    ([
      .sqTail false 0 64 0, .cqHead false 0 64 0, .resume false 0 64, .cancelAll false 0 64, .cancelTag false 0 64 0,
      .eraseBlockFail 64 false, .scanBlockRead 0 64 false none, .planeEngineFail 64 false,
      .flashChannelUnresponsive 64, .planeEngineWakeDone 64] : List Instr).all (fun c => !c.wf) = true := by decide

theorem test_wf_refuses_endpoint :
    ([
      .rdShared 0 0 9, .rdOwn 0 0 9, .rdCur 0 0 9, .wrFull 0 0 9 0, .wb 0 0 9 0, .evictClean 0 0 9, .rspI 0 0 9,
      .rspS 0 0 9, .rspFwd 0 0 9, .rspGone 0 0 9, .rspData 0 0 9 0, .cmpAck 0 0 9, .engRd 0 0 9,
      .engRdata 0 0 9 [] false, .engWr 0 0 9 [], .engAck 0 0 9, .engErr 0 0 9, .engOpx 0 0 9 ⟨[], false⟩] : List Instr).all (fun c => !c.wf) = true := by decide

theorem test_wf_refuses_array_or_scribe :
    ([
      .arrayGrant 32, .passEnd 32, .arrayFence 32, .scribeGrant 32, .scrStart false 32 0, .scrFinish false 32 0,
      .scrAbort false 32 0, .scrData8 false 32 0, .scrData16 false 32 0, .scrData32 false 32 0,
      .scrValWrite false 32 0, .scrCntWrite false 32 0, .scrCfgWrite false 32 0, .scrFoldWrite false 32 0,
      .scrExpWrite false 32 0, .scrStatClear false 32 0, .plumbCompare 0 32 0 [], .plumbCompare 0 0 32 [],
      .arrayPowerGate 32, .arrayWakeDone 32] : List Instr).all (fun c => !c.wf) = true := by decide

theorem test_wf_refuses_port :
    ([
      .timeReq 12 0, .timeRsp 12 0 0, .portEnable 12 0, .detectPoll 12 false, .portTrainingStageDone 12,
      .trainingLimitExpire 12, .param 12 0 0, .hello 12 [], .encap 12 [], .linkFinish 12 [], .seedxfer 12 0 [],
      .flitReceive 12 0 [] 0 false false false false, .nakResendTimer 12, .retrainDone 12, .retrainTimeout 12,
      .rekeyInterval 12, .heartbeatSend 12, .heartbeat 12 0, .heartbeatWindowEnd 12, .flitTransmit 12] : List Instr).all (fun c => !c.wf) = true := by decide

theorem test_wf_refuses_fence_kind :
    ([
      .fence 2 0 0 0] : List Instr).all (fun c => !c.wf) = true := by decide

theorem test_wf_refuses_rail :
    ([
      .railFault 6, .railWithinTolerance 6] : List Instr).all (fun c => !c.wf) = true := by decide

theorem test_wf_refuses_function :
    ([
      .vfFunctionReset 513, .vfEnableClear false 513, .busMasterEnableClear 513, .busMasterEnableSet 513,
      .msixUnmask 513 none, .registerWrite 513 0 0 8 0, .registerRead 513 0 0 8, .d3hotTransition 513 false] : List Instr).all (fun c => !c.wf) = true := by decide

theorem test_wf_refuses_bar :
    ([
      .registerWrite 0 1 0 8 0, .registerRead 0 1 0 8] : List Instr).all (fun c => !c.wf) = true := by decide

theorem test_wf_refuses_size :
    ([
      .registerWrite 0 0 0 0 0, .registerRead 0 0 0 0] : List Instr).all (fun c => !c.wf) = true := by decide

/-! ## The spec's own figures -/

/-- Example STO-1: home, tier and pseudo-channel of a near line, at the default granule. -/
theorem test_example_sto1 : saChip 0x314001234567A40 = 197 ∧ saTier 0x314001234567A40 = 0 ∧
    nearPc (saOff 0x314001234567A40) 8 false = 222 := by decide +kernel

/-- Example TIR-1: extent, block and channel of a far line. -/
theorem test_example_tir1 : saChip 0x31500004A2C3040 = 197 ∧ saTier 0x31500004A2C3040 = 1 ∧ saExt 0x31500004A2C3040 = 1 ∧
    saBlk 0x31500004A2C3040 % 2 ^ 18 = 41667 ∧ chOf (saBlk 0x31500004A2C3040) = 3 := by decide +kernel

/-- Example NMO-1: the CRC-32C of the nine bytes of "123456789". -/
theorem test_example_nmo1 :
    crcEnd (polyOf 0) (crcFeed (polyOf 0) (crcStart (polyOf 0) none) [0x31, 0x32, 0x33, 0x34, 0x35, 0x36, 0x37, 0x38, 0x39])
      = 0xE3069283 := by decide +kernel

/-- Example REG-1: three offsets. -/
theorem test_example_reg1 : regOff .LNK_ERRFLIT 7 = 0x1000720 ∧ regOff .TEN_QUOTA_STG 37 = 0x1725170 ∧
    bar0Off 38 0x170 = 0x1725170 ∧ regOff .RED_FENCED 0 = 0x1203000 := by decide +kernel

/-- Example CNT-1: record 39,990 lies at word 424 of page 112. -/
theorem test_example_cnt1 : (39990 - 1) % 16384 = 64 * 112 + 53 ∧ regOff .LDG_WIN 424 = 0x1601D40 := by decide +kernel

/-- Example EMB-1: owners and shard positions by RANGE and by HASH. -/
theorem test_example_emb1 : ownerOfRow 0 10000000 4 0 7345678 = (2, 2345678) ∧ ownerOfRow 1 10000000 4 0 14 = (1, 3) := by
  decide +kernel

/-- The registers' numbers follow the order of the register tables. -/
theorem test_reg_codes : (allRegs.zipIdx.all fun x => x.1.code == x.2) = true := by decide +kernel

end Sys2Proof.Tests
end

section
/-! Proofs about the store address space: an answer confined to the parts that the command changed, and the extent records
of a retiring extent (R34). -/
namespace Sys2Proof.Machine

/-! ## Confined answers -/

/-- The queue of waiting commands and the parts make up the whole state. -/
theorem eq_of_samePart {s t : State} (hp : t.pending = s.pending) (h : ∀ p, samePart p s t) : t = s := by
  cases s
  cases t
  rw [State.mk.injEq]
  exact ⟨hp, h .regs, h .obs, h .txq, h .store, h .home, h .xlt, h .que, h .eng, h .arr, h .kv, h .nmo, h .emb, h .vsc,
    h .tim, h .lnk, h .sec, h .red, h .pwr, h .hst, h .fresh⟩

theorem samePart_trans {p : Part} {s t u : State} (h : samePart p s t) (h' : samePart p t u) : samePart p s u := by
  cases p <;> exact Eq.trans h' h

theorem samePart_symm {p : Part} {s t : State} (h : samePart p s t) : samePart p t s := by
  cases p <;> exact Eq.symm h

/-- Confinement takes nothing away from a command that changed no part outside `ps`. -/
theorem confine_eq_self {ps : List Part} {s t : State} (hp : t.pending = s.pending) (h : ∀ p, p ∉ ps → samePart p s t) :
    confine ps s t = t := by
  refine eq_of_samePart hp.symm fun p => ?_
  by_cases hm : p ∈ ps
  · exact samePart_confine_of_mem s t hm
  · exact samePart_trans (samePart_symm (h p hm)) (samePart_confine s t hm)

/-- Logging changes the observations alone (log entry 6). -/
theorem samePart_ledger {p : Part} (h : p ≠ .obs) (s : State) (code sev : Nat) (ten : Option Nat) (args : List Nat) :
    samePart p s (ledger s code sev ten args) := by
  cases p with
  | obs => exact absurd rfl h
  | _ => simp [samePart]

/-- A ledger record passes through every confinement that reaches the observations. -/
theorem confine_recordRefused {ps : List Part} (ho : Part.obs ∈ ps) (s : State) (off : Nat) :
    confine ps s (recordRefused s off) = recordRefused s off :=
  confine_eq_self (ledger_pending ..) fun _ hp => samePart_ledger (ne_of_mem_of_not_mem ho hp).symm ..

/-! ## Writes of a retiring record (R34) -/

section
variable {s : State} {t e : Nat} (hpop : populated s t e = true) (hret : bget (extRec s t e) EXT.STATE = exRetiring)
include hpop hret

theorem extHighWrite_of_retiring (v : W64) : extHighWrite s t e v = recordRefused s (extOff t e + 8) := by
  simp [extHighWrite, hpop, hret]

theorem extLowWrite_of_retiring (v : W64) : extLowWrite s t e v = recordRefused s (extOff t e) := by
  simp [extLowWrite, hpop, hret]

end

/-- A command that only logs a record answers the state with that record. -/
theorem answer_recordRefused {ps : List Part} (ho : Part.obs ∈ ps) {s : State} (hl : live s = true) {f : State → State}
    {off : Nat} (hf : f s = recordRefused s off) : answer ps s (whenLive s f) = .next (recordRefused s off) := by
  rw [answer, whenLive_of_live hl, hf, confine_recordRefused ho]

/-- Settles O14: both halves' writes find STATE at RETIRING before they look at VALID or at the value written. -/
theorem retiringRecordIgnoresWrites : Obligations.RetiringRecordIgnoresWrites := by
  intro far e v s hlive hpop hret
  refine ⟨?high, ?apply, ?clear⟩
  case high => exact answer_recordRefused (by decide) hlive (extHighWrite_of_retiring hpop hret v)
  case apply => exact answer_recordRefused (by decide) hlive (extLowWrite_of_retiring hpop hret _)
  case clear => exact answer_recordRefused (by decide) hlive (extLowWrite_of_retiring hpop hret _)

end Sys2Proof.Machine
end

section
/-! Proofs about the host port: commands that change the observations alone, MSI-X messages that may and may not signal
(R571), register accesses through BAR0 (R565) and the reset register (R578). -/
namespace Sys2Proof.Machine

/-! ## Commands that change the observations alone -/

/-- `t` is `s` but for its outputs, event registers, functions, counters and ledger (log entry 6). -/
def ObsAlone (s t : State) : Prop := { s with obs := t.obs } = t

theorem ObsAlone.trans {s t u : State} (h : ObsAlone s t) (h' : ObsAlone t u) : ObsAlone s u := by
  unfold ObsAlone at h h'
  rw [← h', ← h]
  rfl

theorem obsAlone_refl (s : State) : ObsAlone s s := rfl
theorem obsAlone_emit (s : State) (o : Out) : ObsAlone s (emit s o) := rfl
theorem obsAlone_setFn (s : State) (n : Nat) (f : Fn) : ObsAlone s (setFn s n f) := rfl

theorem obsAlone_setEvt (s : State) {f : Fld} (h : isEvtReg f.reg = true) : ObsAlone s (setEvt s f) := by
  unfold ObsAlone
  refine eq_of_samePart (setEvt_pending s f).symm fun p => ?_
  cases p with
  | obs => rfl
  | regs => exact (setEvt_regs s f h).symm
  | _ => simp [samePart]

theorem obsAlone_dropLatch (s : State) (fn b : Nat) : ObsAlone s (dropLatch s fn b) := by
  unfold dropLatch
  split
  · split
    · exact obsAlone_refl s
    · exact obsAlone_setFn ..
  · exact obsAlone_refl s

theorem ObsAlone.samePart {s t : State} (h : ObsAlone s t) {p : Part} (hp : p ≠ .obs) : samePart p s t := by
  unfold ObsAlone at h
  rw [← h]
  cases p with
  | obs => exact absurd rfl hp
  | _ => rfl

/-- Every confinement that reaches the observations keeps what such a command does. -/
theorem ObsAlone.answer_eq {ps : List Part} (ho : Part.obs ∈ ps) {s t : State} (h : ObsAlone s t) :
    answer ps s t = .next t := by
  refine congrArg Host.Outcome.next (confine_eq_self ?_ fun p hp => h.samePart (ne_of_mem_of_not_mem ho hp).symm)
  unfold ObsAlone at h
  rw [← h]

/-- A command that reaches every part answers the state it makes. -/
theorem answer_allParts {s t : State} (hp : t.pending = s.pending) : answer allParts s t = .next t :=
  congrArg Host.Outcome.next (confine_eq_self hp fun p hn => absurd (by cases p <;> decide) hn)

/-! ## MSI-X messages (R571) -/

@[simp] theorem fnOf_setFn_same (s : State) (n : Nat) (f : Fn) : fnOf (setFn s n f) n = f := by simp [fnOf, setFn]

theorem whenHost_of_stage {s : State} (hs : s.pwr.sill = true) (h2 : 2 ≤ stage s) (f : State → State) :
    whenHost s f = f s := by
  unfold stage at h2
  simp [whenHost, hs, h2]

/-- MSI-X Enable and the Function Mask of function `n` let it signal, and so do its vector's mask bit and the port. -/
theorem msix_of_signals {s : State} {n v : Nat} (off : Nat) (hv : v < if n = 0 then 2048 else 128)
    (hen : (fnOf s n).msixEn = true) (hfm : (fnOf s n).fmask = false) (hun : v ∈ (fnOf s n).unmasked)
    (hci : canIssue s n = true) : msix s n v off = emit s (.msix n v) := by
  simp [msix, Nat.not_le.mpr hv, hen, hfm, hun, hci]

/-- A message that a mask or MSI-X Enable holds back only sets its pending bit. -/
theorem msix_of_masked {s : State} {n v : Nat} (off : Nat) (hv : v < if n = 0 then 2048 else 128)
    (hm : (fnOf s n).msixEn = false ∨ (fnOf s n).fmask = true ∨ v ∉ (fnOf s n).unmasked) :
    msix s n v off = setFn s n { fnOf s n with pend := insRising (fnOf s n).pend v } := by
  unfold msix
  rw [if_neg (Nat.not_le.mpr hv)]
  refine if_neg ?_
  rcases hm with h | h | h <;> simp [h]

/-- Outputs put out one after the other are appended in their order. -/
theorem foldl_emit {β : Type} (f : β → Out) (l : List β) (s : State) :
    l.foldl (fun s x => emit s (f x)) s = { s with obs := { s.obs with out := s.obs.out ++ l.map f } } := by
  induction l generalizing s with
  | nil => simp
  | cons x l ih => rw [List.foldl_cons, ih, List.map_cons, ← List.singleton_append, ← List.append_assoc]; rfl

theorem canIssue_setFn_same (s : State) (n : Nat) (f : Fn) : canIssue (setFn s n f) n = (f.bme && !f.d3hot && ideOk s) := by
  rw [canIssue, fnOf_setFn_same]
  rfl

/-- Function `n`, holding `f`, sends the pending messages of its unmasked vectors and takes their pending bits away. -/
theorem msixFlush_setFn {s : State} {n : Nat} {f : Fn} (hen : f.msixEn = true) (hfm : f.fmask = false)
    (hci : canIssue (setFn s n f) n = true) :
    ∃ t, msixFlush (setFn s n f) n = t ∧ ObsAlone s t ∧ t.obs.evt = s.obs.evt
      ∧ (fnOf t n).pend = f.pend.filter (fun v => !f.unmasked.contains v)
      ∧ t.obs.out = s.obs.out ++ (f.pend.filter f.unmasked.contains).map (.msix n) := by
  unfold msixFlush
  dsimp only
  rw [fnOf_setFn_same, if_pos (by simp [hen, hfm, hci]), foldl_emit]
  refine ⟨_, rfl, rfl, rfl, ?_, rfl⟩
  exact congrArg Fn.pend (fnOf_setFn_same (setFn s n f) n _)

/-- MSIX_UNMASK of a pending vector. -/
theorem execMsixUnmask_of_pending {s : State} {n v : Nat} (hs : s.pwr.sill = true) (h2 : 2 ≤ stage s)
    (hx : fnExists s n = true) (hv : v < if n = 0 then 2048 else 128) (hen : (fnOf s n).msixEn = true)
    (hfm : (fnOf s n).fmask = false) (hci : canIssue s n = true) (hp : v ∈ (fnOf s n).pend) :
    ∃ t, execMsixUnmask n (some v) s = .next t ∧ .msix n v ∈ t.obs.out ∧ v ∉ (fnOf t n).pend ∧ t.obs.evt = s.obs.evt := by
  have hun : v ∈ insRising (fnOf s n).unmasked v := mem_insRising.mpr (.inl rfl)
  have hcan : canIssue (setFn s n { fnOf s n with unmasked := insRising (fnOf s n).unmasked v }) n = true := by
    rw [canIssue_setFn_same]
    exact hci
  obtain ⟨t, hflush, halone, hevt, hpend, hout⟩ := msixFlush_setFn
    (f := { fnOf s n with unmasked := insRising (fnOf s n).unmasked v }) hen hfm hcan
  refine ⟨t, ?_, ?_, ?_, hevt⟩
  · unfold execMsixUnmask
    rw [whenHost_of_stage hs h2]
    simp only [hx, hv, hflush, Bool.not_true, Bool.false_eq_true, if_false, if_true]
    exact halone.answer_eq (by decide)
  · rw [hout]
    simp [hp, hun]
  · rw [hpend]
    simp [hun]

/-- Settles O11: a message in reach of the function's vectors is either sent or made pending, and unmasking flushes the
pending ones. -/
theorem maskedMessagesPend : Obligations.MaskedMessagesPend := by
  refine ⟨?pends, ?unmask, ?sends⟩
  case pends =>
    intro s n v off hv hm
    rw [msix_of_masked off hv hm, fnOf_setFn_same]
    exact ⟨mem_insRising.mpr (.inl rfl), rfl, rfl, rfl⟩
  case unmask =>
    intro s n v hs h2 hx hv hen hfm hci hp
    exact execMsixUnmask_of_pending hs h2 hx hv hen hfm hci hp
  case sends =>
    intro s n v off hv hen hfm hun hci
    exact msix_of_signals off hv hen hfm hun hci

/-! ## Accesses to BAR0 (R565) -/

/-- A read that its function serves, under the IDE rule (R575), is one of BAR0. -/
theorem execRegisterRead_bar0 {s : State} {fn off : Nat} (size : Nat) (hf : fnServes s fn = true) (hi : ideOk s = true)
    (hb : inBar0 fn off = true) : execRegisterRead fn 0 off size s =
      answer [.regs, .obs] s (emit (bar0Read s fn off size).2 (.readData fn (bar0Read s fn off size).1)) := by
  simp [execRegisterRead, hf, hi, hb]

theorem execRegisterWrite_bar0 {s : State} {fn off : Nat} (size : Nat) (v : Line) (hf : fnServes s fn = true)
    (hi : ideOk s = true) (hb : inBar0 fn off = true) :
    execRegisterWrite fn 0 off size v s = answer allParts s (bar0Write s fn off size (v.setWidth 64)) := by
  simp [execRegisterWrite, hf, hi, hb]

theorem accessOk_eq_true_iff (off size : Nat) :
    accessOk off size = true ↔ size = 8 ∧ off % 8 = 0 ∨ size = 4 ∧ off % 4 = 0 := by
  simp [accessOk]

section
variable {fn off size : Nat} (hna : inAlias fn off = false)
include hna

theorem bar0Read_of_bad (s : State) (hk : accessOk off size = false) : bar0Read s fn off size = (0, badAccess s) := by
  simp [bar0Read, hna, hk]

theorem bar0Write_of_bad (s : State) (v : W64) (hk : accessOk off size = false) :
    bar0Write s fn off size v = badAccess s := by
  simp [bar0Write, hna, hk]

variable (h8 : off % 8 = 0)
include h8

/-- An aligned 8-byte read is one of the whole word. -/
theorem bar0Read_word (s : State) :
    bar0Read s fn off 8 = (bar0Word (dropLatch s fn off) (bar0Off fn off), dropLatch s fn off) := by
  simp [bar0Read, hna, accessOk, h8, Nat.div_mul_cancel (Nat.dvd_of_mod_eq_zero h8)]

theorem bar0Write_word (s : State) (v : W64) :
    bar0Write s fn off 8 v = bar0Put (dropLatch s fn off) fn (bar0Off fn off) v := by
  simp [bar0Write, hna, accessOk, h8, Nat.div_mul_cancel (Nat.dvd_of_mod_eq_zero h8)]

end

theorem bar0Word_of_reserved (s : State) {b : Nat} (h : regAt b = none) : bar0Word s b = 0 := by simp [bar0Word, h]

theorem bar0Put_of_reserved (s : State) (fn : Nat) {b : Nat} (v : W64) (h : regAt b = none) : bar0Put s fn b v = s := by
  simp [bar0Put, h]

/-- A message on one of the function's vectors leaves every register alone: it is sent or made pending. -/
theorem getF_msix {s : State} {n v : Nat} (off : Nat) (hv : v < if n = 0 then 2048 else 128) (g : Fld) (i : Nat) :
    getF (msix s n v off) g i = getF s g i := by
  unfold msix
  rw [if_neg (Nat.not_le.mpr hv)]
  dsimp only
  split <;> rfl

/-- A one-bit event of a register other than PWR_EVT reads 1 once it is raised; VEC names one of the physical function's
2,048 vectors, so that the message reaches no event register. -/
theorem getF_setEvt_same (s : State) {f : Fld} (hp : f.reg ≠ .PWR_EVT) (hw : f.bf.w = 1) (hlo : f.bf.lo + f.bf.w ≤ 64) :
    getF (setEvt s f) f = 1 := by
  unfold setEvt
  dsimp only
  rw [if_neg hp]
  split
  case isTrue hset =>
    have hlt : getF s f < 2 ^ f.bf.w := bget_lt _ _
    have hne : getF s f ≠ 0 := by simpa [tstF] using hset
    rw [hw] at hlt
    omega
  case isFalse =>
    rw [getF_msix _ (bget_lt _ evtVec), getF_setF_same s f 0 1 hlo, hw, pow_one]

/-- Settles O15: the two shapes of access to BAR0 that reach no register. -/
theorem badRegisterAccess : Obligations.BadRegisterAccess := by
  refine ⟨?bad, ?reserved⟩
  case bad =>
    intro fn off size v s hf hi hb hna hsh
    have hk : accessOk off size = false := Bool.eq_false_iff.mpr (mt (accessOk_eq_true_iff off size).mp hsh)
    have halone : ObsAlone s (badAccess s) := obsAlone_setEvt s rfl
    refine ⟨?_, ?_, getF_setEvt_same s (by decide) rfl (by decide)⟩
    · show execRegisterRead fn 0 off size s = _
      rw [execRegisterRead_bar0 size hf hi hb, bar0Read_of_bad hna s hk]
      exact (halone.trans (obsAlone_emit ..)).answer_eq (by decide)
    · show execRegisterWrite fn 0 off size v s = _
      rw [execRegisterWrite_bar0 size v hf hi hb, bar0Write_of_bad hna s _ hk]
      exact halone.answer_eq (by decide)
  case reserved =>
    intro fn off v s hf hi hb hna h8 hnone
    have halone : ObsAlone s (dropLatch s fn off) := obsAlone_dropLatch s fn off
    constructor
    · show execRegisterRead fn 0 off 8 s = _
      rw [execRegisterRead_bar0 8 hf hi hb, bar0Read_word hna h8, bar0Word_of_reserved _ hnone]
      exact (halone.trans (obsAlone_emit ..)).answer_eq (by decide)
    · show execRegisterWrite fn 0 off 8 v s = _
      rw [execRegisterWrite_bar0 8 v hf hi hb, bar0Write_word hna h8, bar0Put_of_reserved _ _ _ hnone]
      exact halone.answer_eq (by decide)

/-! ## The reset register (R578) -/

theorem regAt_glbRst : regAt (regOff .GLB_RST 0) = some (.GLB_RST, 0) := by decide +kernel

theorem mctpAt_glbRst : mctpAt (regOff .GLB_RST 0) = .reg .GLB_RST 0 := by decide +kernel

@[simp] theorem warmReset_pending (s : State) : (warmReset s).pending = s.pending := by
  simp [warmReset, resetRecord, clearRegs, fastClear]

theorem dropLatch_of_none {s : State} {fn : Nat} (b : Nat) (h : (fnOf s fn).wlatch = none) : dropLatch s fn b = s := by
  simp [dropLatch, h]

/-- A warm reset is accepted from the first stage of bring-up on. -/
theorem after_glbRstWarm {s : State} (hs : s.pwr.sill = true) (h1 : 1 ≤ getF s GLB_STAT.STAGE) :
    after s (execGlbRstWarm s) = warmReset s := by
  unfold execGlbRstWarm
  rw [answer_allParts] <;> simp [hs, h1, after]

/-- A write of GLB_RST through PF BAR0 acts by WARM alone, whatever COLD is. -/
theorem bar0Put_glbRst {s : State} (hs : s.pwr.sill = true) (h1 : 1 ≤ getF s GLB_STAT.STAGE) (v : W64) :
    bar0Put s 0 (regOff .GLB_RST 0) v = if btst v GLB_RST.WARM.bf then warmReset s else s := by
  simp [bar0Put, regAt_glbRst, regOpen, writeReg, after_glbRstWarm hs h1]

theorem mctpPut_glbRst_warm {s : State} (hs : s.pwr.sill = true) (h1 : 1 ≤ getF s GLB_STAT.STAGE) {v : W64}
    (hc : btst v GLB_RST.COLD.bf = false) (hw : btst v GLB_RST.WARM.bf = true) :
    mctpPut s .GLB_RST 0 v = warmReset s := by
  simp [mctpPut, hc, hw, after_glbRstWarm hs h1]

/-- Settles O12: WARM starts the same reset by both ways, and the command for COLD acts for MCTP alone. -/
theorem coldResetIsNotReachedThroughBar0 : Obligations.ColdResetIsNotReachedThroughBar0 := by
  refine ⟨?bar0, ?cold, ?mctp⟩
  case bar0 =>
    intro s v hf hi hl
    have hserves := hf
    simp only [fnServes, Bool.and_eq_true, decide_eq_true_eq] at hserves
    obtain ⟨⟨⟨hs, h2⟩, -⟩, -⟩ := hserves
    have h1 : 1 ≤ getF s GLB_STAT.STAGE := Nat.le_of_succ_le h2
    show execRegisterWrite 0 0 (regOff .GLB_RST 0) 8 v s = _
    rw [execRegisterWrite_bar0 8 v hf hi (by decide), bar0Write_word (by decide) (by decide), dropLatch_of_none _ hl]
    show answer allParts s (bar0Put s 0 (regOff .GLB_RST 0) _) = _
    rw [bar0Put_glbRst hs h1]
    split
    · exact answer_allParts (warmReset_pending s)
    · exact answer_allParts rfl
  case cold =>
    intro s
    exact answer_allParts rfl
  case mctp =>
    intro s v hs h1 hc hw
    show execMctpWrite (regOff .GLB_RST 0) v s = _
    have hfast : mctpFast s = true := by simp [mctpFast, hs, h1]
    unfold execMctpWrite
    rw [whenSill_of_sill hs, mctpAt_glbRst]
    simp only [hfast, mctpPut_glbRst_warm hs h1 hc hw, Bool.not_true, Bool.and_false, Bool.false_eq_true, if_false]
    exact answer_allParts (warmReset_pending s)

end Sys2Proof.Machine
end

section
/-! Proofs about the ledger: the register that an offset of BAR0 names (R606) and the window of the selected page (R603). -/
namespace Sys2Proof.Machine

/-! ## The register at an offset (R606) -/

/-- A register holds the words that its stride counts out from its base; without a stride it is one word. -/
theorem placeIdx_eq_some_iff (r : Reg) (off i : Nat) :
    placeIdx r off = some i ↔ off = (regPlace r).base + (regPlace r).stride * i ∧
      if (regPlace r).stride = 0 then i = 0 else i < (regPlace r).count := by
  unfold placeIdx
  generalize regPlace r = p
  obtain ⟨base, stride, count⟩ := p
  dsimp only
  by_cases h0 : stride = 0
  · subst h0
    by_cases hb : off = base <;> simp [hb, eq_comm]
  · simp only [h0, if_false]
    constructor
    · intro hi
      split at hi
      · contradiction
      · split at hi
        case isFalse => contradiction
        case isTrue hle hd =>
          obtain rfl := Option.some.inj hi
          have hmul := Nat.mul_div_cancel' (Nat.dvd_of_mod_eq_zero hd.1)
          exact ⟨by omega, hd.2⟩
    · rintro ⟨rfl, hi⟩
      simp [Nat.mul_div_cancel_left i (Nat.pos_of_ne_zero h0), hi]

/-- An offset below the tenant windows that one register alone holds names that register. -/
theorem regAt_of_placeIdx {r : Reg} {off i : Nat} (hlt : off < (regPlace .TEN_CNT).base) (hm : r ∈ allRegs)
    (hp : placeIdx r off = some i) (ha : ∀ q ∈ allRegs, q ≠ r → placeIdx q off = none) : regAt off = some (r, i) := by
  have hten : tenCntIdx off = none := by simp [tenCntIdx, Nat.not_le.mpr hlt]
  obtain ⟨before, rest, hl, hnot⟩ := List.eq_append_cons_of_mem hm
  rw [regAt, hten]
  refine List.findSome?_eq_some_iff.mpr ⟨before, r, rest, hl, by rw [hp]; rfl, fun q hq => ?_⟩
  rw [ha q (hl ▸ List.mem_append_left _ hq) (ne_of_mem_of_not_mem hq hnot)]
  rfl

/-- No other register holds a word between the first of LDG_WIN and the last. -/
theorem regPlace_apart_ldgWin : ∀ q ∈ allRegs, q ≠ .LDG_WIN →
    (regPlace q).base + (regPlace q).stride * ((regPlace q).count - 1) < 0x1601000 ∨ 0x1602000 ≤ (regPlace q).base := by
  decide +kernel

theorem regOff_ldgWin (w : Nat) : regOff .LDG_WIN w = 0x1601000 + 8 * w := rfl

section
variable {w : Nat} (hw : w < 512)
include hw

theorem regAt_ldgWin : regAt (regOff .LDG_WIN w) = some (.LDG_WIN, w) := by
  rw [regOff_ldgWin]
  refine regAt_of_placeIdx ?_ (by decide) ((placeIdx_eq_some_iff ..).mpr ⟨rfl, hw⟩) fun q hq hne => ?_
  · show 0x1601000 + 8 * w < 0x1700218
    omega
  · rw [Option.eq_none_iff_forall_ne_some]
    intro i hi
    obtain ⟨hoff, hcount⟩ := (placeIdx_eq_some_iff ..).mp hi
    have hlast : (regPlace q).stride * i ≤ (regPlace q).stride * ((regPlace q).count - 1) := by
      split at hcount
      case isTrue hz => simp [hz]
      case isFalse => exact Nat.mul_le_mul_left _ (Nat.le_sub_one_of_lt hcount)
    have hapart := regPlace_apart_ldgWin q hq hne
    omega

theorem mctpAt_ldgWin : mctpAt (regOff .LDG_WIN w) = .reg .LDG_WIN w := by
  have hreg := regAt_ldgWin hw
  rw [regOff_ldgWin] at hreg ⊢
  have h8 : ¬ (0x1601000 + 8 * w) % 8 ≠ 0 := by omega
  have hnonce : ¬ (0x1300100 ≤ 0x1601000 + 8 * w ∧ 0x1601000 + 8 * w ≤ 0x1300118) := by omega
  have htoken : ¬ (0x1301000 ≤ 0x1601000 + 8 * w ∧ 0x1601000 + 8 * w ≤ 0x1301FF8) := by omega
  rw [mctpAt, if_neg h8, if_neg hnonce, if_neg htoken, hreg]
  rfl

/-! ## The window of a page (R603) -/

/-- The window of one of the ring's 256 pages does not wrap round the ring's 16,384 positions. -/
theorem ledgerWord_of_record {s : State} {page : Nat} {r : BitVec 512} (hp : page < 256)
    (hr : mget s.obs.lring (64 * page + w / 8) = some r) : ledgerWord s page w = r.extractLsb' (64 * (w % 8)) 64 := by
  rw [ledgerWord, Nat.mod_eq_of_lt (by omega), hr]

/-- The physical function's BAR0 answers the window with the page in LDG_WINSEL, once the whole chip is open (R583). -/
theorem bar0Word_ldgWin {s : State} (hf : s.pwr.fast = true) (ho : s.hst.only = false) :
    bar0Word s (regOff .LDG_WIN w) = ledgerWord s (getF s LDG_WINSEL.PAGE) w := by
  have hopen : regOpen s .LDG_WIN = true := by simp [regOpen, hf, ho]
  rw [bar0Word, regAt_ldgWin hw]
  exact if_pos hopen

/-- Over MCTP the window answers in every state with sill power, from the page of its own copy of LDG_WINSEL (R617). -/
theorem execMctpRead_ldgWin {s : State} (hs : s.pwr.sill = true) :
    execMctpRead (regOff .LDG_WIN w) s = .next (mctpAnswer s 0 (some (ledgerWord s s.hst.mctpPage w))) := by
  rw [execMctpRead, whenSill_of_sill hs, mctpAt_ldgWin hw]
  exact (obsAlone_emit ..).answer_eq (by decide)

end

/-- Settles O13: both ways reach word w of LDG_WIN, each with the page that it selected itself, and a selected page lies
within the ring. -/
theorem ledgerWindowShowsThePage : Obligations.LedgerWindowShowsThePage := by
  refine ⟨?bar0, ?mctp⟩
  case bar0 =>
    intro s w r hw hf hi hfast honly hl hr
    have hpage : getF s LDG_WINSEL.PAGE < 256 := bget_lt _ _
    have hoff := regOff_ldgWin w
    have hin : inBar0 0 (regOff .LDG_WIN w) = true := decide_eq_true (by rw [if_pos rfl]; omega)
    have hna : inAlias 0 (regOff .LDG_WIN w) = false := decide_eq_false (by omega)
    have hword : bar0Word s (bar0Off 0 (regOff .LDG_WIN w)) = r.extractLsb' (64 * (w % 8)) 64 :=
      (bar0Word_ldgWin hw hfast honly).trans (ledgerWord_of_record hw hpage hr)
    show execRegisterRead 0 0 (regOff .LDG_WIN w) 8 s = _
    rw [execRegisterRead_bar0 8 hf hi hin, bar0Read_word hna (by omega), dropLatch_of_none _ hl, hword]
    exact (obsAlone_emit ..).answer_eq (by decide)
  case mctp =>
    intro s w r hw hs hpage hr
    show execMctpRead (regOff .LDG_WIN w) s = _
    rw [execMctpRead_ldgWin hw hs, ledgerWord_of_record hw hpage hr]

end Sys2Proof.Machine
end

section
/-! Proofs about the access codes (Table REG-2): what a write makes of a field, of the register's other bits and of every
other register. -/
namespace Sys2Proof.Machine

/-! ## The field maps -/

theorem mem_allRegs (r : Reg) : r ∈ allRegs := by
  cases r <;> decide

theorem reg_of_mem_fieldsOf {r : Reg} {f : Fld} (hf : f ∈ fieldsOf r) : f.reg = r := by
  have hall : ∀ r ∈ allRegs, ∀ f ∈ fieldsOf r, f.reg = r := by decide +kernel
  exact hall r (mem_allRegs r) f hf

theorem width_pos_of_mem_fieldsOf {r : Reg} {f : Fld} (hf : f ∈ fieldsOf r) : 0 < f.bf.w := by
  have hall : ∀ r ∈ allRegs, ∀ f ∈ fieldsOf r, 0 < f.bf.w := by decide +kernel
  exact hall r (mem_allRegs r) f hf

theorem end_le_of_mem_fieldsOf {r : Reg} {f : Fld} (hf : f ∈ fieldsOf r) : f.bf.lo + f.bf.w ≤ 64 := by
  have hall : ∀ r ∈ allRegs, ∀ f ∈ fieldsOf r, f.bf.lo + f.bf.w ≤ 64 := by decide +kernel
  exact hall r (mem_allRegs r) f hf

/-- Two fields share no bit. -/
abbrev BF.Apart (f g : BF) : Prop := f.lo + f.w ≤ g.lo ∨ g.lo + g.w ≤ f.lo

theorem fieldsOf_pairwise_apart (r : Reg) : (fieldsOf r).Pairwise fun f g => f.bf.Apart g.bf := by
  have hall : ∀ r ∈ allRegs, (fieldsOf r).Pairwise fun f g => f.bf.Apart g.bf := by decide +kernel
  exact hall r (mem_allRegs r)

/-! ## The write of one field -/

/-- What a field that holds `old` holds after a write of `new` (Table REG-2). -/
def Acc.written (locked : Bool) (old new : Nat) : Acc → Nat
  | .ro | .wo => old
  | .rw | .rws => new
  | .w1c => if new = 0 then old else 0
  | .w1s => if new = 0 then old else 1
  | .rwl => if locked then old else new

section
variable (locked : Bool) (v x : W64) {f : Fld}

theorem bget_writeFld_same (h0 : 0 < f.bf.w) (h : f.bf.lo + f.bf.w ≤ 64) :
    bget (writeFld locked v x f) f.bf = f.acc.written locked (bget x f.bf) (bget v f.bf) := by
  have hset : ∀ n < 2 ^ f.bf.w, bget (bset x f.bf n) f.bf = n := fun n hn =>
    (bget_bset_same x f.bf n h).trans (Nat.mod_eq_of_lt hn)
  have hnew := hset _ (bget_lt v f.bf)
  have hzero := hset 0 (Nat.two_pow_pos _)
  have hone := hset 1 (Nat.one_lt_two_pow h0.ne')
  unfold writeFld
  cases f.acc with
  | ro | wo => rfl
  | rw | rws => exact hnew
  | w1c => by_cases hv : bget v f.bf = 0 <;> simp [Acc.written, btst, hv, hzero]
  | w1s => by_cases hv : bget v f.bf = 0 <;> simp [Acc.written, btst, hv, hone]
  | rwl => cases locked <;> simp [Acc.written, hnew]

/-- Whatever its access code, a field's write stores nothing or sets that field. -/
theorem writeFld_eq_self_or_bset (f : Fld) :
    writeFld locked v x f = x ∨ ∃ n, writeFld locked v x f = bset x f.bf n := by
  unfold writeFld
  cases f.acc with
  | ro | wo => exact .inl rfl
  | rw | rws => exact .inr ⟨_, rfl⟩
  | w1c | w1s =>
    cases btst v f.bf
    case false => exact .inl rfl
    case true => exact .inr ⟨_, rfl⟩
  | rwl =>
    cases locked
    case false => exact .inr ⟨_, rfl⟩
    case true => exact .inl rfl

theorem getLsbD_writeFld_outside {k : Nat} (h : f.bf.lo + f.bf.w ≤ 64) (hk : k < f.bf.lo ∨ f.bf.lo + f.bf.w ≤ k) :
    (writeFld locked v x f).getLsbD k = x.getLsbD k := by
  obtain he | ⟨n, he⟩ := writeFld_eq_self_or_bset locked v x f <;> rw [he]
  rw [getLsbD_bset x f.bf n k h, if_neg (by omega)]

end

/-! ## The write of a register -/

/-- A field's number is a matter of its own bits. -/
theorem bget_congr {n : Nat} {x y : BitVec n} {f : BF}
    (h : ∀ k, f.lo ≤ k → k < f.lo + f.w → x.getLsbD k = y.getLsbD k) : bget x f = bget y f := by
  unfold bget
  congr 1
  apply BitVec.eq_of_getLsbD_eq
  intro i hi
  rw [BitVec.getLsbD_extractLsb', BitVec.getLsbD_extractLsb', h (f.lo + i) (by omega) (by omega)]

section
variable (locked : Bool) (v : W64) {fs : List Fld} (hfs : ∀ f ∈ fs, f.bf.lo + f.bf.w ≤ 64)
include hfs

theorem getLsbD_foldl_writeFld_outside (x : W64) {k : Nat} (hk : ∀ f ∈ fs, k < f.bf.lo ∨ f.bf.lo + f.bf.w ≤ k) :
    (fs.foldl (writeFld locked v) x).getLsbD k = x.getLsbD k := by
  refine List.foldlRecOn fs (motive := fun y : W64 => y.getLsbD k = x.getLsbD k) _ rfl fun y hy f hf => ?_
  rw [getLsbD_writeFld_outside locked v y (hfs f hf) (hk f hf), hy]

theorem bget_foldl_writeFld_apart (x : W64) {f : BF} (ha : ∀ g ∈ fs, f.Apart g.bf) :
    bget (fs.foldl (writeFld locked v) x) f = bget x f :=
  bget_congr fun k hlo hhi => getLsbD_foldl_writeFld_outside locked v hfs x fun g hg => by
    have := ha g hg
    omega

/-- Of fields that share no bit, each ends as its own access code makes it: the writes before it and behind it do not reach
its bits. -/
theorem bget_foldl_writeFld_mem (x : W64) {f : Fld} (hf : f ∈ fs) (h0 : 0 < f.bf.w)
    (hp : fs.Pairwise fun f g => f.bf.Apart g.bf) :
    bget (fs.foldl (writeFld locked v) x) f.bf = f.acc.written locked (bget x f.bf) (bget v f.bf) := by
  obtain ⟨before, behind, rfl⟩ := List.append_of_mem hf
  obtain ⟨-, hcons, hbefore⟩ := List.pairwise_append.mp hp
  have hbehind := (List.pairwise_cons.mp hcons).1
  rw [List.foldl_append, List.foldl_cons,
    bget_foldl_writeFld_apart locked v (fun g hg => hfs g (by simp [hg])) _ hbehind,
    bget_writeFld_same locked v _ h0 (hfs f hf),
    bget_foldl_writeFld_apart locked v (fun g hg => hfs g (by simp [hg])) _ fun g hg => (hbefore g hg f (by simp)).symm]

end

/-- Driving ALERT# leaves every register as it is. -/
theorem regGet_alertEdge (s t : State) (r : Reg) (i : Nat) : regGet (alertEdge s t) r i = regGet t r i := by
  unfold alertEdge
  split <;> rfl

theorem regGet_plainWrite (s : State) (r q : Reg) (i j : Nat) (v : W64) :
    regGet (plainWrite s r i v) q j =
      regGet (regSet s r i ((fieldsOf r).foldl (writeFld (isSealed s) v) (regGet s r i))) q j := by
  unfold plainWrite
  dsimp only
  split
  · exact regGet_alertEdge ..
  · rfl

theorem regGet_plainWrite_same (s : State) (r : Reg) (i : Nat) (v : W64) :
    regGet (plainWrite s r i v) r i = (fieldsOf r).foldl (writeFld (isSealed s) v) (regGet s r i) := by
  rw [regGet_plainWrite, regGet_regSet_same]

theorem regGet_plainWrite_ne (s : State) {r q : Reg} {i j : Nat} (v : W64) (hi : i < 65536) (hj : j < 65536) (h : q ≠ r) :
    regGet (plainWrite s r i v) q j = regGet s q j := by
  rw [regGet_plainWrite, regGet_regSet_ne s _ hi hj (.inl h)]

theorem getF_plainWrite (s : State) {r : Reg} (i : Nat) (v : W64) {f : Fld} (hf : f ∈ fieldsOf r) :
    getF (plainWrite s r i v) f i = f.acc.written (isSealed s) (getF s f i) (bget v f.bf) := by
  obtain rfl := reg_of_mem_fieldsOf hf
  unfold getF
  rw [regGet_plainWrite_same]
  exact bget_foldl_writeFld_mem _ v (fun g hg => end_le_of_mem_fieldsOf hg) _ hf (width_pos_of_mem_fieldsOf hf)
    (fieldsOf_pairwise_apart _)

/-- SEALED is one bit. -/
theorem isSealed_eq_true_iff (s : State) : isSealed s = true ↔ getF s SEC_BOOT.SEALED = 1 := by
  have hlt : getF s SEC_BOOT.SEALED < 2 := bget_lt _ SEC_BOOT.SEALED.bf
  simp only [isSealed, tstF, bne_iff_ne]
  omega

/-- Settles O9: a register's fields share no bit, so that the write of each is undone by none of the others, and what no
field holds is written by none. -/
theorem accessCodesOfEveryField : Obligations.AccessCodesOfEveryField := by
  refine ⟨?fields, fun s r q i j v hi hj h => regGet_plainWrite_ne s v hi hj h, ?reserved, fieldsOf_pairwise_apart⟩
  case fields =>
    intro s r i v f hf
    rw [getF_plainWrite s i v hf]
    cases f.acc with
    | ro | wo | rw | rws => rfl
    | w1c | w1s => by_cases hv : bget v f.bf = 0 <;> simp [Acc.written, btst, hv]
    | rwl => simp only [Acc.written, isSealed_eq_true_iff]
  case reserved =>
    intro s r i k v hk
    rw [regGet_plainWrite_same]
    exact getLsbD_foldl_writeFld_outside _ v (fun f hf => end_le_of_mem_fieldsOf hf) _ hk

end Sys2Proof.Machine
end

section
/-! Proofs about every command: it answers a next state that is confined to the parts that it reaches, and a step runs the
command at the front of the queue. -/
namespace Sys2Proof.Machine

/-! ## What a command answers -/

/-- Every command answers a next state: through `confine`, in the parts that `touches` lists for it. -/
theorem exec_confined (c : Instr) (s : State) : ∃ u, exec c s = .next (confine (touches c) s u) := by
  cases c <;> exact ⟨_, rfl⟩

/-- Settles O1: `step` takes the queue apart and hands the rest to the command. -/
theorem stepRunsFrontCommand : Obligations.StepRunsFrontCommand := by
  intro c q s hq
  rw [step, hq]

/-- Settles O3: a command answers through `confine`, and a step is either a command or one fclk. -/
theorem everyStepGoesOn : Obligations.EveryStepGoesOn := by
  have hexec : ∀ (c : Instr) (s : State), ∃ t, exec c s = .next t := fun c s => (exec_confined c s).imp' _ fun _ => id
  refine ⟨hexec, fun s => ?_⟩
  unfold step
  split
  · exact ⟨_, rfl⟩
  · exact hexec ..

/-- Settles O4: what `confine` leaves of the state before the command. -/
theorem commandsKeepWhatTheyDoNotReach : Obligations.CommandsKeepWhatTheyDoNotReach := by
  intro c s t hx
  obtain ⟨u, hu⟩ := exec_confined c s
  obtain rfl := Host.Outcome.next.inj (hu.symm.trans hx)
  exact ⟨rfl, fun p hp => samePart_confine s u hp⟩

/-- Confinement to what a state is changes nothing. -/
theorem confine_self (ps : List Part) (s : State) : confine ps s s = s :=
  confine_eq_self rfl fun p _ => by cases p <;> rfl

/-- Settles O2: one fclk reaches the working parts and frame time, and passes in the fast domain alone. -/
theorem idleStepIsOneClock : Obligations.IdleStepIsOneClock := by
  intro s hq
  have hstep : step s = .next (confine (workParts ++ [.tim]) s (tick s)) := by
    rw [step, hq]
    rfl
  refine ⟨hstep, fun hfast => ?_⟩
  have htick : tick s = s := by simp [tick, hfast]
  rw [hstep, htick, confine_self]

end Sys2Proof.Machine
end

section
/-! What the work of the home, of the staging pool and of the layer streams leaves alone: the power part. A write-back command
goes on with that work within the step, and it reaches the power part itself. -/
namespace Sys2Proof.Machine

@[simp] theorem countStatus_pwr (s : State) (n : Nat) (st : Nat) (sub : Nat) :
    (countStatus s n st sub).pwr = s.pwr := by
  unfold countStatus
  dsimp only
  (repeat' split) <;> simp

@[simp] theorem layerDrop_pwr (s : State) (sl : Slot) : (layerDrop s sl).pwr = s.pwr := by
  unfold layerDrop
  split <;> simp

@[simp] theorem nearPut_pwr (s : State) (off : Nat) (e : NearLine) : (nearPut s off e).pwr = s.pwr := rfl

@[simp] theorem cutCopy_pwr (s : State) (g : Nat) : (cutCopy s g).pwr = s.pwr := by
  unfold cutCopy
  dsimp only
  (repeat' split) <;> simp

@[simp] theorem nearWrite_pwr (s : State) (k : Nat) (off : Nat) (d : Line) (poison : Bool) (ds : Nat) :
    (nearWrite s k off d poison ds).pwr = s.pwr := by simp [nearWrite]

@[simp] theorem sysPut_pwr (s : State) (sa : Nat) (d : Line) : (sysPut s sa d).pwr = s.pwr := by simp [sysPut]

@[simp] theorem setLease_pwr (s : State) (i : Nat) (f : BF) (x : Nat) :
    (setLease s i f x).pwr = s.pwr := by simp [setLease]

@[simp] theorem unpin_pwr (s : State) (l : List Nat) :
    (unpin s l).pwr = s.pwr := foldl_keep _ State.pwr (fun s b => by simp) _ _

@[simp] theorem retryTake_pwr (s : State) : (retryTake s).pwr = s.pwr := by
  unfold retryTake
  split <;> simp

@[simp] theorem appendDrop_pwr (s : State) (sl : Slot) : (appendDrop s sl).pwr = s.pwr := by
  unfold appendDrop
  split <;> simp

@[simp] theorem scanDrop_pwr (s : State) (sl : Slot) : (scanDrop s sl).pwr = s.pwr := by
  unfold scanDrop
  split <;> simp

@[simp] theorem embDrop_pwr (s : State) (sl : Slot) : (embDrop s sl).pwr = s.pwr := by
  unfold embDrop
  split <;> simp

@[simp] theorem dropSlot_pwr (s : State) (sl : Slot) : (dropSlot s sl).pwr = s.pwr := by simp [dropSlot]

@[simp] theorem newTag_pwr (s : State) : (newTag s).2.pwr = s.pwr := rfl

@[simp] theorem sendMirror_pwr (s : State) (q : HomeReq) (htx : Option Nat) : (sendMirror s q htx).pwr = s.pwr := by
  unfold sendMirror
  split <;> simp

@[simp] theorem cutHold_pwr (s : State) (q : HomeReq) : (cutHold s q).pwr = s.pwr := by
  unfold cutHold
  split <;> simp

@[simp] theorem cutCopyStg_pwr (s : State) (blk : Nat) (x : Page) : (cutCopyStg s blk x).pwr = s.pwr := by
  unfold cutCopyStg
  dsimp only
  (repeat' split) <;> simp

@[simp] theorem chargeQ_pwr (s : State) (f : Fld) (t : Nat) (up : Bool) :
    (chargeQ s f t up).pwr = s.pwr := by simp [chargeQ]

@[simp] theorem setPage_pwr (s : State) (p : Nat) (g : Page) : (setPage s p g).pwr = s.pwr := rfl

theorem with_store_pwr (s : State) (m : Store) : { s with store := m }.pwr = s.pwr := rfl

@[simp] theorem poolNote_pwr (s : State) : (poolNote s).pwr = s.pwr := with_store_pwr s _

/-- A page taken from the pool leaves the power part alone. -/
theorem allocPage_pwr {s t : State} {blk : Nat} {r : BitVec 128} {st hint p : Nat} {m : Bool} {g : Page}
    (h : allocPage s blk r st hint m = some (p, g, t)) : t.pwr = s.pwr := by
  unfold allocPage at h
  extract_lets -underBinder sys ten reserve n used c at h
  have hcharged : ∀ b : Bool, (if b then { s with fresh := s.fresh + 1 }
      else chargeQ { s with fresh := s.fresh + 1 } TEN_QUOTA_STG.USED ten true).pwr = s.pwr := by simp
  clear_value sys ten reserve n used c
  split at h
  · cases h
  split at h
  · cases h
  split at h
  · cases h
  · cases h
    simp [hcharged]

@[simp] theorem needFill_pwr (s : State) (req : HomeReq) (blk : Nat) : (needFill s req blk).2.pwr = s.pwr := by
  unfold needFill
  extract_lets -underBinder dead
  repeat' split
  case h_1 h => exact (setPage_pwr _ _ _).trans (allocPage_pwr h)
  all_goals simp

@[simp] theorem lineWrite_pwr (s : State) (req : HomeReq) (sa : Nat) : (lineWrite s req sa).2.pwr = s.pwr := by
  have hfill : ∀ {r : LineRd} {t : State} {b : Nat}, needFill s req b = (r, t) → t.pwr = s.pwr := fun h => by
    rw [← needFill_pwr s req, h]
  unfold lineWrite
  extract_lets -underBinder byCore off k blk n land
  have hland : ∀ (u : State) (p : Nat) (g : Page), (land u p g).2.pwr = u.pwr := fun u p g => by simp [land]
  clear_value byCore off k blk n land
  split
  · simp [apply_ite Prod.snd, apply_ite State.pwr]
  split
  · simp
  repeat' split
  any_goals exact hland ..
  any_goals exact hfill ‹_›
  · exact (hland ..).trans (allocPage_pwr ‹_›)
  · rfl

@[simp] theorem ownWrite_pwr (s : State) (sa : Nat) (bs : List Byte) :
    (ownWrite s sa bs).pwr = s.pwr := foldl_keep _ State.pwr (fun s b => by simp) _ _

@[simp] theorem issueRead_pwr (s : State) (r : RemRead) : (issueRead s r).pwr = s.pwr := by
  unfold issueRead
  split <;> simp

@[simp] theorem issueWrite_pwr (s : State) (p : Pend) : (issueWrite s p).pwr = s.pwr := by
  unfold issueWrite
  split <;> simp

@[simp] theorem issue_pwr (s : State) (n : Nat) : (issue s n).pwr = s.pwr := by
  unfold issue
  split
  · simp
  · split <;> simp

@[simp] theorem pump_pwr (s : State) : (pump s).pwr = s.pwr := foldl_keep _ State.pwr (fun s b => by simp) _ _

@[simp] theorem postWrite_pwr (s : State) (ctx : Nat) (sq : Nat) (req : HomeReq) (cpl : Bool) :
    (postWrite s ctx sq req cpl).pwr = s.pwr := by simp [postWrite]

@[simp] theorem saWrite_pwr (s : State) (ctx sq : Nat) (prv : Bool) (ten sa : Nat) (bs : List Byte) (cpl : Bool) :
    (saWrite s ctx sq prv ten sa bs cpl).pwr = s.pwr := by
  unfold saWrite
  split
  · split <;> simp
  · exact foldl_keep _ State.pwr (fun s b => by simp) _ _

@[simp] theorem signalOut_pwr (s : State) (n : Nat) : (signalOut s n).pwr = s.pwr := by
  unfold signalOut
  split <;> simp

@[simp] theorem signalCpl_pwr (s : State) (n : Nat) (irq : Bool) (st : Nat) : (signalCpl s n irq st).pwr = s.pwr := by
  unfold signalCpl
  dsimp only
  (repeat' split) <;> simp

@[simp] theorem setCtx_pwr (s : State) (n : Nat) (v : BitVec 2048) : (setCtx s n v).pwr = s.pwr := rfl

@[simp] theorem setQ_pwr (s : State) (n : Nat) (f : BF) (x : Nat) : (setQ s n f x).pwr = s.pwr := rfl

@[simp] theorem completeOne_pwr (s : State) (sq : Nat) (st : Nat) (sub : Nat) (res : Nat) :
    (completeOne s sq st sub res).pwr = s.pwr := by
  unfold completeOne
  dsimp only
  (repeat' split) <;> simp

@[simp] theorem freePark_pwr (s : State) (p : Nat) : (freePark s p).pwr = s.pwr := rfl

@[simp] theorem parkOut_pwr (s : State) (p : Nat) (sl : Slot) : (parkOut s p sl).pwr = s.pwr := rfl

@[simp] theorem modSlot_pwr (s : State) (sq : Nat) (f : Slot → Slot) : (modSlot s sq f).pwr = s.pwr := rfl

@[simp] theorem waitOut_pwr (s : State) (sl : Slot) : (waitOut s sl).pwr = s.pwr := rfl

@[simp] theorem cancelPass_pwr (s : State) (n sub : Nat) (p : Slot → Bool) : (cancelPass s n sub p).pwr = s.pwr := by
  unfold cancelPass
  refine (foldl_keep _ State.pwr (fun s x => ?_) _ _).trans
    ((foldl_keep _ State.pwr (fun s x => ?_) _ _).trans (foldl_keep _ State.pwr (fun s x => ?_) _ _))
  all_goals (repeat' split) <;> simp

@[simp] theorem haltState_pwr (s : State) (n : Nat) : (haltState s n).pwr = s.pwr := by
  unfold haltState
  split <;> simp

@[simp] theorem haltOn_pwr (s : State) (n : Nat) (st : Nat) (halt : Bool) : (haltOn s n st halt).pwr = s.pwr := by
  unfold haltOn
  split <;> simp

@[simp] theorem complete_pwr (s : State) (sq : Nat) (st : Nat) (sub : Nat) (res : Nat) :
    (complete s sq st sub res).pwr = s.pwr := by
  unfold complete
  split <;> simp

@[simp] theorem appendKeep_pwr (s : State) (sl : Slot) (st : Nat) : (appendKeep s sl st).pwr = s.pwr := by
  unfold appendKeep
  dsimp only
  (repeat' split) <;> simp

@[simp] theorem finish_pwr (s : State) (sq : Nat) (st : Nat) (sub : Nat) (res : Nat) :
    (finish s sq st sub res).pwr = s.pwr := by
  unfold finish
  dsimp only
  (repeat' split) <;> simp

theorem atBoundary_pwr {s : State} (sq : Nat) {go : Slot → State} (h : ∀ sl, (go sl).pwr = s.pwr) :
    (atBoundary s sq go).pwr = s.pwr := by
  unfold atBoundary
  (repeat' split) <;> simp [h]

@[simp] theorem tryFinish_pwr (s : State) (sq : Nat) : (tryFinish s sq).pwr = s.pwr := by
  unfold tryFinish
  split
  · split
    · split <;> simp
    · rfl
  · rfl

@[simp] theorem finishAll_pwr (s : State) :
    (finishAll s).pwr = s.pwr := foldl_keep _ State.pwr (fun s b => by simp) _ _

@[simp] theorem dropPend_pwr (s : State) (tag : Nat) : (dropPend s tag).pwr = s.pwr := by
  unfold dropPend
  dsimp only
  rw [finishAll_pwr, foldl_keep signalOut State.pwr signalOut_pwr]
  exact pump_pwr _

@[simp] theorem lostWrite_pwr (s : State) (p : Pend) (st : Nat) (sub : Nat) : (lostWrite s p st sub).pwr = s.pwr := by
  unfold lostWrite
  dsimp only
  (repeat' split) <;> simp

@[simp] theorem remDone_pwr (s : State) (chip : Nat) (tag : Nat) : (remDone s chip tag).pwr = s.pwr := by
  unfold remDone
  dsimp only
  (repeat' split) <;> simp

@[simp] theorem modExch_pwr (s : State) (n : Nat) (f : Exch → Exch) : (modExch s n f).pwr = s.pwr := rfl

@[simp] theorem toAgent_pwr (s : State) (a opc htx : Nat) (q : HomeReq) (fs : List (BF × Nat)) (data : List Byte) :
    (toAgent s a opc htx q fs data).pwr = s.pwr := rfl

@[simp] theorem failed_pwr (s : State) (q : HomeReq) (st : Nat) (sub : Nat) : (failed s q st sub).pwr = s.pwr := by
  unfold failed
  dsimp only
  (repeat' split) <;> simp

@[simp] theorem staleNote_pwr (s : State) (prv : Bool) (ten : Nat) (sa : Nat) (st : Nat) :
    (staleNote s prv ten sa st).pwr = s.pwr := by
  unfold staleNote
  split <;> simp

@[simp] theorem errTo_pwr (s : State) (q : HomeReq) (htx : Nat) (code : Nat) : (errTo s q htx code).pwr = s.pwr := by
  unfold errTo
  split <;> simp

@[simp] theorem delDir_pwr (s : State) (sa : Nat) : (delDir s sa).pwr = s.pwr := rfl

@[simp] theorem setSlost_pwr (s : State) (sa : Nat) (b : Bool) : (setSlost s sa b).pwr = s.pwr := by
  unfold setSlost
  dsimp only
  (repeat' split) <;> simp

@[simp] theorem writeBack_pwr (s : State) (sa : Nat) (d : Line) (poison : Bool) :
    (writeBack s sa d poison).pwr = s.pwr := by
  unfold writeBack
  dsimp only
  split
  case h_1 u h => rw [sendMirror_pwr, ← lineWrite_pwr s, h]
  case h_2 u _ h => rw [← lineWrite_pwr s, h]

@[simp] theorem spillAtomic_pwr (s : State) (sa : Nat) : (spillAtomic s sa).pwr = s.pwr := by
  unfold spillAtomic
  split <;> simp

@[simp] theorem setDir_pwr (s : State) (sa : Nat) (e : DirEntry) : (setDir s sa e).pwr = s.pwr := rfl

@[simp] theorem setTxn_pwr (s : State) (h : Nat) (t : Txn) : (setTxn s h t).pwr = s.pwr := rfl

@[simp] theorem snoop_pwr (s : State) (h : Nat) (t : Txn) (opc : Nat) (ags : List Nat) (fwd : Option Nat)
    (wbreq : Bool) :
    (snoop s h t opc ags fwd wbreq).1.pwr = s.pwr := by
  unfold snoop
  dsimp only
  rw [setTxn_pwr]
  split
  · rw [bump_pwr]; exact foldl_keep _ State.pwr (fun s a => by simp) _ _
  · exact foldl_keep _ State.pwr (fun s a => by simp) _ _

@[simp] theorem endTxn_pwr (s : State) (h : Nat) (t : Txn) (st : DirSt) (shr : Sharers) :
    (endTxn s h t st shr).pwr = s.pwr := by
  unfold endTxn
  dsimp only
  (repeat' split) <;> simp

@[simp] theorem failTxn_pwr (s : State) (h : Nat) (t : Txn) (st : Nat) (sub : Nat) :
    (failTxn s h t st sub).pwr = s.pwr := by
  unfold failTxn
  dsimp only
  (repeat' split) <;> simp

@[simp] theorem tallyTouch_pwr (s : State) (i : Nat) : (tallyTouch s i).pwr = s.pwr := rfl

@[simp] theorem setTally_pwr (s : State) (i : Nat) (v : BitVec 128) : (setTally s i v).pwr = s.pwr := rfl

@[simp] theorem tallyCount_pwr (s : State) (i n t : Nat) (prv : Bool) (src : Nat) :
    (tallyCount s i n t prv src).pwr = s.pwr := by
  unfold tallyCount
  split
  · rfl
  · split <;> simp

@[simp] theorem tallyAdd_pwr (s : State) (i : Nat) (n : Nat) (t : Nat) (prv : Bool) (src : Nat) :
    (tallyAdd s i n t prv src).pwr = s.pwr := by
  unfold tallyAdd
  split <;> simp

@[simp] theorem performed_pwr (s : State) (q : HomeReq) : (performed s q).pwr = s.pwr := by
  unfold performed
  dsimp only
  (repeat' split) <;> simp

@[simp] theorem countReq_pwr (s : State) (t : Txn) : (countReq s t).pwr = s.pwr := by
  unfold countReq
  split <;> simp

@[simp] theorem writeDone_pwr (s : State) (h : Nat) (t : Txn) : (writeDone s h t).pwr = s.pwr := by
  unfold writeDone
  split <;> simp

@[simp] theorem landTxn_pwr (s : State) (h : Nat) (t : Txn) : (landTxn s h t).pwr = s.pwr := by
  unfold landTxn
  dsimp only
  (repeat' split) <;> simp

@[simp] theorem remGot_pwr (s : State) (chip : Nat) (tag : Nat) (sa : Nat) (d : Line) (poison : Bool) :
    (remGot s chip tag sa d poison).pwr = s.pwr := rfl

@[simp] theorem gotLine_pwr (s : State) (q : HomeReq) (d : Line) (poison : Bool) :
    (gotLine s q d poison).pwr = s.pwr := by
  unfold gotLine
  split <;> simp

@[simp] theorem grantRead_pwr (s : State) (h : Nat) (t : Txn) (d : Line) (poison : Bool) :
    (grantRead s h t d poison).pwr = s.pwr := by
  unfold grantRead
  dsimp only
  (repeat' split) <;> simp

@[simp] theorem lineRead_pwr (s : State) (req : HomeReq) (sa : Nat) : (lineRead s req sa).2.pwr = s.pwr := by
  unfold lineRead
  dsimp only
  (repeat' split) <;> simp

@[simp] theorem access_pwr (s : State) (h : Nat) (t : Txn) : (access s h t).pwr = s.pwr := by
  unfold access
  dsimp only
  (repeat' split) <;> simp

@[simp] theorem alcRoom_pwr (s : State) (sa : Nat) : (alcRoom s sa).pwr = s.pwr := by
  unfold alcRoom
  dsimp only
  split <;> simp

@[simp] theorem afterSnoops_pwr (s : State) (h : Nat) (t : Txn) : (afterSnoops s h t).pwr = s.pwr := by
  unfold afterSnoops
  dsimp only
  (repeat' split) <;> simp

@[simp] theorem whenAnswered_pwr (s : State) (h : Nat) (t : Txn) : (whenAnswered s h t).pwr = s.pwr := by
  unfold whenAnswered
  split <;> simp

@[simp] theorem begin_state_pwr (s : State) (h : Nat) (t : Txn) : (begin_ s h t).pwr = s.pwr := by
  unfold begin_
  dsimp only
  (repeat' split) <;> simp

@[simp] theorem openTxn_pwr (s : State) (q : HomeReq) (t0 : W64) (h : Nat) : (openTxn s q t0 h).pwr = s.pwr := by
  unfold openTxn
  dsimp only
  (repeat' split) <;> simp

@[simp] theorem evictWay_pwr (s : State) (l : Nat) (e : DirEntry) : (evictWay s l e).2.pwr = s.pwr := by
  unfold evictWay
  dsimp only
  (repeat' split) <;> simp

@[simp] theorem startReq_pwr (s : State) (q : HomeReq) (t0 : W64) (queued made : Bool) :
    (startReq s q t0 queued made).2.pwr = s.pwr := by
  unfold startReq
  dsimp only
  (repeat' split) <;> grind [errTo_pwr, setEvt_pwr, ledgerFF_pwr, openTxn_pwr, bump_pwr, evictWay_pwr]

@[simp] theorem enqueue_pwr (s : State) (q : HomeReq) (t0 : W64) (made : Bool) :
    (enqueue s q t0 made).pwr = s.pwr := by
  unfold enqueue
  dsimp only
  split <;> simp

@[simp] theorem homeStart_pwr (s : State) (q : HomeReq) : (homeStart s q).pwr = s.pwr := by
  unfold homeStart
  dsimp only
  (repeat' split) <;> grind [startReq_pwr, enqueue_pwr, setPage_pwr]

@[simp] theorem remoteRead_pwr (s : State) (sq : Nat) (sa : Nat) (off : Nat) (len : Nat) :
    (remoteRead s sq sa off len).pwr = s.pwr := by simp [remoteRead]

@[simp] theorem remoteT2_pwr (s : State) (sq : Nat) (sl : Slot) (sa : Nat) : (remoteT2 s sq sl sa).pwr = s.pwr := by
  unfold remoteT2
  dsimp only
  split
  · simp
  · exact foldl_keep _ State.pwr (fun s u => by simp) _ _

@[simp] theorem setSlot_pwr (s : State) (sq : Nat) (sl : Slot) : (setSlot s sq sl).pwr = s.pwr := rfl

@[simp] theorem askLine_pwr (s : State) (sq : Nat) (l : Nat) (hint : Nat) : (askLine s sq l hint).pwr = s.pwr := by
  unfold askLine
  dsimp only
  (repeat' split) <;> simp

@[simp] theorem askBytes_pwr (s : State) (sq i off n : Nat) : (askBytes s sq i off n).pwr = s.pwr := by
  unfold askBytes
  split
  · rfl
  · dsimp only
    rw [foldl_keep _ State.pwr (fun s sa => by simp)]
    split <;> simp

@[simp] theorem lyFill_pwr (s : State) (sl : Slot) (b : Nat) : (lyFill s sl b).pwr = s.pwr := by
  unfold lyFill
  dsimp only
  repeat' split
  case h_1 h => exact (setPage_pwr _ _ _).trans (allocPage_pwr h)
  all_goals simp

@[simp] theorem completeParked_pwr (s : State) (p : Nat) (st : Nat) (sub : Nat) :
    (completeParked s p st sub).pwr = s.pwr := by
  unfold completeParked
  split <;> simp

@[simp] theorem completeWaiting_pwr (s : State) (sl : Slot) (st : Nat) (sub : Nat) :
    (completeWaiting s sl st sub).pwr = s.pwr := by simp [completeWaiting]

@[simp] theorem tallyEnd_pwr (s : State) (i st sub : Nat) : (tallyEnd s i st sub).pwr = s.pwr := by
  unfold tallyEnd
  refine (foldl_keep _ State.pwr (fun s x => ?_) _ _).trans
    ((foldl_keep _ State.pwr (fun s x => ?_) _ _).trans (foldl_keep _ State.pwr (fun s x => ?_) _ _))
  all_goals split <;> simp

@[simp] theorem lyUncorr_pwr (s : State) (sl : Slot) (d : Nat) (b : Nat) (sub : Nat) :
    (lyUncorr s sl d b sub).pwr = s.pwr := by simp [lyUncorr]

@[simp] theorem lyFails_pwr (s : State) :
    (lyFails s).pwr = s.pwr := foldl_keep _ State.pwr (fun s b => by (repeat' split) <;> simp) _ _

@[simp] theorem lyUnpin_pwr (s : State) (sl : Slot) (d : Nat) : (lyUnpin s sl d).pwr = s.pwr := rfl

@[simp] theorem lySignal_pwr (s : State) (sl : Slot) (n : Nat) : (lySignal s sl n).pwr = s.pwr := by
  unfold lySignal
  dsimp only
  split <;> simp

@[simp] theorem lyLate_pwr (s : State) (sl : Slot) : (lyLate s sl).pwr = s.pwr := by
  unfold lyLate
  split <;> simp

@[simp] theorem lyStep_pwr (s : State) (sl : Slot) (first : Bool) : (lyStep s sl first).pwr = s.pwr := by
  have hfills : ∀ (l : List Nat) (u : State), (l.foldl (fun s b => lyFill s sl b) u).pwr = u.pwr := fun l u =>
    foldl_keep _ State.pwr (fun s b => lyFill_pwr s sl b) l u
  unfold lyStep
  dsimp only
  (repeat' split) <;> simp [hfills]

@[simp] theorem layerGo_pwr (s : State) (sq : Nat) : (layerGo s sq).pwr = s.pwr := by
  refine atBoundary_pwr sq fun sl => ?_
  dsimp only
  repeat' split
  all_goals simp

@[simp] theorem layerTick_pwr (s : State) :
    (layerTick s).pwr = s.pwr := foldl_keep _ State.pwr (fun s b => by (repeat' split) <;> simp) _ _

@[simp] theorem landed_pwr (s : State) (q : HomeReq) : (landed s q).pwr = s.pwr := by
  unfold landed
  split <;> simp

@[simp] theorem resumeReq_pwr (s : State) (q : HomeReq) : (resumeReq s q).pwr = s.pwr := by
  unfold resumeReq
  dsimp only
  (repeat' split) <;> grind [access_pwr, landed_pwr, failed_pwr, lineWrite_pwr, lineRead_pwr]

@[simp] theorem pageWaitRun_pwr (s : State) :
    (pageWaitRun s).pwr = s.pwr := foldl_keep _ State.pwr (fun s b => by simp) _ _

@[simp] theorem freePage_pwr (s : State) (p : Nat) : (freePage s p).pwr = s.pwr := by
  unfold freePage
  dsimp only
  (repeat' split) <;> simp

@[simp] theorem evictEnd_pwr (s : State) (p : Nat) (g : Page) : (evictEnd s p g).pwr = s.pwr := by
  unfold evictEnd
  dsimp only
  (repeat' split) <;> simp

@[simp] theorem evictSweep_pwr (s : State) :
    (evictSweep s).pwr = s.pwr := foldl_keep _ State.pwr (fun s b => by (repeat' split) <;> simp) _ _

@[simp] theorem parityOut_pwr (s : State) (blk : Nat) (delta : BitVec 32992) (g : Page) :
    (parityOut s blk delta g).1.pwr = s.pwr := by
  unfold parityOut
  dsimp only
  (repeat' split) <;> simp

@[simp] theorem wbStart_pwr (s : State) (p : Nat) (g : Page) : (wbStart s p g).pwr = s.pwr := by simp [wbStart]

@[simp] theorem wbRun_pwr (s : State) : (wbRun s).pwr = s.pwr := by
  refine foldl_keep _ State.pwr (fun s p => ?_) _ _
  (repeat' split) <;> simp

@[simp] theorem setExt_pwr (s : State) (t : Nat) (e : Nat) (v : BitVec 128) : (setExt s t e v).pwr = s.pwr := rfl

@[simp] theorem setExtState_pwr (s : State) (t : Nat) (e : Nat) (st : Nat) : (setExtState s t e st).pwr = s.pwr := rfl

@[simp] theorem degrade_pwr (s : State) (t e cause : Nat) : (degrade s t e cause).pwr = s.pwr := by
  unfold degrade
  dsimp only
  split
  · rfl
  · rw [report_pwr, setEvt_pwr, foldl_keep _ State.pwr]
    · rfl
    · intro s m
      (repeat' split) <;> simp

@[simp] theorem pcFail_pwr (s : State) (pc : Nat) : (pcFail s pc).pwr = s.pwr := by
  unfold pcFail
  dsimp only
  split
  · rfl
  · rw [report_pwr, foldl_keep _ State.pwr fun s e => by simp]

@[simp] theorem scrubCount_pwr (s : State) (pc : Nat) (line : Nat) : (scrubCount s pc line).pwr = s.pwr := by
  unfold scrubCount
  dsimp only
  (repeat' split) <;> simp

@[simp] theorem poisonLine_pwr (s : State) (sa : Nat) (keep : Bool) : (poisonLine s sa keep).pwr = s.pwr := by
  unfold poisonLine
  split
  · simp
  · split <;> simp

@[simp] theorem nearUncorr_pwr (s : State) (sa : Nat) (sec : Option Line) : (nearUncorr s sa sec).pwr = s.pwr := by
  unfold nearUncorr
  split <;> simp

@[simp] theorem scrubLine_pwr (s : State) (line : Nat) (ecc : Nat) (sec : Option Line) :
    (scrubLine s line ecc sec).pwr = s.pwr := by
  unfold scrubLine
  split <;> simp

@[simp] theorem scrubRun_pwr (s : State) : (scrubRun s).pwr = s.pwr := by
  unfold scrubRun
  dsimp only
  (repeat' split) <;> simp

@[simp] theorem remRun_pwr (s : State) : (remRun s).pwr = s.pwr := by
  refine foldl_keep _ State.pwr (fun s r => ?_) _ _
  split
  · exact foldl_keep homeStart State.pwr homeStart_pwr _ _
  · rfl

@[simp] theorem homeOps_pwr (s : State) : (homeOps s).pwr = s.pwr := by simp [homeOps]

@[simp] theorem homeWork_pwr (s : State) : (homeWork s).pwr = s.pwr := by simp [homeWork]

end Sys2Proof.Machine
end

section
/-! Proofs about the power sequence and the host port: every command, and with it every step, keeps both sound. -/
namespace Sys2Proof.Machine

/-! ## The commands that reach the power part or the host port -/

theorem PortSound.whenSill {s : State} (h : PortSound s) {f : State → State} (hf : PortSound (f s)) :
    PortSound (whenSill s f) := by
  unfold Machine.whenSill
  split
  · exact hf
  · exact h

theorem pwrSound_whenSill {s : State} (h : PwrSound s.pwr) {f : State → State} (hf : PwrSound (f s).pwr) :
    PwrSound (whenSill s f).pwr := by
  unfold whenSill
  split
  · exact hf
  · exact h

theorem pwrSound_whenLive {s : State} (h : PwrSound s.pwr) {f : State → State} (hf : PwrSound (f s).pwr) :
    PwrSound (whenLive s f).pwr := by
  unfold whenLive
  split
  · exact hf
  · exact h

theorem pwrSound_of_eq {s t : State} (h : PwrSound s.pwr) (he : t.pwr = s.pwr) : PwrSound t.pwr := he ▸ h

theorem pwrSound_ite {c : Prop} [Decidable c] {s t : State} (hs : PwrSound s.pwr) (ht : PwrSound t.pwr) :
    PwrSound (if c then s else t).pwr := by
  split
  · exact hs
  · exact ht

section
variable {s : State} (h : PwrSound s.pwr)
include h

theorem pwrSound_parityDeltaAck (sa : Nat) (isQ ok : Bool) : PwrSound (after s (execParityDeltaAck sa isQ ok s)).pwr := by
  have hend : ∀ p g, PwrSound (wbEnd s p g).pwr := fun p g => flushed_sound h (wbEnd_pwr s p g)
  refine pwrSound_whenLive h ?_
  split
  · exact pwrSound_ite (hend ..) h
  · exact h

theorem pwrSound_writebackAck (blk : Nat) : PwrSound (after s (execWritebackAck blk s)).pwr := by
  refine pwrSound_whenLive h (pwrSound_of_eq ?_ (homeWork_pwr _))
  split
  · split
    · exact h
    · exact flushed_sound h (wbProgrammed_pwr ..)
  · exact h

theorem pwrSound_abortWindowEnd (n : Nat) : PwrSound (after s (execAbortWindowEnd n s)).pwr := by
  refine pwrSound_whenSill h ?_
  split
  · exact quiesceStart_sound h n
  · exact h

theorem pwrSound_sledLatchOpen (n : Nat) : PwrSound (after s (execSledLatchOpen n s)).pwr := by
  refine pwrSound_whenSill h ?_
  split
  · exact h
  · next hn =>
    split
    · exact pwrSound_of_eq h (by simp)
    · exact pwrSound_of_eq (sledSurprise_sound h (Nat.lt_of_not_le fun h4 => hn (.inl h4))) (setEvt_pwr ..)

theorem pwrSound_throttleMark : PwrSound (after s (execThrottleMark s)).pwr := by
  refine pwrSound_whenSill h ?_
  unfold throttleMark
  dsimp only
  repeat' split
  · exact pwrSound_of_eq h (by simp)
  · exact pwrSound_of_eq h (by simp)
  · exact pwrSound_of_eq (s := { s with pwr := { s.pwr with clear := 0 } }) h (by simp)
  · exact h

/-- A rail counts as good only behind its line, and a line rises behind the rail that it waits for (R626). -/
theorem pwrSound_railWithinTolerance (rail : Nat) : PwrSound (after s (execRailWithinTolerance rail s)).pwr := by
  refine pwrSound_whenSill h ?_
  split
  · exact h
  next hrail =>
  obtain ⟨hlen, hrails, hrest⟩ := h
  have hneeds : ∀ n, s.pwr.railen ≤ n → ∀ r ∈ insRising s.pwr.rails rail, r < 6 ∧ railNeeds r ≤ n := by
    intro n hn r hr
    rcases mem_insRising.mp hr with rfl | hr
    · omega
    · obtain ⟨h6, hle⟩ := hrails r hr
      exact ⟨h6, hle.trans hn⟩
  have hrailen : ∀ n, s.pwr.railen ≤ n → n ≤ 3 →
      PwrSound { s.pwr with rails := insRising s.pwr.rails rail, railen := n } := fun n hn h3 => ⟨h3, hneeds n hn, hrest⟩
  refine pwrSound_of_eq ?_ (startBringup_pwr _)
  split
  · next hvin => exact hrailen 2 (hvin.2.le.trans (by decide)) (by decide)
  · split
    · next hstq => exact hrailen 3 (hstq.2.le.trans (by decide)) (by decide)
    · exact hrailen s.pwr.railen le_rfl hlen

theorem pwrSound_sledLatchClose (n : Nat) : PwrSound (after s (execSledLatchClose n s)).pwr := by
  refine pwrSound_whenSill h ?_
  split
  · next hn => exact pwrSound_of_eq (sledPower_sound h hn.1 true) (by simp)
  · exact h

theorem pwrSound_quiesceWritebackDone (n : Nat) : PwrSound (after s (execQuiesceWritebackDone n s)).pwr := by
  refine pwrSound_whenSill h ?_
  split
  · next hn => exact pwrSound_of_eq (sledOut_sound h hn.1) (by simp)
  · exact h

theorem pwrSound_quiesceTimeout (n : Nat) : PwrSound (after s (execQuiesceTimeout n s)).pwr := by
  refine pwrSound_whenSill h ?_
  split
  · next hn => exact pwrSound_of_eq (sledOut_sound (pwrSound_of_eq h (setF_pwr ..)) hn.1) (sledFailed_pwr ..)
  · exact h

theorem pwrSound_pwrSledPress (mctp : Bool) (n : Nat) (v : W64) : PwrSound (after s (execPwrSledPress mctp n v s)).pwr :=
  pwrSound_ite (sledPress_sound (pwrSound_of_eq h (setF_pwr ..)) n) h

theorem pwrSound_crystalStop : PwrSound (after s (execCrystalStop s)).pwr := by
  refine pwrSound_whenSill h ?_
  split
  · exact pwrSound_of_eq (s := { s with pwr := { s.pwr with crystal := false } }) h (by simp)
  · exact h

theorem pwrSound_mirrorWritebackRequest (chip : Nat) (exts : List Nat) :
    PwrSound (after s (execMirrorWritebackRequest chip exts s)).pwr :=
  pwrSound_whenLive h (flushed_sound (h.flush _) (flushCheck_pwr _))

theorem pwrSound_mirrorPagesWritten (chip n : Nat) : PwrSound (after s (execMirrorPagesWritten chip n s)).pwr :=
  pwrSound_whenLive h (h.mirrors _)

/-- SLEDPG rises behind a closed switch alone (R633). -/
theorem pwrSound_sledPowerGood (n : Nat) : PwrSound (after s (execSledPowerGood n s)).pwr := by
  refine pwrSound_whenSill h ?_
  obtain ⟨hlen, hrails, hfast, hon, hgood⟩ := h
  split
  · next hn =>
    refine ⟨hlen, hrails, hfast, hon, fun m hm => ?_⟩
    rcases mem_insRising.mp hm with rfl | hm
    · simpa using hn
    · exact hgood m hm
  · exact ⟨hlen, hrails, hfast, hon, hgood⟩

end

theorem portSound_ite {c : Prop} [Decidable c] {s t : State} (hs : PortSound s) (ht : PortSound t) :
    PortSound (if c then s else t) := by
  split
  · exact hs
  · exact ht

section
variable {s : State} (h : PortSound s)
include h

theorem portSound_restart (oseq : Nat) (ok : Bool) (cut plan : Nat) :
    PortSound (after s (execRestart oseq ok cut plan s)) := by
  refine portSound_answer h ?_ _
  have hset : PortSound (setF s SEC_OSEQ.OSEQ 0 oseq) := portSound_same h (by simp) (by simp)
  have hrefuse : PortSound (setEvt (ledger s 0x0D01 1 none [oseq]) SEC_EVT.ORDER) := portSound_same h (by simp) (by simp)
  have hgo : PortSound (if stage (setF s SEC_OSEQ.OSEQ 0 oseq) = 7 then warmReset (setF s SEC_OSEQ.OSEQ 0 oseq)
      else setF s SEC_OSEQ.OSEQ 0 oseq) := portSound_ite (portSound_warm hset) hset
  exact portSound_ite h (portSound_ite (portSound_same hgo rfl rfl) hrefuse)

theorem portSound_pwrReq (mctp : Bool) (req : Nat) :
    PortSound (if pwrReach s mctp then pwrReq s mctp req else s) :=
  portSound_ite ⟨pwrReq_sound h.1 _ _, pwrReq_hst h.2 _ _⟩ h

theorem portSound_enterSill : PortSound (enterSill s) := ⟨enterSill_sound h.1, enterSill_hst h.2⟩

theorem portSound_railFault (rail : Nat) : PortSound (after s (execRailFault rail s)) := by
  have hfence : PortSound (if s.pwr.fast then selfFence s else s) :=
    portSound_ite (portSound_same h (selfFence_pwr s) (selfFence_hst s)) h
  have hlog : PortSound (ledgerFF (if s.pwr.fast then selfFence s else s) 0xE rail) :=
    portSound_same hfence (ledgerFF_pwr ..) (ledgerFF_hst ..)
  refine portSound_answer h (h.whenSill ?_) _
  exact portSound_ite h (portSound_enterSill hlog)

theorem portSound_lrefLoss : PortSound (after s (execLrefLoss s)) := by
  have hlost : PortSound { s with pwr := { s.pwr with lref := false } } := h
  refine portSound_answer h (h.whenSill ?_) _
  exact portSound_ite h (portSound_enterSill (portSound_same hlost (ledgerFF_pwr ..) (ledgerFF_hst ..)))

theorem portSound_vstbyLoss : PortSound (after s (execVstbyLoss s)) := by
  refine portSound_answer h (h.whenSill ⟨?_, h.2⟩) _
  exact ⟨Nat.zero_le 3, by simp, by simp, by simp, by simp⟩

theorem portSound_sillPowerOn : PortSound (after s (execSillPowerOn s)) :=
  portSound_answer h (portSound_ite h (portSound_same (portSound_sillClear _) (resetRecord_pwr ..) (resetRecord_hst ..))) _

theorem portSound_perstAssert : PortSound (after s (execPerstAssert s)) := by
  have hperst : PortSound { s with pwr := { s.pwr with perst := true } } := h
  exact portSound_answer h (portSound_ite (portSound_cold hperst) hperst) _

theorem portSound_perstDeassert : PortSound (after s (execPerstDeassert s)) := by
  have hperst : PortSound { s with pwr := { s.pwr with perst := false } } := h
  have hfault : PortSound { s with pwr := { s.pwr with perst := false, railFault := false } } := h
  refine portSound_answer h (portSound_ite hperst (portSound_ite ?_ ?_)) _
  · exact ⟨railsUp_sound (coldReset_sound hfault.1), coldReset_hst⟩
  · exact portSound_same hperst (startBringup_pwr _) (startBringup_hst _)

theorem portSound_whenHost {f : State → State} (hf : PortSound (f s)) : PortSound (whenHost s f) := by
  unfold whenHost
  exact portSound_ite hf h

theorem portSound_pfReset (cause : Nat) : PortSound (pfReset s cause) :=
  ⟨pwrSound_of_eq h.1 (pfReset_pwr s cause), pfReset_hst h.2 cause⟩

theorem portSound_vfEnableClear (en : Bool) (n : Nat) : PortSound (after s (execVfEnableClear en n s)) := by
  refine portSound_answer h (portSound_whenHost h ?_) _
  exact ⟨pwrSound_of_eq h.1 (vfsLeave_pwr ..), Nat.min_le_right .., (vfsLeave_hst .. ▸ h.2.2 :)⟩

end

/-! ## Every command and every step -/

section
variable {s : State} (h : PortSound s) {c : Instr}
include h

/-- A command that does not reach the host port keeps what it leaves sound of the power part. -/
theorem portSound_of_pwrSound (hhst : (touches c).contains .hst = false) (hp : PwrSound (after s (exec c s)).pwr) :
    PortSound (after s (exec c s)) := by
  obtain ⟨u, hu⟩ := exec_confined c s
  rw [hu] at hp ⊢
  exact ⟨hp, (confine_hst s u (by simpa using hhst)).symm ▸ h.2⟩

/-- A command that reaches neither part keeps both. -/
theorem portSound_of_untouched (hpwr : (touches c).contains .pwr = false) (hhst : (touches c).contains .hst = false) :
    PortSound (after s (exec c s)) := by
  obtain ⟨u, hu⟩ := exec_confined c s
  rw [hu]
  exact h.confined u (by simpa using hpwr) (by simpa using hhst)

end

/-- Every command keeps the power part and the host port sound: those that reach one of them by their own lemma, every other
command because it is confined. -/
theorem portSound_exec (c : Instr) {s : State} (h : PortSound s) : PortSound (after s (exec c s)) := by
  cases c with
  | parityDeltaAck sa isQ ok => exact portSound_of_pwrSound h rfl (pwrSound_parityDeltaAck h.1 sa isQ ok)
  | writebackAck blk => exact portSound_of_pwrSound h rfl (pwrSound_writebackAck h.1 blk)
  | abortWindowEnd n => exact portSound_of_pwrSound h rfl (pwrSound_abortWindowEnd h.1 n)
  | sledLatchOpen n => exact portSound_of_pwrSound h rfl (pwrSound_sledLatchOpen h.1 n)
  | sledLatchClose n => exact portSound_of_pwrSound h rfl (pwrSound_sledLatchClose h.1 n)
  | sledButtonPress n => exact portSound_of_pwrSound h rfl (pwrSound_whenSill h.1 (sledPress_sound h.1 n))
  | pwrSledPress mctp n v => exact portSound_of_pwrSound h rfl (pwrSound_pwrSledPress h.1 mctp n v)
  | quiesceWritebackDone n => exact portSound_of_pwrSound h rfl (pwrSound_quiesceWritebackDone h.1 n)
  | quiesceTimeout n => exact portSound_of_pwrSound h rfl (pwrSound_quiesceTimeout h.1 n)
  | sledPowerGood n => exact portSound_of_pwrSound h rfl (pwrSound_sledPowerGood h.1 n)
  | mirrorWritebackRequest chip exts => exact portSound_of_pwrSound h rfl (pwrSound_mirrorWritebackRequest h.1 chip exts)
  | mirrorPagesWritten chip n => exact portSound_of_pwrSound h rfl (pwrSound_mirrorPagesWritten h.1 chip n)
  | throttleMark => exact portSound_of_pwrSound h rfl (pwrSound_throttleMark h.1)
  | railWithinTolerance rail => exact portSound_of_pwrSound h rfl (pwrSound_railWithinTolerance h.1 rail)
  | crystalStop => exact portSound_of_pwrSound h rfl (pwrSound_crystalStop h.1)
  | bringupStageEnd e => exact portSound_of_pwrSound h rfl (bring_sound h.1 e)
  | vstbyLoss => exact portSound_vstbyLoss h
  | restart oseq ok cut plan => exact portSound_restart h oseq ok cut plan
  | pwrReqRun mctp => exact portSound_answer h (portSound_pwrReq h mctp 0) _
  | pwrReqParked mctp => exact portSound_answer h (portSound_pwrReq h mctp 2) _
  | pwrReqSill mctp => exact portSound_answer h (portSound_pwrReq h mctp 3) _
  | powerSample w temp sensor =>
    exact portSound_answer h (h.whenSill ⟨powerSample_sound h.1 w temp sensor, powerSample_hst h.2 w temp sensor⟩) _
  | railFault rail => exact portSound_railFault h rail
  | lrefLoss => exact portSound_lrefLoss h
  | sillPowerOn => exact portSound_sillPowerOn h
  | perstAssert => exact portSound_perstAssert h
  | perstDeassert => exact portSound_perstDeassert h
  | glbRstWarm => exact portSound_glbWarm h
  | glbRstCold mctp => exact portSound_glbCold h mctp
  | prefLoss =>
    exact portSound_answer h (portSound_whenHost h (portSound_pfReset (s := { s with pwr := { s.pwr with pref := false } }) h 2)) _
  | pfFunctionReset hot => exact portSound_answer h (portSound_whenHost h (portSound_pfReset h _)) _
  | vfEnableClear en n => exact portSound_vfEnableClear h en n
  | mctpWrite off v => exact portSound_mctpWrite h off v
  | registerWrite fn bar off size v => exact portSound_regWrite h fn bar off size v
  | _ => exact portSound_of_untouched h rfl rfl

theorem portSound_of_exec {c : Instr} {s t : State} (h : PortSound s) (hx : exec c s = .next t) : PortSound t := by
  have hafter := portSound_exec c h
  rwa [hx] at hafter

theorem portSound_of_step {s t : State} (h : PortSound s) (hx : step s = .next t) : PortSound t := by
  unfold step at hx
  split at hx
  · obtain rfl := Host.Outcome.next.inj hx
    exact h.confined _ (by decide) (by decide)
  · next rest _ => exact portSound_of_exec (s := { s with pending := rest }) h hx

/-- Settles O6: no step's answer leaves the power part or the host port unsound. -/
theorem everyStepKeepsSound : Obligations.EveryStepKeepsSound := by
  intro s t hs hstep
  exact (sound_iff t).mpr (portSound_of_step ((sound_iff s).mp hs) hstep)

end Sys2Proof.Machine
end

section
/-! What reset leaves (O5), and what a chip without power ignores (O7). -/
namespace Sys2Proof.Machine

/-- Settles O5: the reset state is a constant, evaluated clause by clause. -/
theorem resetStateIsSound : Obligations.ResetStateIsSound := by
  refine ⟨⟨by decide, by decide, by decide, by decide, by decide, by decide, by decide⟩,
    wf_reset, rfl, rfl, rfl, ?_, ?_, ?_, ?_⟩
  all_goals decide

section
variable {s : State}

theorem whenLive_of_dark (hfast : s.pwr.fast = false) (f : State → State) : whenLive s f = s := by
  simp [whenLive, live, hfast]

theorem whenFast_of_dark (hfast : s.pwr.fast = false) (f : State → State) : whenFast s f = s := by
  simp [whenFast, hfast]

theorem whenClock_of_dark (hfast : s.pwr.fast = false) (f : State → State) : whenClock s f = s := by
  simp [whenClock, hfast]

theorem whenSill_of_dark (hsill : s.pwr.sill = false) (f : State → State) : whenSill s f = s := by
  simp [whenSill, hsill]

theorem whenHost_of_dark (hsill : s.pwr.sill = false) (f : State → State) : whenHost s f = s := by
  simp [whenHost, hsill]

theorem spdmReach_of_dark (hsill : s.pwr.sill = false) (doe : Bool) :
    spdmReach s doe = false := by
  cases doe <;> simp [spdmReach, mctpFast, hsill]

theorem spdmReq_of_dark (hsill : s.pwr.sill = false) (doe : Bool) (need : Nat)
    (f : State → State) : spdmReq s doe need f = s := by
  simp [spdmReq, spdmReach_of_dark hsill]

theorem answer_self (ps : List Part) (s : State) : answer ps s s = .next s :=
  congrArg Host.Outcome.next (confine_self ps s)

/-- A command whose meaning leaves the state as it is leaves it so behind its frame too. -/
theorem exec_eq_self {c : Instr} {u : State} {ps : List Part} (h : exec c s = answer ps s u) (e : u = s) :
    exec c s = .next s := by
  rw [h, e, answer_self]

end

/-- Settles O7: each command stands behind a guard that a chip without power does not meet. -/
theorem darkChipIgnoresCommands : Obligations.DarkChipIgnoresCommands := by
  intro c s hsill hfast hon hassert hdeassert
  cases c with
  | extentRecordHighWrite | extentRecordApply | extentValidClear | extentRetireIdle | tier2WideWrite
  | versionRecordWrite | publish | publishHomeUpdate | publishDrained | mirrorWriteAccept | parityDeltaUpdate
  | parityDeltaAck | translateDescriptor | faultRecordWrite | faultBatchClose | faultRingHeadWrite
  | faultRingEnable | resumeRetry | resumeAbort | parkedDeadlineExpire | parkSlotAvailable | spillSpaceAvailable
  | shootdownVa | shootdownTenant | shootdownExtent | shootdownRegion | shootdownDrained | shoot | shootAck
  | queueContextEnable | queueContextDisable | queueDrainEnd | sqTail | cqHead | resume | cancelAll | cancelTag
  | doorbellMissizedWrite | descriptorFetch | descriptorArrive | descriptorLaunch | descriptorDeadline
  | interruptModerationTimer | hostReadFail | nop | tallyWait | tallySet | cut | fill | copy | compare | reduce
  | prefetch | adviseNone | adviseHot | adviseCold | adviseStream | adviseXltPreload | sparseGemm | attnDecode
  | kvAppend | kvLeaseCreate | kvLeaseAcquire | kvLeaseRelease | kvLeaseRenew | kvLeaseTruncate | expertFfn
  | layerStream | embGather | embUpdate | embLoad | embSwitch | embRefresh | embPin | embUnpin | vinsert | vdelete
  | vscan | vrerank | scribeRun | rdShared | rdOwn | rdCur | wrFull | wb | evictClean | rspI | rspS | rspFwd
  | rspGone | rspData | cmpAck | nearReadReturn | retryQueueStart | homeTransactionTimeout | deadAgentSweepEnd
  | engRd | engRdata | engWr | engAck | engErr | engOpx | postedWriteTimeout | tallyAllocate | tallyCountWrite
  | tallyRelease | fillDataVerified | fillUncorrectable | redundantReadReturn | writebackStart | writebackAck
  | dirtyAgeExpire | evictionStart | patrolScrubStep | eraseBlockFail | arrayGrant | passEnd | arrayFence
  | attnRoundEnd | leaseExpiryScan | leaseReclaim | truncateBlockRelease | layerWaitDeadline | lookup | partialRsp
  | update | updEnd | updAck | updateWindowTimeout | push | pushEnd | hotBufferPushRelease | opxErr
  | scanBlockRead | planeEngineFail | poolPieceEnd | scribeGrant | scrCfgWrite | timeExchangeStart | timeReq
  | timeRsp | holdoverLimit | ptpReferenceMessage | raiseMatch | detectPoll | portTrainingStageDone
  | trainingLimitExpire | param | hello | encap | linkFinish | seedxfer | retrainDone | retrainTimeout
  | rekeyInterval | heartbeatSend | heartbeat | heartbeatWindowEnd | deathDeclareWait | fence | mirrorWriteTimeout
  | rebuild | rebuildCopyDone | rebuildStop | plumbCompare | plumbSelftestDone | cutFreezeEnd | cutPageDrain
  | cutReservePageFree | cutDrainEnd | cutHoldLimit | pseudoChannelFail | flashChannelUnresponsive
  | planeEngineWakeDone | nearWriteDone | publishResult | mirrorWritebackRequest | mirrorPagesWritten
  | hostReadData | scrStart | scrFinish | scrAbort | scrData8 | scrData16 | scrData32 | scrValWrite | scrCntWrite
  | scrFoldWrite | scrExpWrite | scrStatClear =>
    exact exec_eq_self rfl (whenLive_of_dark hfast _)
  | shootdownReservedKind | kvPoolEnable | embActivate | embDeactivate | vscActivate | vscDeactivate | vscAdopt
  | portEnable | reportResend | ack | ledgerRead | tenantEnable | tenantKeysInstalled | tenantReset
  | tenantResetDone | tenantErase | tenantEraseDone | frameSeedCreate | cntDumpNow | timedDump | sampleWrite =>
    exact exec_eq_self rfl (whenFast_of_dark hfast _)
  | flitReceive | nakResendTimer | idleEnter | arrayPowerGate | arrayWakeDone | flitTransmit =>
    exact exec_eq_self rfl (whenClock_of_dark hfast _)
  | debugNonceRead | debugTokenCheck | powerSample | throttleMark | sledButtonPress | abortWindowEnd
  | quiesceWritebackDone | quiesceTimeout | sledLatchOpen | sledLatchClose | sledTestDone | sledPowerGoodTimeout
  | railFault | lrefLoss | crystalStop | vstbyLoss | mctpRead | mctpWrite | ledgerRecordWrite | ledgerWindowEnd
  | ledgerStreamSend | railWithinTolerance | sledPowerGood =>
    exact exec_eq_self rfl (whenSill_of_dark hsill _)
  | doeDiscovery | idekmKeyExchange | query | keyProg | kSetGo | kSetStop | prefLoss | pfFunctionReset
  | vfFunctionReset | vfEnableClear | busMasterEnableClear | busMasterEnableSet | msixUnmask | hostLinkRetrain
  | d3hotTransition =>
    exact exec_eq_self rfl (whenHost_of_dark hsill _)
  | restart | bringupStageEnd | bringupStageLimit =>
    exact exec_eq_self rfl (if_pos (by simp [bringupRuns, hsill]))
  | registerWrite | registerRead =>
    exact exec_eq_self rfl (if_pos (by simp [fnServes, hsill]))
  | getVersion =>
    exact exec_eq_self rfl (if_neg (by simp [spdmReach_of_dark hsill]))
  | getCapabilities | negotiateAlgorithms | getDigests | getCertificate | challenge | getMeasurements =>
    exact exec_eq_self rfl (spdmReq_of_dark hsill _ _ _)
  | pwrReqRun | pwrReqParked | pwrReqSill | pwrSledPress =>
    exact exec_eq_self rfl (if_neg (by simp [pwrReach, hsill]))
  | glbRstWarm | glbRstCold =>
    exact exec_eq_self rfl (if_neg (by simp [hsill]))
  | sillPowerOn => exact absurd rfl hon
  | perstAssert => exact absurd rfl hassert
  | perstDeassert => exact absurd rfl hdeassert

end Sys2Proof.Machine
end

section
/-! The register map (R606): every word of a register has an offset of its own (O8), what a virtual function reaches of it
(O10), and what MCTP does (O16). -/
namespace Sys2Proof.Machine

/-! ## Two registers share no offset -/

/-- How many words a register has. -/
def regWords (r : Reg) : Nat := if r = .TEN_CNT then 4096 else (regPlace r).count

/-- The words of one place end before the other begins, or both count in one stride from bases that it tells apart. -/
abbrev RegPlace.Apart (p q : RegPlace) : Prop :=
  p.base + p.stride * (p.count - 1) < q.base ∨ q.base + q.stride * (q.count - 1) < p.base ∨
    (p.stride = q.stride ∧ p.base % p.stride ≠ q.base % p.stride)

theorem regPlace_apart {r q : Reg} (h : q ≠ r) : (regPlace r).Apart (regPlace q) := by
  have hall : ∀ r ∈ allRegs, ∀ q ∈ allRegs, q ≠ r → (regPlace r).Apart (regPlace q) := by
    decide +kernel
  exact hall r (mem_allRegs r) q (mem_allRegs q) h

/-- A register without a stride is one word. -/
theorem regPlace_count_of_stride (r : Reg) (h : (regPlace r).stride = 0) : (regPlace r).count = 1 := by
  have hall : ∀ r ∈ allRegs, (regPlace r).stride = 0 → (regPlace r).count = 1 := by decide +kernel
  exact hall r (mem_allRegs r) h

/-- The counters of the tenant windows lie above every register, or behind the others of the window. -/
theorem regPlace_before_counters {r : Reg} (h : r ≠ .TEN_CNT) :
    (regPlace r).base + (regPlace r).stride * ((regPlace r).count - 1) < 0x1700000 ∨
      (regPlace r).stride = 0x1000 ∧ 0x1700000 ≤ (regPlace r).base ∧ (regPlace r).base < 0x1700218 := by
  have hall : ∀ r ∈ allRegs, r ≠ .TEN_CNT →
      (regPlace r).base + (regPlace r).stride * ((regPlace r).count - 1) < 0x1700000 ∨
        (regPlace r).stride = 0x1000 ∧ 0x1700000 ≤ (regPlace r).base ∧ (regPlace r).base < 0x1700218 := by
    decide +kernel
  exact hall r (mem_allRegs r) h

theorem placeIdx_eq_some_iff_lt (r : Reg) (off i : Nat) :
    placeIdx r off = some i ↔ off = (regPlace r).base + (regPlace r).stride * i ∧ i < (regPlace r).count := by
  rw [placeIdx_eq_some_iff]
  split
  case isTrue h => rw [regPlace_count_of_stride r h, Nat.lt_one_iff]
  case isFalse => rfl

theorem word_le_last {r : Reg} {i : Nat} (h : i < (regPlace r).count) :
    (regPlace r).stride * i ≤ (regPlace r).stride * ((regPlace r).count - 1) :=
  Nat.mul_le_mul_left _ (Nat.le_sub_one_of_lt h)

theorem placeIdx_unique {r q : Reg} {off i j : Nat} (hr : placeIdx r off = some i) (hq : placeIdx q off = some j) :
    q = r := by
  obtain ⟨hoffr, hi⟩ := (placeIdx_eq_some_iff_lt r off i).mp hr
  obtain ⟨hoffq, hj⟩ := (placeIdx_eq_some_iff_lt q off j).mp hq
  have hlastr := word_le_last hi
  have hlastq := word_le_last hj
  by_contra hne
  obtain hlow | hhigh | ⟨hstride, hmod⟩ := regPlace_apart hne
  · omega
  · omega
  · refine hmod ?_
    calc (regPlace r).base % (regPlace r).stride = off % (regPlace r).stride := by rw [hoffr, Nat.add_mul_mod_self_left]
      _ = (regPlace q).base % (regPlace r).stride := by rw [hoffq, ← hstride, Nat.add_mul_mod_self_left]

/-- Word `i` of the tenant windows' counters is word `i mod 8` of tenant `i div 8`. -/
theorem tenCntIdx_eq_some_iff (off i : Nat) : tenCntIdx off = some i ↔ off = regOff .TEN_CNT i ∧ i < 4096 := by
  show (if 0x1700218 ≤ off ∧ (off - 0x1700218) / 4096 < 512 ∧ (off - 0x1700218) % 4096 < 64 ∧ (off - 0x1700218) % 8 = 0
    then some ((off - 0x1700218) / 4096 * 8 + (off - 0x1700218) % 4096 / 8) else none) = some i ↔
      off = 0x1700218 + 4096 * (i / 8) + 8 * (i % 8) ∧ i < 4096
  split
  · rw [Option.some.injEq]
    omega
  · simp only [reduceCtorEq, false_iff]
    omega

theorem regOff_of_ne {r : Reg} (h : r ≠ .TEN_CNT) (i : Nat) : regOff r i = (regPlace r).base + (regPlace r).stride * i :=
  if_neg h

/-- A word of another register is not one of the counters. -/
theorem tenCntIdx_of_placeIdx {r : Reg} {off i : Nat} (h : r ≠ .TEN_CNT) (hp : placeIdx r off = some i) :
    tenCntIdx off = none := by
  obtain ⟨hoff, hi⟩ := (placeIdx_eq_some_iff_lt r off i).mp hp
  have hlast := word_le_last hi
  refine Option.eq_none_iff_forall_ne_some.mpr fun k hk => ?_
  obtain ⟨hk, hlt⟩ := (tenCntIdx_eq_some_iff off k).mp hk
  change off = 0x1700218 + 4096 * (k / 8) + 8 * (k % 8) at hk
  obtain hlow | ⟨hstride, hbase, htop⟩ := regPlace_before_counters h
  · omega
  · rw [hstride] at hoff
    omega

/-- The counters' own place holds the first counter of each tenant. -/
theorem tenCntIdx_ne_none_of_placeIdx {off i : Nat} (hp : placeIdx .TEN_CNT off = some i) : tenCntIdx off ≠ none := by
  obtain ⟨hoff, hi⟩ := (placeIdx_eq_some_iff_lt .TEN_CNT off i).mp hp
  change off = 0x1700218 + 0x1000 * i at hoff
  change i < 512 at hi
  have hcnt : tenCntIdx off = some (8 * i) := by
    rw [tenCntIdx_eq_some_iff]
    change off = 0x1700218 + 4096 * (8 * i / 8) + 8 * (8 * i % 8) ∧ 8 * i < 4096
    omega
  rw [hcnt]
  exact Option.some_ne_none _

/-- An offset names a word exactly when it is the word's own. -/
theorem regAt_eq_some_iff (off : Nat) (r : Reg) (i : Nat) :
    regAt off = some (r, i) ↔ off = regOff r i ∧ i < regWords r := by
  unfold regAt
  cases hcnt : tenCntIdx off with
  | some k =>
    have hk := (tenCntIdx_eq_some_iff off k).mp hcnt
    simp only [Option.some.injEq, Prod.mk.injEq]
    constructor
    · rintro ⟨rfl, rfl⟩
      exact hk
    · rintro ⟨hoff, hi⟩
      by_cases hr : r = .TEN_CNT
      · subst hr
        exact ⟨rfl, Option.some.inj (hcnt.symm.trans ((tenCntIdx_eq_some_iff off i).mpr ⟨hoff, hi⟩))⟩
      · rw [regOff_of_ne hr] at hoff
        rw [regWords, if_neg hr] at hi
        rw [tenCntIdx_of_placeIdx hr ((placeIdx_eq_some_iff_lt r off i).mpr ⟨hoff, hi⟩)] at hcnt
        contradiction
  | none =>
    have hne {q : Reg} {j : Nat} (hq : placeIdx q off = some j) : q ≠ .TEN_CNT := by
      rintro rfl
      exact tenCntIdx_ne_none_of_placeIdx hq hcnt
    constructor
    · intro h
      obtain ⟨q, -, hq⟩ := List.exists_of_findSome?_eq_some h
      obtain ⟨j, hj, hqj⟩ := Option.map_eq_some_iff.mp hq
      obtain ⟨rfl, rfl⟩ := Prod.mk.inj hqj
      rw [regOff_of_ne (hne hj), regWords, if_neg (hne hj)]
      exact (placeIdx_eq_some_iff_lt q off j).mp hj
    · rintro ⟨hoff, hi⟩
      have hr : r ≠ .TEN_CNT := by
        rintro rfl
        rw [(tenCntIdx_eq_some_iff off i).mpr ⟨hoff, hi⟩] at hcnt
        contradiction
      rw [regOff_of_ne hr] at hoff
      rw [regWords, if_neg hr] at hi
      have hp := (placeIdx_eq_some_iff_lt r off i).mpr ⟨hoff, hi⟩
      obtain ⟨before, rest, hl, hnot⟩ := List.eq_append_cons_of_mem (mem_allRegs r)
      refine List.findSome?_eq_some_iff.mpr ⟨before, r, rest, hl, by rw [hp]; rfl, fun q hq => ?_⟩
      refine Option.map_eq_none_iff.mpr (Option.eq_none_iff_forall_ne_some.mpr fun j hj => ?_)
      exact hnot (placeIdx_unique hp hj ▸ hq)

/-- Settles O8. -/
theorem registerMapIsOneToOne : Obligations.RegisterMapIsOneToOne :=
  ⟨fun r i hi => (regAt_eq_some_iff _ r i).mpr ⟨rfl, hi⟩, fun off r i h =>
    have ⟨hoff, hi⟩ := (regAt_eq_some_iff off r i).mp h
    ⟨hoff.symm, hi⟩⟩

/-! ## What a virtual function reaches -/

/-- What a virtual function may clear are fields of the register that clear by writing 1. -/
theorem of_mem_vfClears {r : Reg} {f : Fld} (hf : f ∈ vfClears r) : f ∈ fieldsOf r ∧ f.acc = .w1c := by
  have hall : ∀ r ∈ allRegs, ∀ f ∈ vfClears r, f ∈ fieldsOf r ∧ f.acc = .w1c := by decide +kernel
  exact hall r (mem_allRegs r) f hf

theorem vfClears_pairwise_apart (r : Reg) : (vfClears r).Pairwise fun f g => f.bf.Apart g.bf := by
  have hall : ∀ r ∈ allRegs, (vfClears r).Pairwise fun f g => f.bf.Apart g.bf := by decide +kernel
  exact hall r (mem_allRegs r)

/-- Two fields of a register that are not one share no bit. -/
theorem apart_of_ne {r : Reg} {f g : Fld} (hf : f ∈ fieldsOf r) (hg : g ∈ fieldsOf r) (h : f ≠ g) : f.bf.Apart g.bf :=
  have : Std.Symm fun f g : Fld => f.bf.Apart g.bf := ⟨fun _ _ => Or.symm⟩
  (fieldsOf_pairwise_apart r).forall hf hg h

/-- A write through a virtual function clears what it may clear and what the written word names, and nothing else. -/
theorem getF_vfWriteReg (s : State) {r : Reg} (i : Nat) (v : W64) {f : Fld} (hf : f ∈ fieldsOf r) :
    getF (vfWriteReg s r i v) f i = if f ∈ vfClears r ∧ btst v f.bf = true then 0 else getF s f i := by
  have hends : ∀ g ∈ vfClears r, g.bf.lo + g.bf.w ≤ 64 := fun g hg => end_le_of_mem_fieldsOf (of_mem_vfClears hg).1
  obtain rfl := reg_of_mem_fieldsOf hf
  unfold getF vfWriteReg
  rw [regGet_regSet_same]
  by_cases hc : f ∈ vfClears f.reg
  · rw [bget_foldl_writeFld_mem true v hends _ hc (width_pos_of_mem_fieldsOf hf) (vfClears_pairwise_apart _),
      (of_mem_vfClears hc).2]
    simp [Acc.written, hc, btst]
  · rw [if_neg (fun h => hc h.1), bget_foldl_writeFld_apart true v hends]
    exact fun g hg => apart_of_ne hf (of_mem_vfClears hg).1 (ne_of_mem_of_not_mem hg hc).symm

/-- Settles O10. -/
theorem virtualFunctionStaysInItsWindow : Obligations.VirtualFunctionStaysInItsWindow := by
  refine ⟨?window, ?fields, ?others⟩
  case window =>
    intro fn off r i h1 h512 hoff hat
    obtain ⟨hword, hi⟩ := (regAt_eq_some_iff _ r i).mp hat
    rw [bar0Off, if_neg (by omega)] at hword
    by_cases hr : r = .TEN_CNT
    · subst hr
      change _ = 0x1700218 + 4096 * (i / 8) + 8 * (i % 8) at hword
      rw [if_pos rfl]
      exact ⟨by decide, by omega⟩
    · rw [if_neg hr]
      rw [regWords, if_neg hr] at hi
      rw [regOff_of_ne hr] at hword
      have hlast := word_le_last hi
      obtain hlow | ⟨hstride, hbase, htop⟩ := regPlace_before_counters hr
      · omega
      · rw [hstride] at hword
        exact ⟨hbase, by omega⟩
  case fields =>
    intro s r i v f hf
    rw [getF_vfWriteReg s i v hf]
    split
    case isTrue h => exact .inr ⟨h.1, h.2, rfl⟩
    case isFalse => exact .inl rfl
  case others =>
    intro s r q i j v hi hj h
    by_cases hq : q = r
    · subst hq
      exact regGet_regSet_ne s _ hi hj (.inr (h.resolve_left (absurd rfl)))
    · exact regGet_regSet_ne s _ hi hj (.inl hq)

/-! ## What MCTP reaches -/

/-- An offset that MCTP reads as a register is the register's own. -/
theorem of_mctpAt_reg {off : Nat} {r : Reg} {i : Nat} (h : mctpAt off = .reg r i) :
    off = regOff r i ∧ mctpReg r = true := by
  unfold mctpAt at h
  split at h
  · contradiction
  split at h
  · contradiction
  split at h
  · contradiction
  split at h
  case h_1 q j hat =>
    split at h
    · injection h with hr hi
      subst hr hi
      exact ⟨((regAt_eq_some_iff off q j).mp hat).1, ‹_›⟩
    · contradiction
  case h_2 => contradiction

theorem place_of_mctpReg {r : Reg} (h : mctpReg r = true) :
    r ∈ [.GLB_ID, .GLB_STAT, .GLB_RST, .SEC_BOOT, .SEC_DBG] ∨ (regPlace r).base / 0x100000 ∈ [0x14, 0x16] := by
  have hall : ∀ r ∈ allRegs, mctpReg r = true →
      r ∈ [.GLB_ID, .GLB_STAT, .GLB_RST, .SEC_BOOT, .SEC_DBG] ∨ (regPlace r).base / 0x100000 ∈ [0x14, 0x16] := by
    decide +kernel
  exact hall r (mem_allRegs r) h

/-- Settles O16. -/
theorem mctpReachesItsRegistersAlone : Obligations.MctpReachesItsRegistersAlone := by
  have hobs (ps : List Part) (ho : Part.obs ∈ ps) (s : State) (c : Nat) :
      answer ps s (mctpAnswer s c none) = .next (mctpAnswer s c none) := (obsAlone_emit ..).answer_eq ho
  refine ⟨?registers, ?reserved, ?dark⟩
  case registers =>
    intro off r i h
    obtain ⟨hoff, hreg⟩ := of_mctpAt_reg h
    exact ⟨hoff, place_of_mctpReg hreg⟩
  case reserved =>
    intro off v s hs hat
    refine ⟨?_, ?_⟩
    · show execMctpRead off s = _
      rw [execMctpRead, whenSill_of_sill hs, hat]
      exact hobs _ (by decide) s 1
    · show execMctpWrite off v s = _
      rw [execMctpWrite, whenSill_of_sill hs, hat]
      exact hobs _ (by decide) s 1
  case dark =>
    intro off v s r i hs hstage hat hr
    have hfast : mctpFast s = false := by simp [mctpFast, hstage]
    have hsill : sillReg r = false := by
      have hall : ∀ r ∈ [Reg.GLB_ID, .GLB_STAT, .GLB_RST, .SEC_BOOT, .SEC_DBG], sillReg r = false := by decide
      exact hall r hr
    have hguard : (!sillReg r && !mctpFast s) = true := by rw [hsill, hfast]; rfl
    refine ⟨?_, ?_⟩
    · show execMctpRead off s = _
      rw [execMctpRead, whenSill_of_sill hs, hat]
      exact (congrArg (answer _ s) (if_pos hguard)).trans (hobs _ (by decide) s 2)
    · show execMctpWrite off v s = _
      rw [execMctpWrite, whenSill_of_sill hs, hat]
      exact (congrArg (answer _ s) (if_pos hguard)).trans (hobs _ (by decide) s 2)

end Sys2Proof.Machine
end

section
/-! The counters (R586, R588): what one occurrence adds to each (O17). -/
namespace Sys2Proof.Machine

/-- A register of the register file is read from it alone. -/
theorem getF_congr {s t : State} (h : t.regs = s.regs) {f : Fld} (hf : isEvtReg f.reg = false) (i : Nat) :
    getF t f i = getF s f i := by
  simp [getF, regGet, hf, h]

theorem tstF_congr {s t : State} (h : t.regs = s.regs) {f : Fld} (hf : isEvtReg f.reg = false) (i : Nat) :
    tstF t f i = tstF s f i :=
  congrArg (· != 0) (getF_congr h hf i)

theorem groupPass_congr {s t : State} (h : t.regs = s.regs) (g : Nat) (o : Occ) : groupPass t g o = groupPass s g o := by
  have hget {f : Fld} (hf : isEvtReg f.reg = false) : getF t f g = getF s f g := getF_congr h hf g
  have htst {f : Fld} (hf : isEvtReg f.reg = false) : tstF t f g = tstF s f g := tstF_congr h hf g
  simp only [groupPass, hget (f := CNT_GCFG.TENANT) rfl, hget (f := CNT_GCFG.PRIV) rfl, htst (f := CNT_GCFG.TOWN) rfl,
    htst (f := CNT_GCFG.TSEL) rfl, hget (f := CNT_GCFG.MKIND) rfl, hget (f := CNT_GCFG.MNUM) rfl,
    htst (f := CNT_GCFG.SAEN) rfl, hget (f := CNT_GSALO.SA) rfl, hget (f := CNT_GSAHI.SA) rfl,
    htst (f := CNT_GCFG.CLASSEN) rfl, hget (f := CNT_GCFG.CLASS) rfl]

@[simp] theorem regSet_cval (s : State) (r : Reg) (i : Nat) (v : W64) : (regSet s r i v).obs.cval = s.obs.cval := by
  unfold regSet
  split <;> rfl

@[simp] theorem setF_cval (s : State) (f : Fld) (i x : Nat) : (setF s f i x).obs.cval = s.obs.cval := regSet_cval ..

@[simp] theorem ledgerCore_cval (s : State) (code sev : Nat) (ten : Option Nat) (args : List Nat) :
    (ledgerCore s code sev ten args).obs.cval = s.obs.cval := by
  simp only [ledgerCore, apply_ite State.obs, apply_ite Obs.cval, ite_self]

@[simp] theorem msix_cval (s : State) (n v off : Nat) : (msix s n v off).obs.cval = s.obs.cval := by
  simp [msix, apply_ite State.obs, apply_ite Obs.cval, emit, setFn]

@[simp] theorem alertEdge_cval (s t : State) : (alertEdge s t).obs.cval = t.obs.cval := by
  unfold alertEdge
  split <;> rfl

@[simp] theorem setEvt_cval (s : State) (f : Fld) : (setEvt s f).obs.cval = s.obs.cval := by
  unfold setEvt
  split
  · rfl
  · split <;> simp

@[simp] theorem sampleTake_cval (s : State) (ev : Nat) (o : Occ) : (sampleTake s ev o).obs.cval = s.obs.cval := by
  simp [sampleTake, apply_ite State.obs, apply_ite Obs.cval]

/-- Counter `n`'s share of an occurrence. -/
def countOne (ev units : Nat) (o : Occ) (s : State) (n : Nat) : State :=
  if getF s CNT_EVSEL.EVENT n = ev && groupPass s (n / 8) o then
    let s := { s with obs := { s.obs with cval := mputD 0 s.obs.cval n (mgetD 0 s.obs.cval n + BitVec.ofNat 64 units) } }
    if getF s CNT_SMPCTL.CTR = n then sampleTake s ev o else s
  else s

section
variable (ev units : Nat) (o : Occ) (s : State)

theorem bump_eq (h : tstF s CNT_CTL.EN = true) (hev : ev ≠ 0) :
    bump s ev units o = (List.range 128).foldl (countOne ev units o) s := by
  unfold bump
  rw [if_neg (by simp [h, hev])]
  rfl

@[simp] theorem countOne_regs (n : Nat) : (countOne ev units o s n).regs = s.regs := by
  simp [countOne, apply_ite State.regs]

theorem countOne_cval (n : Nat) : (countOne ev units o s n).obs.cval =
    if getF s CNT_EVSEL.EVENT n = ev ∧ groupPass s (n / 8) o = true
    then mputD 0 s.obs.cval n (mgetD 0 s.obs.cval n + BitVec.ofNat 64 units) else s.obs.cval := by
  simp [countOne, apply_ite State.obs, apply_ite Obs.cval]

theorem countOne_cval_same (n : Nat) : mgetD 0 (countOne ev units o s n).obs.cval n =
    if getF s CNT_EVSEL.EVENT n = ev ∧ groupPass s (n / 8) o = true
    then mgetD 0 s.obs.cval n + BitVec.ofNat 64 units else mgetD 0 s.obs.cval n := by
  rw [countOne_cval]
  split
  · exact mgetD_mputD_same ..
  · rfl

theorem countOne_cval_ne {n k : Nat} (h : k ≠ n) :
    mgetD 0 (countOne ev units o s n).obs.cval k = mgetD 0 s.obs.cval k := by
  rw [countOne_cval]
  split
  · exact mgetD_mputD_ne _ _ _ _ h
  · rfl

/-- The counters take their shares one behind the other, and no share reaches what selects the next. -/
theorem foldl_countOne_cval (k : Nat) (t : State) (hregs : t.regs = s.regs) (n : Nat) :
    mgetD 0 ((List.range k).foldl (countOne ev units o) t).obs.cval n =
      if n < k ∧ getF s CNT_EVSEL.EVENT n = ev ∧ groupPass s (n / 8) o = true
      then mgetD 0 t.obs.cval n + BitVec.ofNat 64 units else mgetD 0 t.obs.cval n := by
  induction k with
  | zero => simp
  | succ k ih =>
    have hfold : ((List.range k).foldl (countOne ev units o) t).regs = s.regs :=
      List.foldlRecOn _ _ (motive := fun u : State => u.regs = s.regs) hregs fun u hu m _ => by simp [hu]
    rw [List.range_succ, List.foldl_append]
    by_cases hn : n = k
    · subst hn
      have hself : ¬ (n < n ∧ getF s CNT_EVSEL.EVENT n = ev ∧ groupPass s (n / 8) o = true) :=
        fun h => Nat.lt_irrefl n h.1
      rw [if_neg hself] at ih
      refine (countOne_cval_same ev units o _ n).trans ?_
      rw [getF_congr hfold rfl, groupPass_congr hfold, ih]
      simp
    · refine (countOne_cval_ne ev units o _ hn).trans (ih.trans ?_)
      have hlt : n < k ↔ n < k + 1 := by omega
      simp only [hlt]

end

/-- Settles O17. -/
theorem countersCountWhatPasses : Obligations.CountersCountWhatPasses := by
  intro s ev units o n hn
  by_cases hon : tstF s CNT_CTL.EN = true ∧ ev ≠ 0
  · rw [bump_eq ev units o s hon.1 hon.2, foldl_countOne_cval ev units o s 128 s rfl n]
    simp [hn, hon.1, hon.2]
  · have hoff : bump s ev units o = s := by
      unfold bump
      rw [if_pos]
      by_cases hen : tstF s CNT_CTL.EN = true <;> simp_all
    rw [hoff, if_neg (fun h => hon ⟨h.1, h.2.1⟩)]

end Sys2Proof.Machine
end

section
/-! Commands behind the chip's guards: a command that its guard lets act answers what its meaning makes of the state. -/
namespace Sys2Proof.Machine

section
variable {c : Instr} {s t : State} {f : State → State}

theorem Answers.of_eq {u : State} (h : exec c s = answer (touches c) s u) (e : u = t) : Answers c s t := e ▸ h

theorem answers_of_live (h : exec c s = answer (touches c) s (whenLive s f)) (hlive : live s = true) (e : f s = t) :
    Answers c s t :=
  .of_eq h ((whenLive_of_live hlive f).trans e)

theorem answers_of_fast (h : exec c s = answer (touches c) s (whenFast s f)) (hfast : s.pwr.fast = true)
    (honly : s.hst.only = false) (e : f s = t) : Answers c s t :=
  .of_eq h ((whenFast_of_fast hfast honly f).trans e)

theorem answers_of_clock (h : exec c s = answer (touches c) s (whenClock s f)) (hfast : s.pwr.fast = true)
    (e : f s = t) : Answers c s t :=
  .of_eq h ((whenClock_of_fast hfast f).trans e)

theorem answers_of_sill (h : exec c s = answer (touches c) s (whenSill s f)) (hsill : s.pwr.sill = true)
    (e : f s = t) : Answers c s t :=
  .of_eq h ((whenSill_of_sill hsill f).trans e)

theorem answers_of_host (h : exec c s = answer (touches c) s (whenHost s f)) (hsill : s.pwr.sill = true)
    (hstage : 2 ≤ stage s) (e : f s = t) : Answers c s t :=
  .of_eq h ((whenHost_of_stage hsill hstage f).trans e)

end

/-- An operator whose descriptor neither stops nor is held back goes on at its tile boundary. -/
theorem atBoundary_of_open {s : State} {sq : Nat} {sl : Slot} {go : Slot → State} (hslot : slotOf s sq = some sl)
    (hph : sl.ph = .launched ∨ sl.ph = .running) (hstop : sl.stop = none) (hheld : heldBack s sq = false) :
    atBoundary s sq go = go sl := by
  obtain hph | hph := hph <;> simp [atBoundary, hslot, hph, hstop, hheld]

section
variable {c : Instr} {s t : State} {oc sq : Nat} {sl : Slot} (hb : Begins s oc sq sl)
include hb

theorem begins_of_begins (go : Slot → State) : begins s oc sq go = go sl := by
  obtain ⟨-, hslot, hph, hop, hstop, hheld⟩ := hb
  exact begins_launched hslot hph hop hstop hheld

theorem answers_of_begins {go : State → Slot → State}
    (h : exec c s = answer (touches c) s (whenLive s fun s => begins s oc sq (go s))) (e : go s sl = t) : Answers c s t :=
  answers_of_live h hb.1 ((begins_of_begins hb _).trans e)

end

end Sys2Proof.Machine
end

section
/-! Extent records, version records and tier 2 lines (O18). -/
namespace Sys2Proof.Machine

/-- A write of bytes 0 to 7 with VALID set applies the record, where the record takes one. -/
theorem extLowWrite_of_apply {s : State} {tr e : Nat} (v : W64) (hpop : populated s tr e = true)
    (hpool : poolRecord s tr e = false) (hclear : btst (extRec s tr e) EXT.VALID = false)
    (hst : bget (extRec s tr e) EXT.STATE ≠ exRetiring) (hv : btst v EXT.VALID = true) :
    extLowWrite s tr e v = extApply s tr e v := by
  simp [extLowWrite, hpop, hpool, hclear, hst, hv]

theorem extLowWrite_of_clear {s : State} {tr e : Nat} (v : W64) (hpop : populated s tr e = true)
    (hpool : poolRecord s tr e = false) (hvalid : btst (extRec s tr e) EXT.VALID = true)
    (hst : bget (extRec s tr e) EXT.STATE ≠ exRetiring) (hv : btst v EXT.VALID = false) :
    extLowWrite s tr e v = extClear s tr e := by
  simp [extLowWrite, hpop, hpool, hvalid, hst, hv]

/-- The record that an applying write leaves. -/
def applied (s : State) (tr e : Nat) (v : W64) : BitVec 128 :=
  bset (bset (extRec s tr e) ⟨0, 64⟩ v.toNat) EXT.STATE exNormal

theorem extApply_of_sys {s : State} {tr e : Nat} {v : W64} (hok : extOk s tr (applied s tr e v) = true)
    (hsys : btst (applied s tr e v) EXT.SYS = true) :
    extApply s tr e v =
      let u := wardCopy (setExt s tr e (applied s tr e v)) tr e
      if tr = 1 then trimBlocks u e (keyOf u (applied s tr e v)) else u := by
  unfold applied at hok hsys
  simp [extApply, hok, hsys, applied]

theorem extApply_of_tenant {s : State} {tr e : Nat} {v : W64} (hok : extOk s tr (applied s tr e v) = true)
    (hsys : btst (applied s tr e v) EXT.SYS = false)
    (hroom : getF s (extQuota tr).1 (bget (applied s tr e v) EXT.OWNER) <
      limitQ s (extQuota tr).2.1 (bget (applied s tr e v) EXT.OWNER) (extQuota tr).2.2.1) :
    extApply s tr e v =
      let u := wardCopy (setExt (chargeQ s (extQuota tr).1 (bget (applied s tr e v) EXT.OWNER) true) tr e
        (applied s tr e v)) tr e
      if tr = 1 then trimBlocks u e (keyOf u (applied s tr e v)) else u := by
  unfold applied at hok hsys hroom
  simp [extApply, hok, hsys, applied, Nat.not_le.mpr hroom]

theorem bget_valid (v : W64) : bget v EXT.VALID = (v.getLsbD 0).toNat := by
  have hbit : v.getLsbD 0 = decide (v.toNat % 2 = 1) := Nat.testBit_zero _
  have hget : bget v EXT.VALID = v.toNat % 2 := by simp [bget, EXT.VALID, BitVec.extractLsb'_toNat]
  rw [hget, hbit]
  obtain h | h := Nat.mod_two_eq_zero_or_one v.toNat <;> simp [h]

theorem btst_valid_or (v : W64) : btst (v ||| 1) EXT.VALID = true := by
  simp [btst, bget_valid]

theorem btst_valid_and (v : W64) : btst (v &&& ~~~1#64) EXT.VALID = false := by
  simp [btst, bget_valid]

theorem tierOf_eq_one (far : Bool) : tierOf far = 1 ↔ far = true := by cases far <;> decide

/-- Settles O18. -/
theorem storeRecordCommands : Obligations.StoreRecordCommands := by
  refine ⟨?high, ?applySys, ?applyTenant, ?clear, ?retire, ?wide, ?version, ?word⟩
  case high =>
    intro far e v s hlive hpop hpool hvalid hst
    exact answers_of_live rfl hlive (by simp [extHighWrite, hpop, hpool, hvalid, hst])
  case applySys =>
    rintro far e v s r hlive hpop hpool hvalid hst rfl hok hsys
    refine answers_of_live rfl hlive ?_
    rw [extLowWrite_of_apply _ hpop hpool hvalid hst (btst_valid_or v), extApply_of_sys hok hsys]
    cases far <;> rfl
  case applyTenant =>
    rintro far e v s r u hlive hpop hpool hvalid hst rfl hok hsys hroom rfl
    refine answers_of_live rfl hlive ?_
    rw [extLowWrite_of_apply _ hpop hpool hvalid hst (btst_valid_or v), extApply_of_tenant hok hsys hroom]
    cases far <;> rfl
  case clear =>
    intro far e v s hlive hpop hpool hvalid hst
    exact answers_of_live rfl hlive (extLowWrite_of_clear _ hpop hpool hvalid hst (btst_valid_and v))
  case retire =>
    rintro far e s u hlive rfl hst hquiet
    exact answers_of_live rfl hlive (if_pos ⟨hst, hquiet⟩)
  case wide =>
    intro off v prv ten s hlive hmay
    exact answers_of_live rfl hlive (if_pos hmay)
  case version =>
    intro rgn v s hlive hrgn
    exact answers_of_live rfl hlive (if_neg (Nat.not_le.mpr hrgn))
  case word =>
    intro rgn w v s hlive hrgn hw
    exact answers_of_live rfl hlive ((if_neg (Nat.not_le.mpr hrgn)).trans (if_pos hw))

end Sys2Proof.Machine
end

section
/-! PUBLISH, mirror writes and parity (O19). -/
namespace Sys2Proof.Machine

section
variable {s : State} {sq : Nat} {sl : Slot} {x : SAExt} {rem : RemRecs} (hslot : slotOf s sq = some sl)
  (hstop : sl.stop = none) (hheld : heldBack s sq = false) (hph : sl.ph = .launched) (hop : opcode sl.d = ocPublish)
  (hexts : extsOf sl 0 = [x]) (hlen : x.len = bget (publishRec s sl.d rem) VER.LENGTH)
  (hbase : x.base % pageBytes (bget (publishRec s sl.d rem) VER.PSIZE + 1) = 0)
  (hfenced : fencedChip s (par sl.d 58 2 % 1024) = false)
include hslot hstop hheld hph hop hexts hlen hbase hfenced

theorem publish_of_here (hhome : par sl.d 58 2 % 1024 = own s) :
    publish s sq rem = publishHome (setSlot s sq { sl with ph := .running, work := .await sq })
      { rgn := par sl.d 56 2 % 2 ^ 14, chip := own s, tag := sq, base := x.base, expected := par sl.d 48 8,
        dl := deadlineAt s sl.ctx sl.ftime sl.d } := by
  rw [hhome] at hfenced
  rw [publish, atBoundary_of_open hslot (.inl hph) hstop hheld]
  simp [hph, hop, hexts, hlen, hbase, hhome, hfenced]

theorem publish_of_away (hhome : par sl.d 58 2 % 1024 ≠ own s) (hrouted : routed s (par sl.d 58 2 % 1024) = true) :
    publish s sq rem = send (setSlot s sq { sl with ph := .running, work := .await sq })
      (publishMsg (setSlot s sq { sl with ph := .running, work := .await sq }) (par sl.d 58 2 % 1024)
        { rgn := par sl.d 56 2 % 2 ^ 14, chip := own s, tag := sq, base := x.base, expected := par sl.d 48 8,
          dl := deadlineAt s sl.ctx sl.ftime sl.d }) := by
  rw [publish, atBoundary_of_open hslot (.inl hph) hstop hheld]
  simp [hph, hop, hexts, hlen, hbase, hhome, hfenced, hrouted]

end

/-- Settles O19. -/
theorem publishAndRedundancyCommands : Obligations.PublishAndRedundancyCommands := by
  refine ⟨?here, ?away, ?home, ?drained, ?result, ?mirror, ?mirrorHome, ?delta, ?ack⟩
  case here =>
    intro sq sl x rem s hlive hslot hstop hheld hph hop hexts hlen hbase hhome hfenced
    exact answers_of_live rfl hlive
      (publish_of_here hslot hstop hheld hph hop hexts hlen hbase (hhome ▸ hfenced) hhome)
  case away =>
    rintro sq sl x rem s _ hlive hslot hstop hheld hph hop hexts hlen hbase rfl hhome hrouted hfenced
    exact answers_of_live rfl hlive
      (publish_of_away hslot hstop hheld hph hop hexts hlen hbase hfenced hhome hrouted)
  case home =>
    intro rgn base expected chip tag dl s hlive hchip
    exact answers_of_live rfl hlive (if_neg (by simp [hchip]))
  case drained =>
    intro id h s hlive hshoot hpub
    exact answers_of_live rfl hlive (by simp [hshoot, hpub])
  case result =>
    intro tag st ver s sq sl hlive hfind hhome hst
    exact answers_of_live rfl hlive (by simp [hfind, hhome, hst])
  case mirror =>
    intro tag m s hlive hfind hhtx
    exact answers_of_live rfl hlive (by simp [mirrorAccept, hfind, hhtx])
  case mirrorHome =>
    intro tag m h x s hlive hfind hhtx hx htr
    exact answers_of_live rfl hlive (by simp [mirrorAccept, hfind, hhtx, hx, htr])
  case delta =>
    rintro chip tag sa pos delta s r hlive hchip htier rfl hvalid hclass hpos hlt hst hch
    exact answers_of_live rfl hlive (if_neg (by simp [hchip, htier, hvalid, hclass, hpos, hlt, hst, hch]))
  case ack =>
    intro sa isQ ok s p g hlive hpage hpar
    refine answers_of_live rfl hlive ?_
    cases isQ
    case false => simp [hpage, show g.parP = true from hpar]
    case true => simp [hpage, show g.parQ = true from hpar]

end Sys2Proof.Machine
end

section
/-! Translation, fault records and resumption (O20), shootdowns (O21). -/
namespace Sys2Proof.Machine

/-! ## Stops and resumptions -/

/-- With the last cause ended a stopped queue runs again. -/
theorem unstop_of_last {s : State} {n : Nat} {c : StopCause} (hstopped : mgetD [] s.que.stopped n = [c])
    (hst : cq s n QCTX.STATE = qStopped) :
    unstop s n c = setQ { s with que := { s.que with stopped := mputD [] s.que.stopped n [] } } n QCTX.STATE qRunning := by
  have hst' (q : AMap (List StopCause)) : cq { s with que := { s.que with stopped := q } } n QCTX.STATE = qStopped := hst
  simp [unstop, hstopped, hst']

/-- Another cause that is left keeps the queue as it is. -/
theorem unstop_of_other {s : State} {n : Nat} {c d : StopCause} (hstopped : mgetD [] s.que.stopped n = [d, c])
    (hne : d ≠ c) :
    unstop s n c = { s with que := { s.que with stopped := mputD [] s.que.stopped n [d] } } := by
  simp [unstop, hstopped, hne]

section
variable {s : State} {ten p : Nat} {k : Parked} {f : State → Parked → State}
  (hpark : mget s.que.park (p % 2048) = some k) (hten : qTen s k.slot.ctx = ten)
include hpark hten

theorem resume_of_early (hlate : parkLate s k = false) :
    resume s ten p (mgetD 0 s.que.parkGen (p % 2048)) f = f s k := by
  simp [resume, hpark, hten, hlate]

theorem resume_of_late (hlate : parkLate s k = true) :
    resume s ten p (mgetD 0 s.que.parkGen (p % 2048)) f =
      staleResume (parkEnd s (p % 2048) (0x0100 + k.kind)) ten p (mgetD 0 s.que.parkGen (p % 2048)) := by
  simp [resume, hpark, hten, hlate]

end

/-- Settles O20. -/
theorem translationCommands : Obligations.TranslationCommands := by
  refine ⟨?walk, ?preload, ?record, ?batch, ?head, ?enable, ?retry, ?abort, ?late, ?deadline, ?slotLast, ?slotOther,
    ?spillLast, ?spillOther⟩
  case walk =>
    intro sq rem sl s hlive hslot hnext hop hops
    refine answers_of_live rfl hlive ?_
    simp only [translate, hslot, hnext, hops, Bool.not_true, Bool.false_eq_true, if_false]
    rw [if_neg (fun h => hop h.1 h.2)]
    simp
  case preload =>
    intro sq rem sl s hlive hslot hnext hop hsub
    exact answers_of_live rfl hlive (by simp [translate, hslot, hnext, hop, hsub])
  case record =>
    intro ten e l s hlive hheld hen hroom
    exact answers_of_live rfl hlive (by simp [faultWrite, hheld, hen, hroom])
  case batch =>
    intro ten n s hlive hbatch
    exact answers_of_live rfl hlive (if_pos (by simp [hbatch]))
  case head =>
    intro ten v s hlive
    exact answers_of_live rfl hlive rfl
  case enable =>
    rintro ten v s u hlive rfl
    exact answers_of_live rfl hlive rfl
  case retry =>
    intro ten p k s hlive hpark hten hlate
    exact answers_of_live rfl hlive (resume_of_early hpark hten hlate)
  case abort =>
    intro ten p k s hlive hpark hten hlate
    exact answers_of_live rfl hlive (resume_of_early hpark hten hlate)
  case late =>
    intro ten p k s hlive hpark hten hlate
    exact answers_of_live rfl hlive (resume_of_late hpark hten hlate)
  case deadline =>
    intro p k s hlive hpark hdl
    exact answers_of_live rfl hlive (by simp [hpark, hdl])
  case slotLast =>
    rintro n s u hlive hfree hstopped hst rfl
    exact answers_of_live rfl hlive ((if_pos hfree).trans (unstop_of_last hstopped hst))
  case slotOther =>
    intro n s hlive hfree hstopped
    exact answers_of_live rfl hlive ((if_pos hfree).trans (unstop_of_other hstopped (by decide)))
  case spillLast =>
    rintro n s u hlive hroom hstopped hst rfl
    exact answers_of_live rfl hlive ((if_pos hroom).trans (unstop_of_last hstopped hst))
  case spillOther =>
    intro n s hlive hroom hstopped
    exact answers_of_live rfl hlive ((if_pos hroom).trans (unstop_of_other hstopped (by decide)))

/-! ## Shootdowns -/

/-- Settles O21. -/
theorem shootdownCommands : Obligations.ShootdownCommands := by
  refine ⟨?va, ?tenant, ?extent, ?region, ?reserved, ?drained, ?shoot, ?ack⟩
  case va | tenant | extent | region =>
    rintro v s u hlive rfl hroom
    exact answers_of_live rfl hlive (if_neg (Nat.not_le.mpr hroom))
  case reserved =>
    intro v s hfast honly hkind
    exact answers_of_fast rfl hfast honly (if_neg (Nat.not_lt.mpr hkind))
  case drained =>
    intro id h s hlive hshoot hpub hholders hwait hsrc
    exact answers_of_live rfl hlive (by simp [hshoot, hpub, shootDrained, hholders, hwait, hsrc])
  case shoot =>
    rintro chip id kind addr len ten s u hlive hshoot hkind hfenced rfl
    exact answers_of_live rfl hlive (if_neg (by simp [hshoot, hfenced, Nat.not_le.mpr hkind]))
  case ack =>
    intro chip id drained h s hlive hfind
    exact answers_of_live rfl hlive (by simp [hfind])

end Sys2Proof.Machine
end

section
/-! Queue contexts, doorbells and moderation (O22). -/
namespace Sys2Proof.Machine

/-! ## Words of a context -/

/-- EN is a bit of word 2 that a write may change. -/
theorem maskBit_ctxRw_en : maskBit (ctxRw.extractLsb' 128 64) 0 = true := by decide +kernel

section
variable {s : State} {n : Nat} {v : W64} (hst : cq s n QCTX.STATE ≠ qDraining)
include hst

theorem ctxWrite_of_setsEn (hbit : maskBit v 0 = true) (hen : cq s n QCTX.EN ≠ 1) :
    ctxWrite s n 2 v = enableCtx s n (v &&& ctxRw.extractLsb' 128 64) := by
  have hmask : maskBit (v &&& ctxRw.extractLsb' 128 64) 0 = true := by
    rw [maskBit, BitVec.getLsbD_and, Bool.and_eq_true]
    exact ⟨hbit, maskBit_ctxRw_en⟩
  unfold ctxWrite
  rw [if_neg (by decide), if_neg (by decide), if_neg hst, if_neg hen]
  exact if_pos ⟨rfl, hmask⟩

theorem ctxWrite_of_clearsEn (hbit : maskBit v 0 = false) (hen : cq s n QCTX.EN = 1) :
    ctxWrite s n 2 v = disableCtx s n := by
  have hmask : maskBit (v &&& ctxRw.extractLsb' 128 64) 0 = false := by
    rw [maskBit, BitVec.getLsbD_and, Bool.and_eq_false_iff]
    exact .inl hbit
  unfold ctxWrite
  rw [if_neg (by decide), if_neg (by decide), if_neg hst, if_pos hen]
  exact if_pos ⟨rfl, by rw [hmask]; rfl⟩

end

/-- STATE is not among the fields that name a queue's owner. -/
theorem qPrv_setQ_state (s : State) (n x : Nat) : qPrv (setQ s n QCTX.STATE x) n = qPrv s n :=
  congrArg (· != 0) (cq_setQ_apart s n QCTX.STATE QCTX.PRIV x (by decide) (by decide))

theorem qTen_setQ_state (s : State) (n x : Nat) : qTen (setQ s n QCTX.STATE x) n = qTen s n :=
  cq_setQ_apart s n QCTX.STATE QCTX.TENANT x (by decide) (by decide)

/-- Settles O22. -/
theorem queueCommands : Obligations.QueueCommands := by
  refine ⟨?enable, ?disable, ?drained, ?tail, ?head, ?resume, ?cancelAll, ?cancelTag, ?missized, ?signal, ?signalHeld⟩
  case enable =>
    intro n v s hlive hn hst hen
    exact answers_of_live rfl hlive ((if_pos hn).trans (ctxWrite_of_setsEn hst (by simp [maskBit]) hen))
  case disable =>
    intro n v s hlive hn hst hen
    exact answers_of_live rfl hlive ((if_pos hn).trans (ctxWrite_of_clearsEn hst (by simp [maskBit]) hen))
  case drained =>
    intro n s hlive hst hinfl
    refine answers_of_live rfl hlive ((if_pos ⟨hst, hinfl⟩).trans ?_)
    simp only [qPrv_setQ_state, qTen_setQ_state]
  case tail =>
    intro prv ten q v n s hlive hbell hroom
    exact answers_of_live rfl hlive (by simp [ringSqTail, hbell, hroom])
  case head =>
    intro prv ten q v n s hlive hbell hroom
    exact answers_of_live rfl hlive (by simp [ringCqHead, hbell, hroom])
  case resume =>
    intro prv ten q n s hlive hbell hst
    exact answers_of_live rfl hlive (by simp [ringResume, hbell, hst])
  case cancelAll =>
    intro prv ten q n s hlive hbell
    exact answers_of_live rfl hlive (by simp [ringCancel, hbell])
  case cancelTag =>
    rintro prv ten q tag n s u hlive hbell rfl
    exact answers_of_live rfl hlive (by simp only [ringCancel, hbell])
  case missized =>
    intro prv page off s hlive
    exact answers_of_live rfl hlive rfl
  case signal =>
    intro n k s hlive hsignal hpend
    exact answers_of_live rfl hlive ((if_pos (by simp [hsignal])).trans (if_neg (Bool.not_eq_true _ ▸ hpend)))
  case signalHeld =>
    intro n k s hlive hsignal hpend
    exact answers_of_live rfl hlive ((if_pos (by simp [hsignal])).trans (if_pos hpend))

end Sys2Proof.Machine
end

section
/-! Fetch, arrival, launch, deadline and failed host reads (O23). -/
namespace Sys2Proof.Machine

/-! ## Reads by the chip itself -/

/-- `t` holds what a read of the store asks of `s`: the store, the homes and every register but PWR_STATE and the events. -/
structure ReadsAs (s t : State) : Prop where
  store : t.store = s.store
  home : t.home = s.home
  reg : ∀ (f : Fld) (i : Nat), isEvtReg f.reg = false → f.reg ≠ .PWR_STATE → i < 65536 → getF t f i = getF s f i

theorem readsAs_bump (s : State) (ev units : Nat) (o : Occ) : ReadsAs s (bump s ev units o) :=
  ⟨bump_store .., bump_home .., fun _ i hf _ _ => getF_congr (bump_regs ..) hf i⟩

namespace ReadsAs
variable {s t : State} (h : ReadsAs s t)
include h

theorem trans {u : State} (h' : ReadsAs t u) : ReadsAs s u :=
  ⟨h'.store.trans h.store, h'.home.trans h.home, fun f i hf hp hi => (h'.reg f i hf hp hi).trans (h.reg f i hf hp hi)⟩

theorem own : own t = own s := h.reg GLB_CHIPID.CHIP 0 rfl (by decide) (by decide)

theorem extRec (tr e : Nat) : extRec t tr e = extRec s tr e := by
  unfold Machine.extRec
  rw [h.store]

theorem keyOf (r : BitVec 128) : keyOf t r = keyOf s r := by
  have howner : bget r EXT.OWNER < 65536 := lt_of_lt_of_le (bget_lt r EXT.OWNER) (by decide)
  simp only [Machine.keyOf, sysKey, tenKey, h.reg SEC_FSID.FSID 0 rfl (by decide) (by decide),
    h.reg TEN_SECCTL.KGEN _ rfl (by decide) howner]

theorem pcOf (off : Nat) : pcOf t off = pcOf s off := by
  unfold Machine.pcOf granule tstF
  rw [h.reg TIER_NEARILV.GRAN 0 rfl (by decide) (by decide), h.reg TIER_NEARILV.HASH_OFF 0 rfl (by decide) (by decide),
    h.store]

theorem nearRead (k off : Nat) : nearRead t k off = nearRead s k off := by
  unfold Machine.nearRead nearRaw
  rw [h.pcOf, h.store]

theorem wardRec (tr e : Nat) : wardRec t tr e = wardRec s tr e := by
  unfold Machine.wardRec sysLine adrF tstF sysKey
  rw [h.reg SEC_FSID.FSID 0 rfl (by decide) (by decide), h.reg RED_WARD.BASE 0 rfl (by decide) (by decide),
    h.reg RED_WARD.EN 0 rfl (by decide) (by decide)]
  simp only [h.nearRead]

theorem recOf (sa : Nat) : recOf t sa = recOf s sa := by
  simp only [Machine.recOf, h.own, h.extRec, h.wardRec]

theorem blkRec (blk : Nat) : blkRec t blk = blkRec s blk := by
  simp only [Machine.blkRec, h.extRec, h.wardRec]

theorem blkKey (sa : Nat) : blkKey t sa = blkKey s sa := by
  simp only [Machine.blkKey, h.own]

theorem pageEntry (g : Page) : pageEntry t g = pageEntry s g := by
  simp only [Machine.pageEntry, heldLines, pageWaiters, pageBlockSa, h.own, h.home, h.blkKey]

theorem poolAt (off : Nat) : poolAt t off = poolAt s off := by
  unfold Machine.poolAt poolCount
  rw [h.reg TIER_STGPOOL.BASE 0 rfl (by decide) (by decide), h.reg TIER_STGPOOL.COUNT 0 rfl (by decide) (by decide)]

theorem poolRead (k off : Nat) : poolRead t k off = poolRead s k off := by
  have hentry : Machine.pageEntry t = Machine.pageEntry s := funext h.pageEntry
  unfold Machine.poolRead
  rw [h.poolAt, hentry, h.store]
  simp only [h.blkRec, h.keyOf]

theorem pageOf (blk : Nat) (mirror : Bool) : pageOf t blk mirror = pageOf s blk mirror := by
  simp only [Machine.pageOf, h.store]

end ReadsAs

/-- The bytes that a line read brings: zeros of a line that is not there. -/
def gotBytes (r : LineRd) (o k : Nat) : List Byte :=
  match r with
  | .got d _ => sliceBytes d o k
  | _ => List.replicate k 0

/-- A line that must be filled first brings nothing. -/
theorem gotBytes_needFill (s : State) (req : HomeReq) (blk o k : Nat) :
    gotBytes (needFill s req blk).1 o k = List.replicate k 0 := by
  unfold needFill
  cases pageOf s blk req.mirror with
  | none =>
    cases allocPage s blk (blkRec s blk) pgFilling req.hint req.mirror
    all_goals
      simp only [gotBytes, apply_ite Prod.fst]
      split_ifs <;> rfl
  | some e =>
    simp only [gotBytes, apply_ite Prod.fst]
    split_ifs <;> rfl

/-- An access changes a page's entry, not its data. -/
theorem data_touchReq (s : State) (g : Page) (req : HomeReq) : (touchReq s (unEvict g) req).data = g.data := by
  simp [touchReq, touchPage, unEvict, pgSet, apply_ite Page.data]

theorem poison_touchReq (s : State) (g : Page) (req : HomeReq) : (touchReq s (unEvict g) req).poison = g.poison := by
  simp [touchReq, touchPage, unEvict, pgSet, apply_ite Page.poison]

/-- The bytes of line `n` of a staged page; zeros of a page that is not there, or not with this line. -/
def stagedBytes (page : Option (Nat × Page)) (n o k : Nat) : List Byte :=
  match page with
  | some (_, g) =>
    if (pgValid g).getLsbD n then sliceBytes (if g.poison.getLsbD n then 0 else pgLine g n) o k else List.replicate k 0
  | none => List.replicate k 0

theorem gotBytes_lineRead_far (s : State) (req : HomeReq) {sa : Nat} (o k : Nat) (hsa : saTier sa ≠ 0) :
    gotBytes (lineRead s req sa).1 o k = stagedBytes (pageOf s (blkKey s sa)) (saOff sa / 64 % 64) o k := by
  unfold lineRead
  rw [if_neg hsa]
  cases hpage : pageOf s (blkKey s sa) with
  | none =>
    simp only [stagedBytes, hpage]
    exact gotBytes_needFill ..
  | some e =>
    simp only [stagedBytes, hpage]
    split
    · simp only [gotBytes, pgLine, poison_touchReq, data_touchReq]
    · exact gotBytes_needFill ..

theorem lineRead_near (s : State) (req : HomeReq) {sa : Nat} (hsa : saTier sa = 0) :
    (lineRead s req sa).1 = .got ((poolRead s (keyOf s (recOf s sa)) (saOff sa)).getD
      (nearRead s (keyOf s (recOf s sa)) (saOff sa / 64 * 64))).1 ((poolRead s (keyOf s (recOf s sa)) (saOff sa)).getD
      (nearRead s (keyOf s (recOf s sa)) (saOff sa / 64 * 64))).2 := by
  have h := readsAs_bump s 0x0401 1 { ten := some req.ten, sa := some sa, prv := if req.prv then 1 else 0 }
  unfold lineRead
  rw [if_pos hsa]
  simp only [h.keyOf, h.recOf, h.poolRead, h.nearRead]

theorem ReadsAs.ownRead {s t : State} (h : ReadsAs s t) (sa n : Nat) : ownRead t sa n = ownRead s sa n := by
  have hbytes (req : HomeReq) (l o k : Nat) : gotBytes (lineRead t req l).1 o k = gotBytes (lineRead s req l).1 o k := by
    by_cases hl : saTier l = 0
    · rw [lineRead_near t req hl, lineRead_near s req hl]
      simp only [h.keyOf, h.recOf, h.poolRead, h.nearRead]
    · rw [gotBytes_lineRead_far t req o k hl, gotBytes_lineRead_far s req o k hl, h.pageOf, h.blkKey]
  exact congrArg List.flatten (List.map_congr_left fun e _ => hbytes _ e.1 e.2.1 e.2.2.1)

/-! ## A fetch -/

/-- The descriptors that a fetch of queue `n` reserves slots for. -/
def fetchSlots (s : State) (n : Nat) : List (Nat × Slot) :=
  (List.range (fetchCount s n)).map fun i => (s.que.nextSeq + i,
    { seq := s.que.nextSeq + i, d := 0, ctx := n, idx := (cq s n QCTX.SQHEAD + i) % 65536, ftime := s.tim.now })

/-- The ring read that a fetch of queue `n` issues. -/
def fetchRead (s : State) (n : Nat) : RingRead :=
  { ctx := n, first := cq s n QCTX.SQHEAD, n := fetchCount s n, seqs := (fetchSlots s n).map (·.1) }

/-- The slots and the ring read that a fetch of queue `n` issues, in the queues. -/
def fetchQue (s : State) (n : Nat) : Que :=
  { s.que with slots := (fetchSlots s n).foldl (fun m e => mput m e.1 e.2) s.que.slots,
               nextSeq := s.que.nextSeq + fetchCount s n, reads := s.que.reads ++ [fetchRead s n] }

/-- What a fetch of queue `n` reserves, before its ring is read. -/
def fetchReserved (s : State) (n : Nat) : State :=
  let u := { s with que := fetchQue s n }
  setF (setQ (setQ u n QCTX.SQHEAD (cq s n QCTX.SQHEAD + fetchCount s n)) n QCTX.INFL (cq u n QCTX.INFL + fetchCount s n))
    PWR_STATE.CUR 0 0

section
variable (s : State) (n : Nat)

theorem fetchReserved_nextSeq : (fetchReserved s n).que.nextSeq = s.que.nextSeq + fetchCount s n :=
  (congrArg Que.nextSeq (setF_que ..)).trans rfl

theorem fetchReserved_reads : (fetchReserved s n).que.reads = s.que.reads ++ [fetchRead s n] :=
  (congrArg Que.reads (setF_que ..)).trans rfl

theorem cq_congr {s t : State} (h : t.que.ctx = s.que.ctx) (n : Nat) (f : BF) : cq t n f = cq s n f := by
  rw [cq, cq, ctxOf, ctxOf, h]

/-- Slots and ring reads are no part of a context. -/
theorem ctx_of_fetch (q : Que) (slots : AMap Slot) (next : Nat) (reads : List RingRead) :
    ({ q with slots := slots, nextSeq := next, reads := reads } : Que).ctx = q.ctx := rfl

theorem cq_of_que (s : State) (q : Que) (n : Nat) (f : BF) : cq { s with que := q } n f = bget (mgetD 0 q.ctx n) f := rfl

theorem cq_fetchQue (f : BF) : cq { s with que := fetchQue s n } n f = cq s n f := by
  have hctx : (fetchQue s n).ctx = s.que.ctx := ctx_of_fetch ..
  rw [cq_of_que, hctx]
  rfl

/-- The fields of a context that a fetch does not move. -/
theorem cq_fetchReserved {f : BF} (hhead : f.lo + f.w ≤ QCTX.SQHEAD.lo ∨ QCTX.SQHEAD.lo + QCTX.SQHEAD.w ≤ f.lo)
    (hinfl : f.lo + f.w ≤ QCTX.INFL.lo ∨ QCTX.INFL.lo + QCTX.INFL.w ≤ f.lo) : cq (fetchReserved s n) n f = cq s n f := by
  unfold fetchReserved
  rw [cq_congr (congrArg Que.ctx (setF_que ..)), cq_setQ_apart _ _ _ _ _ (by decide) hinfl,
    cq_setQ_apart _ _ _ _ _ (by decide) hhead]
  exact cq_fetchQue s n f

theorem ringAddr_fetchReserved (i : Nat) : ringAddr (fetchReserved s n) n i = ringAddr s n i := by
  simp only [ringAddr, ringSize, cq_fetchReserved s n (f := QCTX.SQADDR) (by decide) (by decide),
    cq_fetchReserved s n (f := QCTX.LOG2N) (by decide) (by decide)]

theorem readsAs_fetchReserved : ReadsAs s (fetchReserved s n) :=
  ⟨setF_store .., setF_home .., fun f i _ hp hi => getF_setF_reg _ PWR_STATE.CUR f 0 i 0 (by decide) hi hp⟩

theorem fetchReserved_sqhead :
    cq (fetchReserved s n) n QCTX.SQHEAD = (cq s n QCTX.SQHEAD + fetchCount s n) % 65536 := by
  unfold fetchReserved
  rw [cq_congr (congrArg Que.ctx (setF_que ..)), cq_setQ_apart _ _ _ _ _ (by decide) (by decide), cq_setQ_same _ _ _ _ (by decide)]
  rfl

theorem fetchReserved_infl :
    cq (fetchReserved s n) n QCTX.INFL = (cq s n QCTX.INFL + fetchCount s n) % 512 := by
  unfold fetchReserved
  rw [cq_congr (congrArg Que.ctx (setF_que ..)), cq_setQ_same _ _ _ _ (by decide), cq_fetchQue]
  rfl

end

section
variable {s : State} {n : Nat} (hmay : mayFetch s n = true) (hcount : 0 < fetchCount s n)
include hmay hcount

/-- The ring is read in the state that the reservation leaves. -/
theorem fetch_of_mayFetch : fetch s n =
    let u := fetchReserved s n
    let a := ringAddr u n (cq s n QCTX.SQHEAD)
    if cq u n QCTX.SQLOC = 1 then
      if saChip a = own u ∧ saTier a = 0 then
        let ds := (List.range (fetchCount s n)).map fun i => ofBytes 1024 (ownRead u (a + 128 * i) 128)
        { u with que := { u.que with reads := u.que.reads.map fun r => if r.ctx = n then { r with data := some ds } else r } }
      else askAt u s.que.nextSeq a (128 * fetchCount s n)
    else emit u (.hostRead (qFn u n) a (128 * fetchCount s n) (n * 65536 + cq s n QCTX.SQHEAD)) := by
  unfold fetch
  rw [if_neg (by simp [hmay, hcount.ne'])]
  rfl

end

/-- The ring read of queue `n` with its bytes. -/
def readNow (q : Que) (n : Nat) (ds : List Desc) : Que :=
  { q with reads := q.reads.map fun r => if r.ctx = n then { r with data := some ds } else r }

theorem readNow_nextSeq (q : Que) (n : Nat) (ds : List Desc) : (readNow q n ds).nextSeq = q.nextSeq := rfl
theorem readNow_ctx (q : Que) (n : Nat) (ds : List Desc) : (readNow q n ds).ctx = q.ctx := rfl

/-- The queues that a command leaves, of one that reaches them. -/
theorem exists_next_que {c : Instr} {s u : State} {f : State → State}
    (h : exec c s = answer (touches c) s (whenLive s f)) (hlive : live s = true) (e : f s = u)
    (hq : (touches c).contains .que = true) : ∃ t, exec c s = .next t ∧ t.que = u.que :=
  ⟨_, answers_of_live h hlive e, by simp [confine, List.contains_iff_mem.mp hq]⟩

/-- Settles O23. -/
theorem descriptorLifeCommands : Obligations.DescriptorLifeCommands := by
  refine ⟨?fetchHost, ?fetchNear, ?arrive, ?arriveLater, ?launch, ?lateUntranslated, ?lateRunning, ?lateTier, ?lateFinishing,
    ?lateWaiting, ?ringFail, ?readFail⟩
  case fetchHost =>
    intro n s hlive hmay hcount hloc
    have hfetch := fetch_of_mayFetch hmay hcount
    have hu : cq (fetchReserved s n) n QCTX.SQLOC ≠ 1 := by
      rw [cq_fetchReserved s n (by decide) (by decide), hloc]
      decide
    simp only [if_neg hu] at hfetch
    obtain ⟨t, hexec, hque⟩ := exists_next_que (c := .descriptorFetch n) rfl hlive hfetch rfl
    have hctx : t.que.ctx = (fetchReserved s n).que.ctx := congrArg Que.ctx hque
    refine ⟨t, hexec, ?_, (cq_congr hctx ..).trans (fetchReserved_sqhead s n),
      (cq_congr hctx ..).trans (fetchReserved_infl s n), ?_⟩
    · exact (congrArg Que.nextSeq hque).trans (fetchReserved_nextSeq s n)
    · rw [(congrArg Que.reads hque).trans (fetchReserved_reads s n)]
      simp [fetchRead]
  case fetchNear =>
    intro n s hlive hmay hcount hloc hchip htier
    have hreads := readsAs_fetchReserved s n
    have hfetch := fetch_of_mayFetch hmay hcount
    simp only [cq_fetchReserved s n (f := QCTX.SQLOC) (by decide) (by decide), ringAddr_fetchReserved, hreads.own,
      hreads.ownRead, hloc, hchip, htier, and_self, if_true] at hfetch
    obtain ⟨t, hexec, hque⟩ := exists_next_que (c := .descriptorFetch n) rfl hlive hfetch rfl
    have hnow : t.que = readNow (fetchReserved s n).que n _ := hque
    have hctx : t.que.ctx = (fetchReserved s n).que.ctx := (congrArg Que.ctx hnow).trans (readNow_ctx ..)
    refine ⟨t, hexec, ?_, (cq_congr hctx ..).trans (fetchReserved_sqhead s n),
      (cq_congr hctx ..).trans (fetchReserved_infl s n), ?_⟩
    · exact (congrArg Que.nextSeq hnow).trans ((readNow_nextSeq ..).trans (fetchReserved_nextSeq s n))
    · rw [hnow, readNow, fetchReserved_reads]
      simp [fetchRead]
  case arrive =>
    rintro n first ds l r s u hlive hfind hdata rfl
    exact answers_of_live rfl hlive (by simp only [arrive, hfind, hdata])
  case arriveLater =>
    intro n first ds r s hlive hfind hdata
    exact answers_of_live rfl hlive (by simp only [arrive, hfind, hdata])
  case launch =>
    intro sq sl s hlive hslot hph hcov hcan
    exact answers_of_live rfl hlive (by simp [launch, hslot, hph, hcov, hcan])
  case lateUntranslated =>
    intro sq sl s hlive hslot hdl hph
    exact answers_of_live rfl hlive (by simp [deadline, hslot, hdl, hph])
  case lateRunning =>
    intro sq sl s hlive hslot hdl hph hlayer hpub htier
    exact answers_of_live rfl hlive (by simp [deadline, hslot, hdl, hph, deadlineRun, hlayer, hpub, htier])
  case lateTier =>
    intro sq sl s st sub hlive hslot hdl hph hlayer hpub htier
    exact answers_of_live rfl hlive (by simp [deadline, hslot, hdl, hph, deadlineRun, hlayer, hpub, htier])
  case lateFinishing =>
    intro sq sl s hlive hslot hdl hph
    exact answers_of_live rfl hlive (by simp [deadline, hslot, hdl, hph])
  case lateWaiting =>
    intro sq sl s hlive hslot hfind hdl
    exact answers_of_live rfl hlive (by simp [deadline, hslot, hfind, hdl])
  case ringFail =>
    intro id cause s hlive
    exact answers_of_live rfl hlive rfl
  case readFail =>
    rintro id cause sq off n sl s u hlive hfind rfl hslot
    exact answers_of_live rfl hlive (by simp [hfind, hslot])

end Sys2Proof.Machine
end

section
/-! NOP, tally and prefetch descriptors, ADVISE (O24). -/
namespace Sys2Proof.Machine

/-- The bytes of a host read that returns, at a tile boundary of its descriptor. -/
theorem hostData_of_open {s : State} {tag sq off n : Nat} {data : List Byte} {sl : Slot}
    (hfind : (s.que.hreads.find? fun h => h.1 == tag) = some (tag, sq, off, n)) {u : State}
    (hu : u = { s with que := { s.que with hreads := s.que.hreads.filter fun h => h.1 != tag } })
    (hslot : slotOf u sq = some sl) (hph : sl.ph = .running) (hstop : sl.stop = none) (hheld : heldBack u sq = false) :
    hostData s tag data =
      let v := storeBytes u sq 1 off ((data ++ List.replicate (n - data.length) 0).take n)
      if v.que.hreads.any fun h => h.2.1 == sq then v else finish v sq stOk 0 (opLen sl.d 1) := by
  subst hu
  simp only [hostData, hfind]
  exact atBoundary_of_open hslot (.inr hph) hstop hheld

/-- Settles O24. -/
theorem controlCommands : Obligations.ControlCommands := by
  refine ⟨?nop, ?wait, ?set, ?setRefused, ?prefetchIn, ?prefetchOut, ?data, ?none, ?hot, ?cold, ?stream, ?preload⟩
  case nop =>
    intro sq sl s hb
    exact answers_of_begins hb rfl rfl
  case wait =>
    intro sq sl s hb
    exact answers_of_begins hb rfl rfl
  case set =>
    rintro sq sl s i hb rfl hmine
    exact answers_of_live rfl hb.1 (congrArg layerTick ((begins_of_begins hb _).trans (if_pos hmine)))
  case setRefused =>
    intro sq sl s hb hmine
    exact answers_of_live rfl hb.1 (congrArg layerTick ((begins_of_begins hb _).trans (if_neg (by simp [hmine]))))
  case prefetchIn =>
    intro sq sl s hb hlen hissue hkind
    exact answers_of_begins hb rfl (by simp [hlen, hissue, hkind])
  case prefetchOut =>
    intro sq sl s hb hlen hissue hkind
    exact answers_of_begins hb rfl (by simp [hlen, hissue, hkind])
  case data =>
    intro tag data sq off n sl s u hlive hfind hu hslot hph hstop hheld
    exact answers_of_live rfl hlive (congrArg layerTick (hostData_of_open hfind hu hslot hph hstop hheld))
  case none =>
    intro sq sl s hb hsub
    exact answers_of_begins hb rfl (if_pos hsub)
  case hot =>
    intro sq sl s hb hsub
    refine answers_of_begins hb rfl ((if_pos hsub).trans ?_)
    beta_reduce
    obtain ⟨ok, u⟩ := adviseFill (adviseHint s sl 1) sl
    cases ok <;> rfl
  case cold =>
    intro sq sl s hb hsub
    exact answers_of_begins hb rfl (if_pos hsub)
  case stream =>
    intro sq sl s hb hsub
    exact answers_of_begins hb rfl (if_pos hsub)
  case preload =>
    intro sq sl s hb hsub
    exact answers_of_begins hb rfl (if_pos hsub)

end Sys2Proof.Machine
end

section
/-! FILL, COPY, COMPARE, REDUCE, SCRIBE_RUN and their pieces (O25). -/
namespace Sys2Proof.Machine

/-- What the spec leaves open is settled by the next fresh number. -/
theorem exists_choose {α : Type} (s : State) {l : List α} (hl : l ≠ []) :
    ∃ x ∈ l, choose s l = (some x, { s with fresh := s.fresh + 1 }) := by
  have hlt : Config.pick s.fresh % l.length < l.length := Nat.mod_lt _ (List.length_pos_of_ne_nil hl)
  refine ⟨l[Config.pick s.fresh % l.length], List.getElem_mem hlt, ?_⟩
  cases l with
  | nil => contradiction
  | cons a l => exact congrArg (·, { s with fresh := s.fresh + 1 }) (List.getElem?_eq_getElem hlt)

section
variable {s : State} {oc sq : Nat} {sl : Slot} (hb : Begins s oc sq sl)
include hb

theorem poolStart_of_begins : poolStart s oc sq =
    if wantsScribe sl.d then
      if (freeScribes s).isEmpty || !scribeRoom s sl || (nextForScribe s).isSome then
        if s.nmo.waiting.contains sq then s
        else { s with nmo := { s.nmo with waiting := s.nmo.waiting ++ [sq] } }
      else match choose s (freeScribes s) with
        | (some n, s) => poolRun (takeScribe s n sq) sq
        | (none, s) => s
    else poolRun s sq := by
  obtain ⟨-, hslot, hph, hop, hstop, hheld⟩ := hb
  rw [poolStart, atBoundary_of_open hslot (.inl hph) hstop hheld]
  exact if_neg (by simp [hph, hop])

theorem poolStart_of_plain (hwants : wantsScribe sl.d = false) : poolStart s oc sq = poolRun s sq :=
  (poolStart_of_begins hb).trans (if_neg (by simp [hwants]))

/-- A free scribe, whichever, goes to a descriptor that none waits before. -/
theorem poolStart_of_scribe (hwants : wantsScribe sl.d = true) (hfree : freeScribes s ≠ [])
    (hroom : scribeRoom s sl = true) (hnext : nextForScribe s = none) :
    ∃ n ∈ freeScribes s, poolStart s oc sq = poolRun (takeScribe { s with fresh := s.fresh + 1 } n sq) sq := by
  obtain ⟨n, hn, hchoose⟩ := exists_choose s hfree
  refine ⟨n, hn, (poolStart_of_begins hb).trans ?_⟩
  rw [if_pos hwants, if_neg (by simp [hfree, hroom, hnext]), hchoose]

end

/-- Settles O25. -/
theorem poolCommands : Obligations.PoolCommands := by
  refine ⟨?fill, ?copy, ?copyScribe, ?compare, ?reduce, ?scribe, ?piece, ?grant⟩
  case fill | copy | compare | reduce =>
    intro sq sl s hb hwants
    exact answers_of_live rfl hb.1 (poolStart_of_plain hb hwants)
  case copyScribe | scribe =>
    intro sq sl s hb hwants hfree hroom hnext
    obtain ⟨n, hn, hstart⟩ := poolStart_of_scribe hb hwants hfree hroom hnext
    exact ⟨n, hn, answers_of_live rfl hb.1 hstart⟩
  case piece =>
    rintro sq p sl s done res x u hlive hslot hph hstop hheld hwork herr hnew hlt rfl hx hxerr hhave
    refine answers_of_live rfl hlive (congrArg layerTick ?_)
    rw [poolPiece, atBoundary_of_open hslot (.inr hph) hstop hheld]
    simp only [hwork, herr]
    rw [if_neg (by simp [hnew, hlt])]
    simp only [hx, hxerr, hhave, if_true]
  case grant =>
    rintro n sl x s u hlive hfree hnext rfl hslot hph hstop hheld
    refine answers_of_live rfl hlive ((if_pos (by simpa using hfree)).trans ?_)
    simp only [hnext]
    exact atBoundary_of_open hslot (.inl hph) hstop hheld

end Sys2Proof.Machine
end

section
/-! Scribes fed by registers (O26). -/
namespace Sys2Proof.Machine

/-- The registers that a command leaves, of one that reaches them and the observations. -/
theorem exists_next_getF {c : Instr} {s u : State} {f : State → State}
    (h : exec c s = answer (touches c) s (whenLive s f)) (hlive : live s = true) (e : f s = u)
    (hr : (touches c).contains .regs = true) (ho : (touches c).contains .obs = true) :
    ∃ t, exec c s = .next t ∧ ∀ fld i, getF t fld i = getF u fld i :=
  ⟨_, answers_of_live h hlive e, fun fld i =>
    getF_confine s u (List.contains_iff_mem.mp hr) (List.contains_iff_mem.mp ho) fld i⟩

theorem lt_of_scrMine {s : State} {fw : Bool} {n : Nat} (h : scrMine s fw n = true) : n < 32 := by
  simp only [scrMine, Bool.and_eq_true, decide_eq_true_eq] at h
  exact h.1

/-- A field of another register of the scribe keeps its value. -/
theorem getF_setF_scr {n : Nat} (hn : n < 32) (s : State) (f g : Fld) (x : Nat) (h : g.reg ≠ f.reg) :
    getF (setF s f n x) g n = getF s g n :=
  getF_setF_reg s f g n n x (by omega) (by omega) h

/-- The ledger's record leaves the register file as it is, and so does an event. -/
theorem getF_ledger (s : State) (code sev : Nat) (ten : Option Nat) (args : List Nat) {f : Fld}
    (hf : isEvtReg f.reg = false) (i : Nat) : getF (ledger s code sev ten args) f i = getF s f i :=
  getF_congr (ledger_regs ..) hf i

theorem getF_setEvt_of_regs (s : State) {e f : Fld} (he : isEvtReg e.reg = true) (hf : isEvtReg f.reg = false) (i : Nat) :
    getF (setEvt s e) f i = getF s f i :=
  getF_congr (setEvt_regs s e he) hf i

/-- A field as wide as the register takes a whole word. -/
theorem getF_setF_word (s : State) (f : Fld) (i : Nat) (v : W64) (hf : f.bf = ⟨0, 64⟩) :
    getF (setF s f i v.toNat) f i = v.toNat := by
  rw [getF_setF_same _ _ _ _ (by rw [hf]; decide), hf]
  exact Nat.mod_eq_of_lt v.isLt

theorem scrCtl_of_start {v : W64} (s : State) (n : Nat) (h : bget v ⟨0, 3⟩ = 1) : scrCtl s n v = scrStart s n := by
  rw [scrCtl, h]
  rfl

theorem scrCtl_of_finish {v : W64} (s : State) (n : Nat) (h : bget v ⟨0, 3⟩ = 2) : scrCtl s n v = scrFinish s n := by
  rw [scrCtl, h]
  rfl

theorem scrCtl_of_abort {v : W64} (s : State) (n : Nat) (h : bget v ⟨0, 3⟩ = 4) : scrCtl s n v = scrAbort s n := by
  rw [scrCtl, h]
  rfl

section
variable {s : State} {n : Nat}

theorem scrStart_of_ok (hpoly : getF s SCR_CFG.POLY n ≠ 3) (hfold : getF s SCR_CFG.FOLDSEL n < 2) : scrStart s n =
    let u := setF (setF s SCR_VAL.VAL n (crcStart (polyOf (getF s SCR_CFG.POLY n))
      (if getF s SCR_CFG.FOLDSEL n = 1 then some (getF s SCR_FOLD.FOLD n) else none))) SCR_CNT.COUNT n 0
    setF { u with nmo := { u.nmo with cfg := mput u.nmo.cfg n (regGet s .SCR_CFG n) } } SCR_STAT.ACTIVE n 1 :=
  if_neg (not_or.mpr ⟨hpoly, Nat.not_le.mpr hfold⟩)

section
variable (hact : tstF s SCR_STAT.ACTIVE n = true)
include hact

theorem scrFeed_of_active (k : Nat) (v : W64) : scrFeed s n k v =
    setF (setF s SCR_VAL.VAL n (crcFeed (scrRunPoly s n) (getF s SCR_VAL.VAL n) (leBytes k v.toNat))) SCR_CNT.COUNT n
      (getF s SCR_CNT.COUNT n + k) :=
  if_neg (by simp [hact])

theorem scrFinish_of_active : scrFinish s n =
    let v := crcEnd (scrRunPoly s n) (getF s SCR_VAL.VAL n)
    let u := setF (setF (setF s SCR_RES.RES n v) SCR_STAT.ACTIVE n 0) SCR_STAT.DONE n 1
    if btst (mgetD 0 u.nmo.cfg n) SCR_CFG.EXPEN.bf && v != getF u SCR_EXP.EXP n then
      ledger (setEvt (setF u SCR_STAT.MISMATCH n 1) SCR_EVT.REGMIS) 0x0901 2 none [getF u SCR_EXP.EXP n, v, n]
    else u :=
  if_neg (by simp [hact])

end

variable (hn : n < 32)
include hn

/-- START loads the start value, empties the count and keeps the settings of the run. -/
theorem getF_scrStart (hpoly : getF s SCR_CFG.POLY n ≠ 3) (hfold : getF s SCR_CFG.FOLDSEL n < 2) :
    getF (scrStart s n) SCR_VAL.VAL n = crcStart (polyOf (getF s SCR_CFG.POLY n))
        (if getF s SCR_CFG.FOLDSEL n = 1 then some (getF s SCR_FOLD.FOLD n) else none) % 2 ^ 64 ∧
      getF (scrStart s n) SCR_CNT.COUNT n = 0 ∧ getF (scrStart s n) SCR_STAT.ACTIVE n = 1 := by
  have hnmo (u : State) (m : Nmo) (f : Fld) : getF { u with nmo := m } f n = getF u f n := rfl
  rw [scrStart_of_ok hpoly hfold]
  simp (disch := decide) only [getF_setF_same, getF_setF_scr hn, hnmo]
  exact ⟨rfl, rfl, rfl⟩

/-- A data write feeds its bytes and counts them. -/
theorem getF_scrFeed (hact : tstF s SCR_STAT.ACTIVE n = true) (k : Nat) (v : W64) :
    getF (scrFeed s n k v) SCR_VAL.VAL n =
        crcFeed (scrRunPoly s n) (getF s SCR_VAL.VAL n) (leBytes k v.toNat) % 2 ^ 64 ∧
      getF (scrFeed s n k v) SCR_CNT.COUNT n = (getF s SCR_CNT.COUNT n + k) % 2 ^ 64 := by
  rw [scrFeed_of_active hact]
  simp (disch := decide) only [getF_setF_same, getF_setF_scr hn]
  exact ⟨rfl, rfl⟩

/-- FINISH leaves the check value and ends the run, whether or not the value is the expected one. -/
theorem getF_scrFinish (hact : tstF s SCR_STAT.ACTIVE n = true) :
    getF (scrFinish s n) SCR_RES.RES n = crcEnd (scrRunPoly s n) (getF s SCR_VAL.VAL n) % 2 ^ 64 ∧
      getF (scrFinish s n) SCR_STAT.ACTIVE n = 0 ∧ getF (scrFinish s n) SCR_STAT.DONE n = 1 ∧
      (getF (scrFinish s n) SCR_STAT.MISMATCH n = 1 ∨
        getF (scrFinish s n) SCR_STAT.MISMATCH n = getF s SCR_STAT.MISMATCH n) := by
  rw [scrFinish_of_active hact]
  extract_lets v u
  have hu : getF u SCR_RES.RES n = v % 2 ^ 64 ∧ getF u SCR_STAT.ACTIVE n = 0 ∧ getF u SCR_STAT.DONE n = 1 ∧
      getF u SCR_STAT.MISMATCH n = getF s SCR_STAT.MISMATCH n := by
    simp (disch := decide) only [u, getF_setF_same, getF_setF_scr hn, getF_setF_apart]
    exact ⟨rfl, rfl, rfl, trivial⟩
  obtain ⟨hres, hactive, hdone, hmis⟩ := hu
  split
  · simp (disch := decide) only [getF_ledger, getF_setEvt_of_regs, getF_setF_same, getF_setF_scr hn, getF_setF_apart, hres,
      hactive, hdone]
    exact ⟨rfl, trivial, trivial, .inl rfl⟩
  · exact ⟨hres, hactive, hdone, .inr hmis⟩

theorem getF_scrCfg (fw : Bool) (v : W64) :
    getF (scrCfg s fw n v) SCR_CFG.POLY n = bget v SCR_CFG.POLY.bf ∧
      getF (scrCfg s fw n v) SCR_CFG.FOLDSEL n = bget v SCR_CFG.FOLDSEL.bf ∧
      getF (scrCfg s fw n v) SCR_CFG.EXPEN n = bget v SCR_CFG.EXPEN.bf ∧
      getF (scrCfg s fw n v) SCR_CFG.OWNER n =
        if fw && !tstF s SEC_BOOT.SEALED then bget v SCR_CFG.OWNER.bf else getF s SCR_CFG.OWNER n := by
  have hset (u : State) (f : Fld) (h : f.bf.lo + f.bf.w ≤ 64) : getF (setF u f n (bget v f.bf)) f n = bget v f.bf :=
    (getF_setF_same u f n _ h).trans (Nat.mod_eq_of_lt (bget_lt v f.bf))
  have hsealed (u : State) (f : Fld) (x : Nat) (h : SEC_BOOT.SEALED.reg ≠ f.reg) :
      tstF (setF u f n x) SEC_BOOT.SEALED = tstF u SEC_BOOT.SEALED :=
    congrArg (· != 0) (getF_setF_reg u f SEC_BOOT.SEALED n 0 x (by omega) (by omega) h)
  unfold scrCfg
  extract_lets u
  have hu : tstF u SEC_BOOT.SEALED = tstF s SEC_BOOT.SEALED := by simp (disch := decide) only [u, hsealed]
  rw [hu]
  split
  all_goals
    simp (disch := decide) only [u, hset, getF_setF_apart]
    exact ⟨trivial, trivial, trivial, trivial⟩

omit hn in
theorem getF_scrStat (n : Nat) (v : W64) :
    getF (scrStat s n v) SCR_STAT.DONE n = (if maskBit v 0 then 0 else getF s SCR_STAT.DONE n) ∧
      getF (scrStat s n v) SCR_STAT.MISMATCH n = (if maskBit v 1 then 0 else getF s SCR_STAT.MISMATCH n) ∧
      getF (scrStat s n v) SCR_STAT.ACTIVE n = getF s SCR_STAT.ACTIVE n := by
  unfold scrStat
  cases maskBit v 0 <;> cases maskBit v 1
  all_goals simp (disch := decide) [getF_setF_same, getF_setF_apart]

end

/-- Settles O26. -/
theorem scribeRegisterCommands : Obligations.ScribeRegisterCommands := by
  refine ⟨?start, ?finish, ?abort, ?data8, ?data16, ?data32, ?val, ?cnt, ?cfg, ?fold, ?exp, ?stat⟩
  case start =>
    rintro fw n v s poly fold hlive hmine hctl rfl rfl hpoly hfold
    obtain ⟨hval, hcount, hactive⟩ := getF_scrStart (lt_of_scrMine hmine) hpoly hfold
    have hanswer : Answers (.scrStart fw n v) s (scrStart s n) :=
      answers_of_live rfl hlive ((if_pos hmine).trans (scrCtl_of_start s n hctl))
    refine ⟨_, hanswer, ?_⟩
    have hget (fld : Fld) : getF (confine (touches (.scrStart fw n v)) s (scrStart s n)) fld n = getF (scrStart s n) fld n :=
      getF_confine (ps := [.regs, .obs, .nmo]) s _ (by decide) (by decide) fld n
    refine ⟨(hget _).trans hval, (hget _).trans hcount, (hget _).trans hactive, ?_⟩
    show mgetD 0 (scrStart s n).nmo.cfg n = _
    rw [scrStart_of_ok hpoly hfold]
    simp
  case finish =>
    intro fw n v s hlive hmine hctl hact
    obtain ⟨t, hexec, hget⟩ := exists_next_getF (c := .scrFinish fw n v) rfl hlive
      ((if_pos hmine).trans (scrCtl_of_finish s n hctl)) rfl rfl
    refine ⟨t, hexec, ?_⟩
    simp only [hget]
    exact getF_scrFinish (lt_of_scrMine hmine) hact
  case abort =>
    intro fw n v s hlive hmine hctl hact
    exact answers_of_live rfl hlive ((if_pos hmine).trans ((scrCtl_of_abort s n hctl).trans (if_neg (by simp [hact]))))
  case data8 =>
    intro fw n v s hlive hmine hact
    obtain ⟨t, hexec, hget⟩ := exists_next_getF (c := .scrData8 fw n v) rfl hlive (if_pos hmine) rfl rfl
    obtain ⟨hval, hcount⟩ := getF_scrFeed (lt_of_scrMine hmine) hact 1 v
    exact ⟨t, hexec, (hget ..).trans hval, (hget ..).trans hcount⟩
  case data16 =>
    intro fw n v s hlive hmine hact
    obtain ⟨t, hexec, hget⟩ := exists_next_getF (c := .scrData16 fw n v) rfl hlive (if_pos hmine) rfl rfl
    obtain ⟨hval, hcount⟩ := getF_scrFeed (lt_of_scrMine hmine) hact 2 v
    exact ⟨t, hexec, (hget ..).trans hval, (hget ..).trans hcount⟩
  case data32 =>
    intro fw n v s hlive hmine hact
    obtain ⟨t, hexec, hget⟩ := exists_next_getF (c := .scrData32 fw n v) rfl hlive (if_pos hmine) rfl rfl
    obtain ⟨hval, hcount⟩ := getF_scrFeed (lt_of_scrMine hmine) hact 4 v
    exact ⟨t, hexec, (hget ..).trans hval, (hget ..).trans hcount⟩
  case val =>
    intro fw n v s hlive hmine hact
    have hn := lt_of_scrMine hmine
    obtain ⟨t, hexec, hget⟩ :=
      exists_next_getF (c := .scrValWrite fw n v) rfl hlive ((if_pos hmine).trans (if_pos hact)) rfl rfl
    refine ⟨t, hexec, ?_, ?_⟩
    · exact (hget ..).trans (getF_setF_same _ _ _ _ (by decide))
    · exact (hget ..).trans (getF_setF_scr hn _ _ _ _ (by decide))
  case cnt =>
    intro fw n v s hlive hmine hact
    have hn := lt_of_scrMine hmine
    obtain ⟨t, hexec, hget⟩ :=
      exists_next_getF (c := .scrCntWrite fw n v) rfl hlive ((if_pos hmine).trans (if_pos hact)) rfl rfl
    refine ⟨t, hexec, ?_, ?_⟩
    · exact (hget ..).trans (getF_setF_word _ _ _ _ rfl)
    · exact (hget ..).trans (getF_setF_scr hn _ _ _ _ (by decide))
  case cfg =>
    intro fw n v s hlive hmine
    have hn : n < 32 := by
      simp only [Bool.or_eq_true, Bool.and_eq_true, decide_eq_true_eq] at hmine
      exact hmine.elim lt_of_scrMine And.right
    obtain ⟨t, hexec, hget⟩ := exists_next_getF (c := .scrCfgWrite fw n v) rfl hlive (if_pos hmine) rfl rfl
    refine ⟨t, hexec, ?_⟩
    simp only [hget]
    exact getF_scrCfg hn fw v
  case fold =>
    intro fw n v s hlive hmine
    obtain ⟨t, hexec, hget⟩ := exists_next_getF (c := .scrFoldWrite fw n v) rfl hlive (if_pos hmine) rfl rfl
    exact ⟨t, hexec, (hget ..).trans (getF_setF_word _ _ _ _ rfl)⟩
  case exp =>
    intro fw n v s hlive hmine
    obtain ⟨t, hexec, hget⟩ := exists_next_getF (c := .scrExpWrite fw n v) rfl hlive (if_pos hmine) rfl rfl
    exact ⟨t, hexec, (hget ..).trans (getF_setF_word _ _ _ _ rfl)⟩
  case stat =>
    intro fw n v s hlive hmine
    obtain ⟨t, hexec, hget⟩ := exists_next_getF (c := .scrStatClear fw n v) rfl hlive (if_pos hmine) rfl rfl
    refine ⟨t, hexec, ?_⟩
    simp only [hget]
    exact getF_scrStat n v

end Sys2Proof.Machine
end

section
/-! Kernels of the arrays (O27) and plumb checks (O28). -/
namespace Sys2Proof.Machine

/-! ## Tile boundaries -/

theorem boundaryOn_of_open {s : State} {sl : Slot} {l : List Nat} {stop : State → Slot → State} {go : Slot → State}
    (hslot : slotOf s sl.seq = some sl) (hph : sl.ph = .running) (hstop : sl.stop = none)
    (hheld : heldBack s sl.seq = false) : boundaryOn s sl l stop go = go sl := by
  rw [boundaryOn, if_pos (by simp [hstop])]
  exact atBoundary_of_open hslot (.inr hph) hstop hheld

/-- A kernel told to stop ends at its tile boundary. -/
theorem atBoundary_of_stop {s : State} {sq : Nat} {sl : Slot} {st sub : Nat} {go : Slot → State}
    (hslot : slotOf s sq = some sl) (hph : sl.ph = .running) (hstop : sl.stop = some (st, sub))
    (hheld : heldBack s sq = false) : atBoundary s sq go = finish s sq st sub 0 := by
  simp [atBoundary, hslot, hph, hstop, hheld]

/-- One that holds array `a` alone and is told to stop is there once `a` is. -/
theorem boundaryOn_of_stop {s : State} {sl : Slot} {a : Nat} {st sub : Nat} {stop : State → Slot → State}
    {go : Slot → State} (harr : arraysOf s sl.seq = [a]) (hph : sl.ph = .running) (hstop : sl.stop = some (st, sub))
    {u : State} (hu : u = stop { s with arr := { s.arr with
      bound := (insRising s.arr.bound a).filter (fun b => !([a] : List Nat).contains b) } } sl)
    (hslot : slotOf u sl.seq = some sl) (hheld : heldBack u sl.seq = false) :
    boundaryOn s sl [a] stop go = finish u sl.seq st sub 0 := by
  subst hu
  have harr' (b : List Nat) : arraysOf { s with arr := { s.arr with bound := b } } sl.seq = [a] := harr
  have hall : allBound { s with arr := { s.arr with bound := insRising s.arr.bound a } } sl = true := by
    simp [allBound, harr', mem_insRising]
  rw [boundaryOn, if_neg (by simp [hstop])]
  simp only [List.foldl_cons, List.foldl_nil, harr', hall, if_true]
  exact atBoundary_of_stop hslot hph hstop hheld

/-! ## The end of a pass -/

section
variable {s : State} {a sq : Nat} {sl : Slot} (harr : mget s.arr.held a = some sq) (hslot : slotOf s sq = some sl)
  (hseq : sl.seq = sq) (hwaking : a ∉ s.arr.waking) (hplumb : plumbBusy s sq = false) (hph : sl.ph = .running)
include harr hslot hseq hwaking hplumb hph

section
variable (hstop : sl.stop = none) (hheld : heldBack s sq = false) (herr : hardErr sl = none)
include hstop hheld herr

theorem passEnd_of_gemm {r : GemmRun} (hop : opcode sl.d = ocGemm) (hwork : sl.work = .gemm r) :
    passEnd s a = gemmPass s sl r a (passCount a) := by
  subst hseq
  have hattn : ocGemm ≠ ocAttn := by decide
  simp only [passEnd, harr, hslot, hplumb, hop, hattn, if_false]
  rw [if_neg (by simp [hwaking]), boundaryOn_of_open hslot hph hstop hheld]
  simp only [herr, hwork]

theorem passEnd_of_ffn {r : FfnRun} (hop : opcode sl.d = ocExpert) (hwork : sl.work = .ffn r) :
    passEnd s a = ffnPass s sl r a (passCount a) := by
  subst hseq
  have hattn : ocExpert ≠ ocAttn := by decide
  simp only [passEnd, harr, hslot, hplumb, hop, hattn, if_false]
  rw [if_neg (by simp [hwaking]), boundaryOn_of_open hslot hph hstop hheld]
  simp only [herr, hwork]

end

theorem passEnd_of_stop {st sub : Nat} {u : State} (hop : opcode sl.d ≠ ocAttn) (hstop : sl.stop = some (st, sub))
    (halone : arraysOf s sq = [a])
    (hu : u = undefOut { s with arr := { s.arr with
      bound := (insRising s.arr.bound a).filter (fun b => !([a] : List Nat).contains b) } } sl)
    (huslot : slotOf u sq = some sl) (hheld : heldBack u sq = false) : passEnd s a = finish u sq st sub 0 := by
  subst hseq
  simp only [passEnd, harr, hslot, hplumb, hop, if_false]
  rw [if_neg (by simp [hwaking])]
  exact boundaryOn_of_stop halone hph hstop hu huslot hheld

end

section
variable {s u : State} {sl x : Slot} {r : GemmRun} {a i : Nat} {p : GPart} {count : State → Slot → State}
  (hi : r.parts.findIdx? (fun q => q.arr == a && !q.over) = some i) (hp : r.parts[i]? = some p)
  (hu : u = askAll s sl.seq (gemmReads sl.d)) (hx : slotOf u sl.seq = some x) (hhave : haveAll x (gemmReads x.d) = true)
include hi hp hu hx hhave

/-- A pass with a segment of the operands accumulates it. -/
theorem gemmPass_of_segment {ts : List (Nat × Nat)} {acc : List Nat} (hts : p.ts[p.ran]? = some ts)
    (hacc : acc = if p.ran = 0 then accInit u x p else readAcc (unitOf u a) (chunkRows x.d p.mt))
    (hskip : passSkips u x p.mt ts = []) :
    gemmPass s sl r a count = passDone (count { u with fresh := u.fresh + 65536 } x) x
      { r with skips := min (r.skips + 0) (2 ^ 32 - 1) } i p a (accPass u x p.mt (cellsFor u x a p.nt ts) [] acc) := by
  subst hu hacc
  simp only [gemmPass, hi, hp, hx, hhave, hts, hskip, Bool.not_true, Bool.false_eq_true, if_false, if_true,
    List.length_nil]

/-- One without leaves the start values. -/
theorem gemmPass_of_empty (hran : p.ran = 0) (hts : p.ts = []) :
    gemmPass s sl r a count = passDone (unitUse u a) x r i p a (accInit u x p) := by
  subst hu
  simp [gemmPass, hi, hp, hx, hhave, hran, hts]

end

/-- The groups that an ATTN_DECODE begins with: each sequence's heads, those of an empty sequence done. -/
def attnGroups (s : State) (sl : Slot) : List AttnGroup :=
  ((List.range (attnSeqs s sl).length).map fun k =>
    (List.range (lease s (sl.leases.headD 0) LEASE.HKV)).map fun g =>
      ({ sq := k, grp := g, done := (((attnSeqs s sl)[k]?).map (·.tokens)).getD 0 == 0 } : AttnGroup)).flatten

/-- Settles O27. -/
theorem arrayKernelCommands : Obligations.ArrayKernelCommands := by
  refine ⟨?gemm, ?attnAgain, ?attn, ?expert, ?grant, ?segment, ?empty, ?ffn, ?stop, ?round, ?fence⟩
  case gemm =>
    rintro sq sl s u x hb rfl hx herr hhave hsize
    exact answers_of_begins hb rfl (by simp only [hx, herr, hhave, hsize, Bool.not_true, Bool.false_eq_true, if_false])
  case attnAgain =>
    intro sq sl s hb hwork
    exact answers_of_begins hb rfl (if_pos (by simp [hwork]))
  case attn =>
    intro sq sl s z y hb hwork herr hmaps hy
    refine ⟨attnGroups z y, answers_of_begins hb rfl ((if_neg (by simp [hwork])).trans ?_)⟩
    simp only [herr, hmaps, hy, Bool.not_true, Bool.false_eq_true, if_false]
    rfl
  case expert =>
    intro sq sl s hb
    exact answers_of_begins hb rfl rfl
  case grant =>
    intro a sl x s hlive hfree hnext hslot hph hstop hheld
    refine answers_of_live rfl hlive ?_
    simp only [grantArray, hfree, hnext, Bool.not_true, Bool.false_eq_true, if_false]
    exact atBoundary_of_open hslot (.inl hph) hstop hheld
  case segment =>
    intro a sq sl s r i p u x ts acc hlive harr hslot hseq hwaking hplumb hop hph hstop hheld herr hwork hi hp hu hx hhave
      hts hacc hskip
    subst hseq
    exact answers_of_live rfl hlive (congrArg layerTick
      ((passEnd_of_gemm harr hslot rfl hwaking hplumb hph hstop hheld herr hop hwork).trans
        (gemmPass_of_segment hi hp hu hx hhave hts hacc hskip)))
  case empty =>
    intro a sq sl s r i p u x hlive harr hslot hseq hwaking hplumb hop hph hstop hheld herr hwork hi hp hu hx hhave hran hts
    subst hseq
    exact answers_of_live rfl hlive (congrArg layerTick
      ((passEnd_of_gemm harr hslot rfl hwaking hplumb hph hstop hheld herr hop hwork).trans
        (gemmPass_of_empty hi hp hu hx hhave hran hts)))
  case ffn =>
    intro a sq sl s r hlive harr hslot hseq hwaking hplumb hop hph hstop hheld herr hwork
    exact answers_of_live rfl hlive (congrArg layerTick
      (passEnd_of_ffn harr hslot hseq hwaking hplumb hph hstop hheld herr hop hwork))
  case stop =>
    intro a sq sl s e u hlive harr hslot hseq hwaking hplumb hop hph hstop _ halone hu huslot hheld
    exact answers_of_live rfl hlive (congrArg layerTick
      (passEnd_of_stop harr hslot hseq hwaking hplumb hph hop hstop halone hu huslot hheld))
  case round =>
    intro sq pair sl s seqs groups hlive hslot hseq hop hph hwaking hplumb hstop hheld herr hwork hpair hdone
    subst hseq
    refine answers_of_live rfl hlive (congrArg layerTick ?_)
    simp only [attnRoundEnd, hslot, hwork]
    rw [if_neg (by simp [hop, hph, hwaking, hplumb]), boundaryOn_of_open hslot hph hstop hheld]
    simp only [herr, hpair, attnGoOn, hslot, hdone, if_true]
  case fence =>
    rintro a s u hlive ha hfenced hheld rfl
    refine answers_of_live rfl hlive ?_
    unfold fenceArray
    rw [if_neg (by simp [ha, hfenced])]
    simp only [regSet_arr, hheld]

/-! ## Plumb checks -/

section
variable {s : State} {sq a b : Nat} {second : List (List Byte)} {p : Plumb} {sl : Slot}
  (hplumb : mget s.arr.plumb sq = some p) (hpair : p.pair = none) (hok : p.ok = false) (hslot : slotOf s sq = some sl)
  (hph : sl.ph = .running) (hstop : sl.stop = none) (hheld : heldBack s sq = false)
include hplumb hpair hok hslot hph hstop hheld

theorem plumbCompare_of_open : plumbCompare s sq a b second =
    let u := satF s RED_PLUMBSTAT.CHECKS 0
    if (p.out.zip (p.out.mapIdx fun i o => (o.1, second.getD i []))).all fun x =>
        outAgree (getF u RED_PLUMB.TOL) x.1 x.2 then plumbDone u sq p 0
    else
      let v := setEvt u RED_EVT.PLUMB
      { v with arr := { v.arr with testing := insRising (insRising v.arr.testing a) b,
                                   plumb := mput v.arr.plumb sq { p with pair := some (a, b) } } } := by
  simp only [plumbCompare, hplumb]
  rw [if_neg (by simp [hpair, hok])]
  exact atBoundary_of_open hslot (.inr hph) hstop hheld

end

/-- Settles O28. -/
theorem plumbCommands : Obligations.PlumbCommands := by
  refine ⟨?agree, ?differ, ?tested⟩
  case agree =>
    intro sq a b second p sl s hlive hplumb hpair hok hslot hph hstop hheld hall
    exact answers_of_live rfl hlive
      ((plumbCompare_of_open hplumb hpair hok hslot hph hstop hheld).trans (if_pos hall))
  case differ =>
    rintro sq a b second p sl s u hlive hplumb hpair hok hslot hph hstop hheld hall rfl
    exact answers_of_live rfl hlive
      ((plumbCompare_of_open hplumb hpair hok hslot hph hstop hheld).trans (if_neg (by rw [hall]; decide)))
  case tested =>
    rintro sq p a b s u hlive hplumb hpair rfl hheld
    refine answers_of_live rfl hlive ?_
    simp [plumbTested, hplumb, hpair, hheld]

end Sys2Proof.Machine
end

section
/-! Fills, write-backs and evictions (O31). -/
namespace Sys2Proof.Machine

/-- Settles O31. -/
theorem stagingCommands : Obligations.StagingCommands := by
  refine ⟨?verified, ?unwritten, ?lost, ?redundant, ?repaired, ?unrepaired, ?writeback, ?merge, ?ack, ?age, ?evict⟩
  case verified =>
    intro b p g s hlive hpage hred
    exact answers_of_live rfl hlive (congrArg homeWork (by simp [hpage, hred]))
  case unwritten =>
    intro b p g s hlive hpage hred hkey
    exact answers_of_live rfl hlive (congrArg homeWork (by simp [hpage, hkey]))
  case lost =>
    intro b p g s hlive hpage hred hkey hclass
    exact answers_of_live rfl hlive (congrArg homeWork (by simp [hpage, hred, hkey, hclass]))
  case redundant =>
    intro b p g s hlive hpage hred hkey hclass
    exact answers_of_live rfl hlive (congrArg homeWork (by simp [hpage, hred, hkey, hclass]))
  case repaired =>
    rintro b data p g s h hlive hpage hred hforeign rfl
    exact answers_of_live rfl hlive (congrArg homeWork (by simp [hpage, hred, hforeign]))
  case unrepaired =>
    intro b data p g s hlive hpage hred hforeign
    exact answers_of_live rfl hlive (congrArg homeWork (by simp [hpage, hred, hforeign]))
  case writeback =>
    intro b p g s hlive hfind hchosen hready hst
    exact answers_of_live rfl hlive (by simp [hfind, hchosen, hready, hst])
  case merge =>
    intro b p g s hlive hfind hchosen hready hst
    have hne : pgPartial ≠ pgDirty := by decide
    exact answers_of_live rfl hlive (by simp [hfind, hchosen, hready, hst, hne])
  case ack =>
    intro b p g s hlive hpage hdone
    exact answers_of_live rfl hlive (congrArg homeWork (by simp [hpage, hdone]))
  case age =>
    intro b p g s hlive hfind hmax hmask
    exact answers_of_live rfl hlive (by simp [hfind, hmax, hmask])
  case evict =>
    rintro t sys p g s u hlive rfl hneed hpick
    have hgo : (pageNeeded (homeWork s) t sys || (!sys && poolIsLow (homeWork s))) = true := by
      obtain h | ⟨hsys, hlow⟩ := hneed
      · simp [h]
      · simp [hsys, hlow]
    exact answers_of_live rfl hlive ((if_pos hgo).trans (by simp only [hpick]))

end Sys2Proof.Machine
end

section
/-! KV_APPEND and LAYER_STREAM (O30). -/
namespace Sys2Proof.Machine

/-! ## KV_APPEND -/

/-- An append whose TOKENS has come takes the slots that it needs. -/
theorem appendStart_of_begins {s u w : State} {sq : Nat} {sl x : Slot} {old n : Nat} {ks : List Nat}
    (hb : Begins s ocKvAppend sq sl) (hwork : sl.work = .idle) (hblocked : appBlocked s sl = false)
    (hmap : askMap s sq (sl.leases.headD 0) (appLayer sl.d) = (true, u)) (hx : slotOf u sq = some x) (herr : x.err = none)
    (hold : old = mapTokens u x (sl.leases.headD 0) (appLayer x.d))
    (hn : n = blocksFor (old + appTok u x) - blocksFor old)
    (hmax : blocksFor (old + appTok u x) ≤ lease u (sl.leases.headD 0) LEASE.MAXBLK)
    (hfree : n ≤ kvFree u (qTen s sl.ctx)) (htake : kvTake u (qTen s sl.ctx) (sl.leases.headD 0) n = (ks, w)) :
    appendStart s sq = kernelStart w x (.append old ks 0) := by
  rw [appendStart, begins_of_begins hb, if_neg (by simp [hwork]), if_neg (by simp [hblocked])]
  extract_lets i t
  split
  next ok v hv =>
  obtain ⟨rfl, rfl⟩ := Prod.mk.inj (hv.symm.trans hmap)
  split
  next hno => exact absurd (hno.symm.trans hx) nofun
  next y hy =>
  obtain rfl := Option.some.inj (hy.symm.trans hx)
  split
  next e he => exact absurd (he.symm.trans herr) nofun
  next =>
  rw [if_neg (by simp)]
  extract_lets o m
  obtain rfl : old = o := hold
  obtain rfl : n = m := hn
  rw [if_neg (Nat.not_lt.mpr hmax), if_neg (Nat.not_lt.mpr hfree)]
  split
  next ks' w' hw =>
  obtain ⟨rfl, rfl⟩ := Prod.mk.inj (hw.symm.trans htake)
  rfl

/-! ## Layer streams -/

section
variable {s u : State} {sq : Nat} {sl : Slot} {d r l : Nat} {bad : Option Stop}

/-- The wait for a layer that is not staged by its deadline ends the stream and its waiters. -/
theorem layerLate_of_waiting (hslot : slotOf u sq = some sl) (hph : sl.ph = .running)
    (hwork : sl.work = .layer d r l true bad) (hstaged : lyStaged u sl d = false)
    (hdl : hasDeadline u sl.ctx sl.d = true) :
    layerLate u sq =
      tallyEnd (finish (if qPrv u sl.ctx then u else satF u TEN_LSTAT.LATEEND (qTen u sl.ctx)) sq stTierLate 0x0010 d)
        (lyRdy sl.d) stTierLate 0x0011 := by
  simp only [layerLate, hslot, hwork]
  exact if_neg (by simp [hstaged, hdl, hph])

theorem layerLate_of_staged {w : Bool} (hslot : slotOf u sq = some sl) (hwork : sl.work = .layer d r l w bad)
    (hstaged : lyStaged u sl d = true) : layerLate u sq = u := by
  cases w <;> simp [layerLate, hslot, hwork, hstaged]

end

/-- Settles O30. -/
theorem appendAndStreamCommands : Obligations.AppendAndStreamCommands := by
  refine ⟨?append, ?last, ?start, ?latePrv, ?lateTenant, ?staged⟩
  case append =>
    intro sq sl s u x old n hb hwork hblocked hmap hx herr hold hn hmax hfree
    obtain ⟨⟨ks, w⟩, htake⟩ : ∃ e, kvTake u (qTen s sl.ctx) (sl.leases.headD 0) n = e := ⟨_, rfl⟩
    exact ⟨ks, w, htake, answers_of_live rfl hb.1
      (appendStart_of_begins hb hwork hblocked hmap hx herr hold hn hmax hfree htake)⟩
  case last =>
    intro sq sl s d r l w bad hlive hslot hph hstop hheld hop hseq hwork hcount
    refine answers_of_live rfl hlive ?_
    rw [layerGo, atBoundary_of_open hslot (.inr hph) hstop hheld, if_neg (not_not.mpr hop)]
    simp only [hwork, lyStep, hcount, if_true, hseq]
  case start =>
    rintro sq sl s u x y ⟨hlive, hslot, hph, hop, hstop, hheld⟩ hwork rfl hx herr hhave hcheck rfl
    refine answers_of_live rfl hlive ?_
    rw [layerGo, atBoundary_of_open hslot (.inl hph) hstop hheld, if_neg (not_not.mpr hop)]
    simp only [hwork, hx, herr, hhave, hcheck, Bool.not_true, Bool.false_eq_true, if_false, ne_eq, not_true_eq_false]
  case latePrv =>
    rintro sq sl s d r l bad u hlive rfl hslot hph hwork hstaged hdl hprv
    refine answers_of_live rfl hlive ((layerLate_of_waiting hslot hph hwork hstaged hdl).trans ?_)
    rw [if_pos hprv]
  case lateTenant =>
    rintro sq sl s d r l bad u hlive rfl hslot hph hwork hstaged hdl hprv
    refine answers_of_live rfl hlive ((layerLate_of_waiting hslot hph hwork hstaged hdl).trans ?_)
    rw [if_neg (by simp [hprv])]
  case staged =>
    rintro sq sl s d r l w bad u hlive rfl hslot hwork hstaged
    exact answers_of_live rfl hlive (layerLate_of_staged hslot hwork hstaged)

end Sys2Proof.Machine
end

section
/-! Patrol scrubbing and pseudo-channels (O32), requests that agents send (O33). -/
namespace Sys2Proof.Machine

section
variable {s u : State} {n : Nat} (hheld : s.store.scrubHeld = none) (hn : n = getF s TIER_NEARCAP.EXTENTS * 2 ^ 24)
  (hpos : 0 < n) (hlt : s.store.scrub < n) (hu : u = { s with store := { s.store with scrub := (s.store.scrub + 1) % n } })
  (hpc : u.store.failedPc.contains (pcOf u (s.store.scrub * 64)) = false)
include hheld hn hpos hlt hu hpc

/-- The scrubber's step on a line of a pseudo-channel in service. -/
theorem answers_patrolScrubStep (hlive : live s = true) (ecc : Nat) (sec : Option Line) : Answers (.patrolScrubStep ecc sec) s
    (if (ownedIn u (mkSa (own u) 0 (s.store.scrub * 64)) 1).isEmpty then scrubLine u s.store.scrub ecc sec
      else memPull { u with store := { u.store with scrubHeld := some (s.store.scrub, ecc, sec) } }
        (mkSa (own u) 0 (s.store.scrub * 64)) 1) := by
  refine answers_of_live rfl hlive ?_
  rw [if_neg (by simp [hheld])]
  extract_lets n' line src s' sa
  obtain rfl : n = n' := hn
  have hline : line = s.store.scrub := by simp only [line, if_neg hpos.ne', Nat.mod_eq_of_lt hlt]
  obtain rfl : u = s' := by simp only [s', src, hu, hline, if_neg hpos.ne']
  simp only [sa, hline]
  exact if_neg (ne_true_of_eq_false hpc)

end

/-- Settles O32. -/
theorem nearEccCommands : Obligations.NearEccCommands := by
  refine ⟨?scrub, ?pull, ?fail⟩
  case scrub =>
    intro s n ecc sec u hlive hheld hn hpos hlt hu hpc howned
    have h := answers_patrolScrubStep hheld hn hpos hlt hu hpc hlive ecc sec
    rw [howned, List.isEmpty_nil, if_pos rfl] at h
    match ecc with
    | 0 => exact h
    | 1 => exact h
    | _ + 2 => exact h
  case pull =>
    intro s n ecc sec u hlive hheld hn hpos hlt hu hpc howned
    have h := answers_patrolScrubStep hheld hn hpos hlt hu hpc hlive ecc sec
    rwa [if_neg (by simpa using howned)] at h
  case fail =>
    rintro n s u hlive hlt hnew rfl
    refine ⟨_, rfl, answers_of_live rfl hlive ((if_pos hlt).trans (if_neg ?_))⟩
    simpa using hnew

/-! ## Requests and notices of agents -/

section
variable {s : State} {k : ReqKind} {m : CohMsg}

theorem turnAway_of_serve (vc : VC) (withData : Bool) (hadmit : admitReq s k m = .serve) :
    turnAway s k vc withData m = none := by
  simp only [turnAway, hadmit]

/-- A request that the home serves in the tiers that it keeps a directory of. -/
theorem agentReq_of_home (htier : saTier m.sa ≠ 2) (hadmit : admitReq s k m = .serve) :
    agentReq s k m = homeStart s (m.req k) := by
  simp only [agentReq, turnAway_of_serve _ _ hadmit, if_neg htier]

/-- A request that the home serves in tier 2. -/
theorem agentReq_of_tier2 (htier : saTier m.sa = 2) (hadmit : admitReq s k m = .serve) : agentReq s k m =
    if k = .rdCur then toAgent s m.agent opDataCur 0 (m.req k) [] (bytesOf (t2Read s false m.ten (saOff m.sa) 64))
    else toAgent (t2Write64 s (saOff m.sa) m.data) m.agent opCmp 0 (m.req k) [] := by
  simp only [agentReq, turnAway_of_serve _ _ hadmit, if_pos htier]

theorem agentNotice_of_home (evict : Bool) (htier : saTier m.sa ≠ 2) (hadmit : admitReq s .wb m = .serve) :
    agentNotice s evict m = if evict then takeEvict s m else takeWb s m := by
  simp only [agentNotice, turnAway_of_serve _ _ hadmit, if_neg htier]

end

/-- Settles O33. -/
theorem agentRequestCommands : Obligations.AgentRequestCommands := by
  refine ⟨?rdShared, ?rdOwn, ?rdCur, ?wrFull, ?rdCur2, ?wrFull2, ?wb, ?evictClean⟩
  case rdShared | rdOwn | rdCur =>
    rintro hdr chip ep s m hlive rfl htier hadmit
    exact answers_of_live rfl hlive (congrArg homeWork (agentReq_of_home htier hadmit))
  case wrFull =>
    rintro hdr chip ep data s m hlive rfl htier hadmit
    exact answers_of_live rfl hlive (congrArg homeWork (agentReq_of_home htier hadmit))
  case rdCur2 =>
    rintro hdr chip ep s m hlive rfl htier hadmit
    exact answers_of_live rfl hlive (congrArg homeWork ((agentReq_of_tier2 htier hadmit).trans (if_pos rfl)))
  case wrFull2 =>
    rintro hdr chip ep data s m hlive rfl htier hadmit
    exact answers_of_live rfl hlive (congrArg homeWork ((agentReq_of_tier2 htier hadmit).trans (if_neg nofun)))
  case wb =>
    rintro hdr chip ep data s m hlive rfl htier hadmit
    exact answers_of_live rfl hlive (congrArg homeWork (agentNotice_of_home false htier hadmit))
  case evictClean =>
    rintro hdr chip ep s m hlive rfl htier hadmit
    exact answers_of_live rfl hlive (congrArg homeWork (agentNotice_of_home true htier hadmit))

end Sys2Proof.Machine
end

section
/-! Snoop answers, and the home's own events (O34). -/
namespace Sys2Proof.Machine

/-- An awaited answer of an agent in service. -/
theorem snoopAnswer_of_awaited {s : State} {m : CohMsg} {h : Nat} {t : Txn} (k : Answer) (halive : m.from_ ∉ s.home.dead)
    (hserved : servedBy s m.sa = own s) (hres : m.reservedSet = false) (hans : answered s m = some (h, t))
    (howed : m.from_ ∈ t.owed) : snoopAnswer s k m =
      whenAnswered (if k = .data then writeBack s m.sa m.data m.poison else s) h (takeAnswer t k m m.from_) := by
  simp [snoopAnswer, halive, hserved, hres, hans, howed]

theorem cmpAck_of_granted {s : State} {m : CohMsg} {h : Nat} {t : Txn} (halive : m.from_ ∉ s.home.dead)
    (hserved : servedBy s m.sa = own s) (hres : m.reservedSet = false) (hans : answered s m = some (h, t))
    (hack : t.tr = .ack) (hreq : m.from_ = m.agent) : cmpAck s m = endTxn s h t t.goal t.shr := by
  simp only [cmpAck, hserved, hres, hans, Bool.false_eq_true, ne_eq, not_true_eq_false, if_false]
  rw [if_neg (by simpa using halive), if_pos ⟨hack, hreq⟩]

section
variable {s u : State} {h ecc sa : Nat} {t : Txn} {d : Line} {p : Bool} (htxn : mget s.home.htx h = some t)
  (htr : t.tr = .memRd) (hsa : sa = (localSa s t.req.sa).getD t.req.sa)
include htxn htr hsa

theorem nearReturn_of_own (sec : Option Line) (hsec : needsSecondary s sa = false) (hecc : ecc < 2)
    (hread : lineRead s t.req sa = (.got d p, u)) : nearReturn s h ecc sec = grantRead u h t d p := by
  simp only [nearReturn, htxn, htr, ← hsa, hsec, ne_eq, not_true_eq_false, if_false]
  rw [if_neg fun hbad => absurd hbad.1 (Nat.not_le.mpr hecc), hread]

theorem nearReturn_of_secondary (hsec : needsSecondary s sa = true) :
    nearReturn s h ecc (some d) = grantRead s h t d false := by
  simp only [nearReturn, htxn, htr, ← hsa, hsec, ne_eq, not_true_eq_false, if_false]

end

theorem retryStart_of_first {s : State} {n : Nat} {wr : Waiting} (hfind : (s.home.retry.find? fun x => x.num == n) = some wr)
    (hfirst : (s.home.retry.any fun x => saLine x.req.sa == saLine wr.req.sa && decide (x.num < n)) = false)
    (hstart : (startReq s wr.req wr.t0 true wr.made).1 = true) :
    retryStart s n = let u := (startReq s wr.req wr.t0 true wr.made).2
      { u with home := { u.home with retry := u.home.retry.filter (·.num != n) } } := by
  obtain ⟨⟨b, u⟩, hu⟩ : ∃ e, startReq s wr.req wr.t0 true wr.made = e := ⟨_, rfl⟩
  rw [hu] at hstart
  obtain rfl : b = true := hstart
  simp only [retryStart, hfind, hfirst, hu, Bool.false_eq_true, if_false]

/-! ## The timeout of an open transaction leaves frame time alone -/

@[simp] theorem nearPut_tim (s : State) (off : Nat) (e : NearLine) : (nearPut s off e).tim = s.tim := rfl

@[simp] theorem cutCopy_tim (s : State) (g : Nat) : (cutCopy s g).tim = s.tim := by
  unfold cutCopy
  (repeat' split) <;> rfl

@[simp] theorem nearWrite_tim (s : State) (k off : Nat) (d : Line) (poison : Bool) (ds : Nat) :
    (nearWrite s k off d poison ds).tim = s.tim := by simp [nearWrite]

@[simp] theorem setPage_tim (s : State) (p : Nat) (g : Page) : (setPage s p g).tim = s.tim := rfl

@[simp] theorem poisonLine_tim (s : State) (sa : Nat) (keep : Bool) : (poisonLine s sa keep).tim = s.tim := by
  unfold poisonLine
  (repeat' split) <;> simp

@[simp] theorem endTxn_tim (s : State) (h : Nat) (t : Txn) (st : DirSt) (shr : Sharers) :
    (endTxn s h t st shr).tim = s.tim := by
  unfold endTxn
  dsimp only
  (repeat' split) <;> rfl

@[simp] theorem toAgent_tim (s : State) (a opc htx : Nat) (q : HomeReq) (fs : List (BF × Nat)) (data : List Byte) :
    (toAgent s a opc htx q fs data).tim = s.tim := rfl

@[simp] theorem errTo_tim (s : State) (q : HomeReq) (htx code : Nat) : (errTo s q htx code).tim = s.tim := by
  unfold errTo
  split <;> rfl

@[simp] theorem leavePages_tim (s : State) (q : HomeReq) : (leavePages s q).tim = s.tim := rfl

@[simp] theorem timeoutNote_tim (s : State) (q : HomeReq) : (timeoutNote s q).tim = s.tim := by simp [timeoutNote]

theorem timeoutEnd_tim {s : State} {h a g : Nat} {t : Txn} (hwho : t.req.who = .agent a g) :
    (timeoutEnd s h t).tim = s.tim := by
  have hto (u : State) (h : Nat) : (timeoutTo u t.req h).tim = u.tim := by simp only [timeoutTo, hwho, errTo_tim]
  unfold timeoutEnd
  split
  case h_1 =>
    dsimp only
    split <;> simp [hto]
  all_goals simp [hto]

/-- Settles O34. -/
theorem snoopAnswerCommands : Obligations.SnoopAnswerCommands := by
  refine ⟨?i, ?sh, ?fwd, ?gone, ?data, ?ack, ?read, ?secondary, ?write, ?retry, ?waiting, ?txn, ?sweep⟩
  case i | sh | fwd | gone =>
    rintro hdr chip ep s m h t hlive rfl halive hserved hres hans howed
    exact answers_of_live rfl hlive (congrArg homeWork (snoopAnswer_of_awaited _ halive hserved hres hans howed))
  case data =>
    rintro hdr chip ep data s m h t hlive rfl halive hserved hres hans howed
    exact answers_of_live rfl hlive (congrArg homeWork (snoopAnswer_of_awaited .data halive hserved hres hans howed))
  case ack =>
    rintro hdr chip ep s m h t hlive rfl halive hserved hres hans hack hreq
    exact answers_of_live rfl hlive (congrArg homeWork (cmpAck_of_granted halive hserved hres hans hack hreq))
  case read =>
    intro h ecc sec s t sa d p u hlive htxn htr hsa hsec hecc hread
    exact answers_of_live rfl hlive (congrArg homeWork (nearReturn_of_own htxn htr hsa sec hsec hecc hread))
  case secondary =>
    intro h ecc d s t sa hlive htxn htr hsa hsec
    exact answers_of_live rfl hlive (congrArg homeWork (nearReturn_of_secondary htxn htr hsa hsec))
  case write =>
    intro h s t hlive htxn htr
    exact answers_of_live rfl hlive (congrArg homeWork (by simp only [htxn, htr, if_true]))
  case retry =>
    intro n s wr hlive hfind hfirst hstart
    exact ⟨_, rfl, answers_of_live rfl hlive (congrArg homeWork (retryStart_of_first hfind hfirst hstart))⟩
  case waiting =>
    rintro n s wr u hlive hfind rfl
    exact answers_of_live rfl hlive (congrArg homeWork (by simp only [homeTimeout, hfind, if_true]))
  case txn =>
    rintro n s t ag tg u hlive htxn hwho rfl
    exact answers_of_live rfl hlive (congrArg homeWork (by simp [homeTimeout, htxn, hwho, timeoutEnd_tim hwho]))
  case sweep =>
    rintro a ps s u y hlive hsweep rfl rfl
    exact answers_of_live rfl hlive (by simp only [sweepEnd, hsweep])

end Sys2Proof.Machine
end

section
/-! Engine accesses between chips (O35). -/
namespace Sys2Proof.Machine

/-! ## A served access and its answer -/

section
variable {s : State} {m : EngIn}

theorem engRd_of_home (hadmit : engAdmit s m false = none) (htier : saTier m.sa ≠ 2) : engRd s m =
    (cutLines m.sa m.len).foldl (fun u x =>
      homeStart u { kind := .engRd, who := .remote m.chip m.tag, ten := m.ten, prv := m.prv, sa := x.1 }) (engOpen s m true) := by
  simp only [engRd, hadmit, if_neg htier]

theorem engRd_of_tier2 (hadmit : engAdmit s m false = none) (htier : saTier m.sa = 2) : engRd s m =
    send s (engMsg s 2 m.chip m.ten m.tag 0 m.len m.prv m.sa ((cutLines m.sa m.len).map fun x =>
      sliceBytes (if x.2.2.1 = 64 then t2Read s m.prv m.ten (saOff x.1) 64 else t2Line s (saOff x.1)) x.2.1 x.2.2.1).flatten) := by
  simp only [engRd, hadmit, if_pos htier]

section
variable {qs part : List HomeReq} (hmirror : isMirrorWrite s m = false) (hadmit : engAdmit s m true = none)
  (htier : saTier m.sa ≠ 2) (hqs : qs = (cutLines m.sa m.len).map (fun x => engWrReq m x.1 x.2.1 x.2.2.1 x.2.2.2))
  (hpart : part = qs.filter (fun q => saTier q.sa == 1 && q.mask != fullMask))
include hmirror hadmit htier hqs hpart

/-- A write served in the tiers that have a directory, by its lines and by those that it covers in part. -/
theorem engWr_of_home : engWr s m =
    if qs.length ≤ 1 || part.isEmpty then qs.foldl homeStart (engOpen s m false)
    else part.foldl (fun u q => homeStart u { q with kind := .engRd, data := 0, mask := 0, tally := 0 })
      { s with home := { s.home with rem := s.home.rem ++ [{ remOp m false with owed := part.length, hold := qs }] } } := by
  subst hqs hpart
  simp only [engWr, hmirror, hadmit, if_neg htier, Bool.false_eq_true, if_false]

end

theorem engRdata_of_last {r : RemRead} (poison : Bool) (hfind : (s.eng.reads.find? fun x => x.tag == m.tag) = some r)
    (hlast : ((s.eng.reads.filter (·.tag != m.tag)).find? fun x => x.seq == r.seq && x.sa == r.sa) = none) :
    engRdata s m poison = gotLine { s with eng := { s.eng with reads := s.eng.reads.filter (·.tag != m.tag) } }
      { kind := .engRd, who := .slot r.seq, ten := m.ten, prv := m.prv, sa := r.sa }
      (r.acc ||| placeBytes r.off (m.data.take r.len)) poison := by
  simp only [engRdata, hfind, hlast]

theorem engAck_of_pend {p : Pend} (hmem : p ∈ s.eng.pend) (htag : p.tag = m.tag) (hheld : p.held = false) :
    engAck s m = dropPend s p.tag := by
  rw [htag]
  exact if_pos (List.any_eq_true.mpr ⟨p, hmem, by simp [htag, hheld]⟩)

end

/-! ## A posted write without an acknowledgement -/

section
variable {s : State} {tag : Nat} {p : Pend} (hfind : (s.eng.pend.find? fun x => x.tag == tag && !x.held) = some p)
include hfind

theorem recoverWrite_of_other (hown : servedBy s p.sa ≠ own s) : recoverWrite s tag =
    if !fencedChip s (servedBy s p.sa) &&
        (servedBy s p.sa != saChip p.sa || ((mget s.xlt.extc (p.sa / 2 ^ 30)).any fun r => bget r EXT.RCLASS != 0)) then
      send { s with eng := { s.eng with pend := s.eng.pend.map fun x => if x.tag = tag then { p with dst := servedBy s p.sa } else x } }
        (pendMsg s { p with dst := servedBy s p.sa })
    else dropPend (lostWrite s p stRegionLost 0x0040) tag := by
  simp only [recoverWrite, hfind, if_neg hown, Option.any_map]

theorem recoverWrite_of_own {u : State} {m : EngIn} (hown : servedBy s p.sa = own s)
    (hu : u = { s with eng := { s.eng with pend := s.eng.pend.map fun x => if x.tag = tag then { p with dst := own s } else x } })
    (hm : m = { hdr := (pendMsg u p).hdr, chip := own u, data := (pendMsg u p).data }) (hstop : extentStop u p.sa = none)
    (hredir : redirect u p.sa = .serve) :
    recoverWrite s tag = homeStart (engOpen u m false) { p.req with who := .remote (own u) tag } := by
  subst hu hm
  simp only [recoverWrite, hfind, hown, if_true, hstop, hredir]

end

/-- Settles O35. -/
theorem engineMessageCommands : Obligations.EngineMessageCommands := by
  refine ⟨?rd, ?rd2, ?wr, ?wrPart, ?rdata, ?ack, ?err, ?errRead, ?fenced, ?other, ?noClass, ?own, ?mirror⟩
  case rd =>
    rintro hdr chip ep s m hlive hep rfl hadmit htier
    exact answers_of_live rfl hlive ((if_pos hep).trans (congrArg homeWork (engRd_of_home hadmit htier)))
  case rd2 =>
    rintro hdr chip ep s m hlive hep rfl hadmit htier
    exact answers_of_live rfl hlive ((if_pos hep).trans (congrArg homeWork (engRd_of_tier2 hadmit htier)))
  case wr =>
    rintro hdr chip ep data s m qs hlive hep rfl hmirror hadmit htier hqs hwhole
    refine answers_of_live rfl hlive ((if_pos hep).trans (congrArg homeWork
      ((engWr_of_home hmirror hadmit htier hqs rfl).trans (if_pos ?_))))
    obtain h | h := hwhole <;> simp [h]
  case wrPart =>
    rintro hdr chip ep data s m qs part hlive hep rfl hmirror hadmit htier hqs hpart hlen hne
    refine answers_of_live rfl hlive ((if_pos hep).trans (congrArg homeWork
      ((engWr_of_home hmirror hadmit htier hqs hpart).trans (if_neg ?_))))
    simp [hlen, hne]
  case rdata =>
    rintro hdr chip ep data poison s m r hlive hep rfl hfind hlast
    exact answers_of_live rfl hlive ((if_pos hep).trans (engRdata_of_last poison hfind hlast))
  case ack =>
    intro hdr chip ep s p hlive hep hmem htag hheld
    exact answers_of_live rfl hlive ((if_pos hep).trans (congrArg homeWork (engAck_of_pend hmem htag hheld)))
  case err =>
    rintro hdr chip ep s p st hlive hep hfind rfl
    exact answers_of_live rfl hlive ((if_pos hep).trans (congrArg homeWork (by simp only [engErrIn, EngIn.tag, EngIn.x, hfind]; rfl)))
  case errRead =>
    intro hdr chip ep s r hlive hep hnone hfind hlost
    exact answers_of_live rfl hlive ((if_pos hep).trans (congrArg homeWork
      (by simp only [engErrIn, EngIn.tag, EngIn.x, EngIn.ten, EngIn.prv, hnone, hfind, hlost, if_true])))
  case fenced =>
    intro tag s p hlive hfind hown hfenced
    exact answers_of_live rfl hlive (congrArg homeWork ((recoverWrite_of_other hfind hown).trans (if_neg (by simp [hfenced]))))
  case other =>
    rintro tag s p _ hlive hfind hown hfenced hchip rfl
    exact answers_of_live rfl hlive (congrArg homeWork ((recoverWrite_of_other hfind hown).trans
      (if_pos (by simp [hfenced, hchip]))))
  case noClass =>
    intro tag s p hlive hfind hown hfenced hchip hclass
    exact answers_of_live rfl hlive (congrArg homeWork ((recoverWrite_of_other hfind hown).trans
      (if_neg (by rw [hclass]; simp [hchip]))))
  case own =>
    intro tag s p u m hlive hfind hown hu hm hstop hredir
    refine answers_of_live rfl hlive (congrArg homeWork (recoverWrite_of_own hfind hown hu hm hstop hredir))
  case mirror =>
    intro tag s m hlive hfind
    exact answers_of_live rfl hlive (by simp only [hfind])

end Sys2Proof.Machine
end

section
/-! Tallies (O36). -/
namespace Sys2Proof.Machine

/-- Settles O36. -/
theorem tallyCommands : Obligations.TallyCommands := by
  refine ⟨?allocate, ?count, ?release⟩
  case allocate =>
    rintro i v s o hlive hpos hlt hres hen hbit rfl hroom
    refine answers_of_live rfl hlive ((if_pos hlt).trans ((if_neg (by simp [hpos.ne', hres])).trans ?_))
    rw [if_neg (by simp [hen]), if_pos hbit, if_neg (Nat.not_le.mpr hroom)]
  case count =>
    intro i v s hlive hpos hlt
    exact answers_of_live rfl hlive ((if_pos hlt).trans (if_neg hpos.ne'))
  case release =>
    rintro i v s u hlive hpos hlt hres hen hown hbit rfl
    refine answers_of_live rfl hlive ((if_pos hlt).trans ((if_neg (by simp [hpos.ne', hres])).trans ?_))
    rw [if_pos hen, if_neg (not_not.mpr hown), if_neg (by simp [hbit])]

end Sys2Proof.Machine
end

section
/-! Look-ups and updates at the executing chip (O37). -/
namespace Sys2Proof.Machine

section
variable {s : State} {sq : Nat} {sl : Slot} {run : EmbRun} {idx : List Nat}

/-- A look-up that awaits no owner any more, and whose places are known, writes its output. -/
theorem gatherEnd_of_come (hslot : slotOf s sq = some sl) (hwork : sl.work = .emb run) (hout : run.out = true)
    (hawait : run.await_ = []) (hidx : embIdxs s sl = some idx)
    (hcome : placesCome s sl run (gatherHots s sl run idx) = true) : gatherEnd s sq =
      embFinish (storeBytes { s with fresh := s.fresh + 2 ^ 40 } sq 3 0 (gatherOut s sl run idx (gatherHots s sl run idx)))
        sq stOk 0 (run.repl * 2 ^ 32 + run.shard) := by
  simp only [gatherEnd, hslot, hwork]
  rw [if_neg (by simp [hout, hawait])]
  simp only [hidx]
  exact if_neg (by simp [hcome])

theorem embBegin_of_served (refuse : Bool) (hok : embOk s sl = true) (hrefuse : refuse = false)
    (hver : embVer s (tabOf sl.d) (embCur s (tabOf sl.d)) ≠ 0) : embBegin s sl refuse = takeVersion s sl := by
  simp [embBegin, hok, hrefuse, hver]

end

/-- Settles O37. -/
theorem embeddingRequestCommands : Obligations.EmbeddingRequestCommands := by
  refine ⟨?gather, ?gathered, ?update, ?updated, ?joined, ?ack, ?err, ?opx⟩
  case gather =>
    intro sq sl s hb hwork hok hlen hver
    obtain ⟨hlive, hslot, hph, hop, hstop, hheld⟩ := hb
    refine answers_of_live rfl hlive ((atBoundary_of_open hslot (.inl hph) hstop hheld).trans ((if_neg (not_not.mpr hop)).trans ?_))
    simp only [hwork]
    exact (if_neg (by simp [hlen])).trans (embBegin_of_served _ hok rfl hver)
  case gathered =>
    intro sq sl s run idx hlive hslot hph hstop hheld hop hwork herr hout hawait hidx hcome
    refine answers_of_live rfl hlive ((atBoundary_of_open hslot (.inr hph) hstop hheld).trans ((if_neg (not_not.mpr hop)).trans ?_))
    simp only [hwork, gatherGo.hardErr', herr]
    exact (if_pos hout).trans (gatherEnd_of_come hslot hwork hout hawait hidx hcome)
  case update =>
    intro sq sl s hb hwork hok hlen hrefused hver
    obtain ⟨hlive, hslot, hph, hop, hstop, hheld⟩ := hb
    refine answers_of_live rfl hlive ((atBoundary_of_open hslot (.inl hph) hstop hheld).trans ((if_neg (not_not.mpr hop)).trans ?_))
    simp only [hwork]
    exact (if_neg (by simp [hlen])).trans (embBegin_of_served _ hok (by simp [hrefused]) hver)
  case updated =>
    intro sq sl s run idx hlive hslot hph hstop hheld hop hwork herr hout hvals hrows hidx
    refine answers_of_live rfl hlive ((atBoundary_of_open hslot (.inr hph) hstop hheld).trans ((if_neg (not_not.mpr hop)).trans ?_))
    simp only [hwork, herr]
    rw [if_neg (by simp [hout]), if_neg (by simp [hvals, hrows])]
    simp only [hidx]
  case joined =>
    rintro s n x sl run e u r2 hlive hnext hans rfl rfl
    exact answers_of_live rfl hlive (by simp only [partial1, hnext, hans])
  case ack =>
    rintro s n x u sl run r2 y hlive hnext rfl hfind hwork rfl rfl
    exact answers_of_live rfl hlive (by simp only [updAck1, hnext, hfind, hwork])
  case err =>
    rintro s n x u sl hlive hnext rfl hfind
    exact answers_of_live rfl hlive (by simp only [opxErr1, hnext, hfind])
  case opx =>
    rintro hdr chip ep data poison s h hlive hep hlen rfl hbad hnone
    refine answers_of_live rfl hlive ((if_pos hep).trans ((if_neg (Nat.not_lt.mpr hlen)).trans ?_))
    simp only [hbad, hnone, Bool.false_eq_true, if_false, Bool.false_or]

end Sys2Proof.Machine
end

section
/-! Look-ups and updates at an owner (O38), tables, versions and hot rows (O39). -/
namespace Sys2Proof.Machine

/-! ## The owner's windows leave the exchanges alone -/

theorem xin_modWin (s : State) (t : Nat) (k : Nat × Nat × Nat) (f : EmbWin → EmbWin) :
    (modWin s t k f).emb.xin = s.emb.xin := rfl

theorem xin_openWin (s : State) (t : Nat) (k : Nat × Nat × Nat) : (openWin s t k).emb.xin = s.emb.xin := by
  unfold openWin
  dsimp only
  split <;> rfl

section
variable {s : State} {n : Nat} {x : Exch}

/-- Contributions of mode 1 read no row: an update whose window is open is applied at once. -/
theorem update1_of_mode1 {b : Bool} (hnext : nextUpd s = some (n, x)) (hx : mget s.emb.xin n = some x)
    (hwrote : x.wrote = false) (hmode : x.param = 1) (hserved : ownerRefuses s x = none)
    (hslot : embSlot s x.obj x.ver = some b) (hopen : winClosed s x.obj (winKey x) = false) : update1 s =
      updApply (modWin (openWin s x.obj (winKey x)) x.obj (winKey x) fun w => modPart w x id) n x b := by
  have hx' : mget (modWin (openWin s x.obj (winKey x)) x.obj (winKey x) fun w => modPart w x id).emb.xin n = some x := by
    rw [xin_modWin, xin_openWin, hx]
  simp only [update1, hnext, hwrote, hserved, hslot, hopen, hmode, Bool.false_eq_true, if_false, if_true, hx']
  exact if_pos rfl

theorem update1_of_written (hnext : nextUpd s = some (n, x)) (hwrote : x.wrote = true) (howed : x.owed = 0) :
    update1 s = match x.err with
      | some e => updRefuse (sendErr (dropExch s n) x e.1 e.2) x
      | none => winCheck (dropExch s n) x.obj (winKey x) := by
  cases herr : x.err <;> simp only [update1, hnext, hwrote, howed, herr, if_true]

end

/-- A look-up whose rows are all there is answered with their partials. -/
theorem lookup1_of_read {s u v : State} {n : Nat} {x y : Exch} {b : Bool} {ps : List Nat}
    (hnext : nextExch s xLookup = some (n, x)) (hserved : ownerRefuses s x = none)
    (hslot : embSlot s x.obj x.ver = some b) (hps : ps = (lookupRecs x).map (·.1))
    (hu : u = ps.foldl (fun u p => xAsk u n x.ten (embBase u x.obj b + p * embTS u x.obj) (embTS u x.obj)) s)
    (hy : mget u.emb.xin n = some y)
    (hcome : ps.all (fun p => xHave y (embBase u x.obj b + p * embTS u x.obj) (embTS u x.obj)) = true) (herr : y.err = none)
    (hv : v = ps.eraseDups.foldl
      (fun v p => bump v 0x0701 1 { ten := some y.ten, sa := some (embBase v x.obj b + p * embTS v x.obj) }) u) :
    lookup1 s = sendExch (dropExch (sketchAll { v with fresh := v.fresh + 2 ^ 40 } x.obj (ps.map (rowAt v x.obj (myPos v x.obj)))) n)
      y.chip y.ten y.xslot y.tag xPartial x.obj y.ver y.param (partialRecs v y b) y.poison := by
  rw [lookup1, hnext]
  split
  next hno => exact absurd hno nofun
  next n' x' hx' =>
  obtain ⟨rfl, rfl⟩ := Prod.mk.inj (Option.some.inj hx')
  split
  next e hbad => exact absurd (hbad.symm.trans hserved) nofun
  next hno => exact absurd (hno.symm.trans hslot) nofun
  next b' _ hb' =>
  obtain rfl := Option.some.inj (hb'.symm.trans hslot)
  extract_lets t ps' u'
  obtain rfl : ps = ps' := hps
  obtain rfl : u = u' := hu
  split
  next hno => exact absurd (hno.symm.trans hy) nofun
  next z hz =>
  obtain rfl := Option.some.inj (hz.symm.trans hy)
  rw [if_neg (by simpa using hcome)]
  split
  next e he => exact absurd (he.symm.trans herr) nofun
  next =>
  extract_lets v' recs
  obtain rfl : v = v' := hv
  rfl

/-- Settles O38. -/
theorem embeddingOwnerCommands : Obligations.EmbeddingOwnerCommands := by
  refine ⟨?lookup, ?update, ?written, ?failed, ?ended, ?late⟩
  case lookup =>
    intro s n x y u b ps hlive hnext hserved hslot hps hu hy hcome herr
    exact ⟨_, rfl, answers_of_live rfl hlive (lookup1_of_read hnext hserved hslot hps hu hy hcome herr rfl)⟩
  case update =>
    intro s n x b hlive hnext hx hwrote hmode hserved hslot hopen
    exact answers_of_live rfl hlive (update1_of_mode1 hnext hx hwrote hmode hserved hslot hopen)
  case written =>
    intro s n x hlive hnext hwrote howed herr
    exact answers_of_live rfl hlive ((update1_of_written hnext hwrote howed).trans (by simp only [herr]))
  case failed =>
    intro s n x e hlive hnext hwrote howed herr
    exact answers_of_live rfl hlive ((update1_of_written hnext hwrote howed).trans (by simp only [herr]))
  case ended =>
    intro s n x hlive hnext hheld hopen
    refine answers_of_live rfl hlive ?_
    simp only [updEnd1, hnext, hheld, hopen, Bool.not_true, Bool.false_eq_true, if_false]
  case late =>
    intro t i s w hlive hw
    exact answers_of_live rfl hlive (by simp only [winTimeout, hw])

/-! ## Tables -/

/-- A version command of a table in service. -/
theorem switchGo_of_begins {s : State} {op sq : Nat} {sl : Slot} {go : Slot → State} (hb : Begins s ocEmbSwitch sq sl)
    (hop : subOp sl.d = op) (hok : embOk s sl = true) : switchGo s op sq go = go sl := by
  rw [switchGo, begins_of_begins hb, if_neg (not_not.mpr hop), if_neg (by simp [hok])]

/-- Settles O39. -/
theorem embeddingTableCommands : Obligations.EmbeddingTableCommands := by
  refine ⟨?activate, ?deactivate, ?load, ?switch, ?pin, ?unpin, ?refresh, ?push, ?release, ?pushEnd⟩
  case activate =>
    rintro t s u hfast honly hlt hok hactive hhot hsketch rfl hhot' hsketch'
    refine answers_of_fast rfl hfast honly ?_
    rw [Nat.mod_eq_of_lt hlt, embActivate, if_neg (not_not.mpr hok)]
    simp [hactive, hhot', hsketch']
  case deactivate =>
    rintro t s hfast honly hlt hpinsA hpinsB hwins hrefresh hactive hsketch hsketch'
    refine answers_of_fast rfl hfast honly ?_
    rw [Nat.mod_eq_of_lt hlt, embDeactivate, if_neg (by simp [hpinsA, hpinsB, hwins, hrefresh])]
    simp [hactive, hsketch']
  case load =>
    rintro sq sl s t b u hb hop hok rfl rfl hload hpins rfl
    refine answers_of_live rfl hb.1 ((switchGo_of_begins hb hop hok).trans ?_)
    simp only [hload, hpins, Bool.false_eq_true, if_false, ne_eq, not_true_eq_false]
  case switch =>
    rintro sq sl s t b u y hb hop hok rfl rfl hver rfl rfl
    exact answers_of_live rfl hb.1 ((switchGo_of_begins hb hop hok).trans (if_neg (not_not.mpr hver)))
  case pin =>
    rintro sq sl s t l hb hop hok rfl herr hhave hlist hroom
    refine ⟨_, rfl, answers_of_live rfl hb.1 ((switchGo_of_begins hb hop hok).trans ?_)⟩
    simp only [herr, hhave, hlist, Bool.not_true, Bool.false_eq_true, if_false]
    exact if_neg (Nat.not_lt.mpr hroom)
  case unpin =>
    intro sq sl s hb hop hok
    exact answers_of_live rfl hb.1 (switchGo_of_begins hb hop hok)
  case refresh =>
    rintro sq sl s t u x hb hop hwork hok rfl hver hfree rfl hhot hslot
    obtain ⟨hlive, hsl, hph, hoc, hstop, hheld⟩ := id hb
    refine answers_of_live rfl hlive ((atBoundary_of_open hsl (.inl hph) hstop hheld).trans ((if_neg (by simp [hwork])).trans
      ((switchGo_of_begins hb hop hok).trans ?_)))
    rw [if_neg hver, if_neg (by simp [refreshing, hfree])]
    simp [hfree, hhot, hslot]
  case push =>
    intro s n x hlive hnext
    exact answers_of_live rfl hlive (by simp only [push1, hnext])
  case release =>
    intro t s hlive hbuf
    exact answers_of_live rfl hlive (if_neg (by simp [hbuf]))
  case pushEnd =>
    intro s n x hlive hnext
    exact ⟨_, rfl, answers_of_live rfl hlive (by simp only [hnext])⟩

end Sys2Proof.Machine
end

section
/-! Collections and their mutations (O40), scans, plane engines and flash channels (O41). -/
namespace Sys2Proof.Machine

section
variable {s : State} {oc sq : Nat} {sl : Slot} {start : Slot → State} {next : Nat → Slot → State}

/-- A mutation whose turn it is starts. -/
theorem mutGo_of_begins (hb : Begins s oc sq sl) (hwork : sl.work = .idle) (hturn : mutTurn s sl = true)
    (hok : collOk s sl = true) (hcheck : vscCheck s sl.d = 0) (herr : hardErr sl = none) : mutGo s oc sq start next = start sl := by
  simp only [mutGo, hb.2.1, hwork, begins_of_begins hb, hturn, hok, hcheck, herr, Bool.not_true, Bool.false_eq_true, if_false,
    ne_eq, not_true_eq_false]

/-- A mutation whose writes so far are performed goes on. -/
theorem mutGo_of_written {k : Nat} (hslot : slotOf s sq = some sl) (hph : sl.ph = .running) (hwork : sl.work = .vwrite k)
    (hop : opcode sl.d = oc) (howed : sl.owed = 0) (hheld : heldBack s sq = false) (hstop : sl.stop = none)
    (herr : sl.err = none) : mutGo s oc sq start next = next k sl := by
  simp only [mutGo, hslot, hwork, hph]
  rw [if_neg (by simp [hop, howed, hheld])]
  simp only [hstop, herr, Option.or_none]

end

/-- Settles O40. -/
theorem collectionCommands : Obligations.CollectionCommands := by
  refine ⟨?activate, ?adopt, ?deactivate, ?insert, ?insertNext, ?delete, ?deleteNext⟩
  case activate =>
    rintro c s u hfast honly hlt hok hactive rfl
    refine answers_of_fast rfl hfast honly ?_
    rw [Nat.mod_eq_of_lt hlt, vscActivate, if_neg (not_not.mpr hok), if_neg hactive]
    simp only [Bool.false_eq_true, if_false]
  case adopt =>
    rintro c s u hfast honly hlt hok hactive rfl
    refine answers_of_fast rfl hfast honly ?_
    rw [Nat.mod_eq_of_lt hlt, vscActivate, if_neg (not_not.mpr hok), if_neg hactive]
    simp only [if_true]
  case deactivate =>
    intro c s hfast honly hlt hscans hmut hactive
    refine answers_of_fast rfl hfast honly ?_
    rw [Nat.mod_eq_of_lt hlt]
    exact (if_neg (by simp [hscans, hmut])).trans (by simp only [if_pos hactive])
  case insert | delete =>
    intro sq sl s hb hwork hturn hok hcheck herr
    exact answers_of_live rfl hb.1 (mutGo_of_begins hb hwork hturn hok hcheck herr)
  case insertNext | deleteNext =>
    intro sq sl s k hlive hslot hph hwork hop howed hheld hstop herr
    exact answers_of_live rfl hlive (mutGo_of_written hslot hph hwork hop howed hheld hstop herr)

/-! ## Scans -/

section
variable {s u : State} {oc sq : Nat} {is : List Nat} {sl x : Slot} {r : ScanRun} {go : State → Slot → ScanRun → State}

/-- A scan whose queries have come begins. -/
theorem scanBegin_of_begins (hb : Begins s oc sq sl) (hwait : s.arr.waiting.contains sq = false) (hcheck : vscCheck s sl.d = 0)
    (herr : hardErr sl = none) (hwork : sl.work = .scan r) (hask : u = askAll s sq is) (hx : slotOf u sq = some x)
    (hhave : haveAll x is = true) : scanBegin s oc sq is go = go u x r := by
  rw [scanBegin, begins_of_begins hb, if_neg (by rw [hwait]; exact Bool.false_ne_true), if_neg (not_not.mpr hcheck)]
  simp only [herr, hwork, withReads, ← hask, hx, hhave, if_true]

/-- In the middle of a stripe a working engine scores the next block. -/
theorem scanRead_of_block {ch : Nat} {uncorr : Bool} {red : Option (BitVec 32768)} (hslot : slotOf s sq = some sl)
    (hwork : sl.work = .scan r) (hfar : farScan s sl = true) (hturn : scanTurn s sl = true) (hshare : engineShare s sl = true)
    (hup : engineUp s ch = true) (hbusy : plumbBusy s sq = false) (hdone : chanDone r ch = false)
    (hpos : mgetD 0 r.pos ch % coll s (collOf sl.d) VCOLL.G ≠ 0) : scanRead s sq ch uncorr red =
      scanGoOn (scanBlock s sl r ch uncorr red).2 sl (scanBlock s sl r ch uncorr red).1 := by
  simp only [scanRead, hslot, hwork]
  rw [if_neg (by simp [hfar, hturn, hshare, hup, hbusy, hdone]), if_neg hpos]

end

/-- Settles O41. -/
theorem scanCommands : Obligations.ScanCommands := by
  refine ⟨?far, ?near, ?rerank, ?block, ?wake, ?engine, ?channel, ?unresponsive, ?erase⟩
  case far =>
    intro sq sl s r u x hb hwait hcheck herr hwork hask hx hhave htier
    exact answers_of_live rfl hb.1 ((scanBegin_of_begins hb hwait hcheck herr hwork hask hx hhave).trans (if_pos htier))
  case near =>
    intro sq sl s r u x hb hwait hcheck herr hwork hask hx hhave htier hm
    exact answers_of_live rfl hb.1 ((scanBegin_of_begins hb hwait hcheck herr hwork hask hx hhave).trans
      ((if_neg htier).trans (if_neg hm)))
  case rerank =>
    intro sq sl s r u x hb hwait hcheck herr hwork hask hx hhave
    exact answers_of_live rfl hb.1 (scanBegin_of_begins hb hwait hcheck herr hwork hask hx hhave)
  case block =>
    intro sq ch uncorr red sl s r hlive hslot hwork hfar hturn hshare hup hbusy hdone hpos
    exact answers_of_live rfl hlive (scanRead_of_block hslot hwork hfar hturn hshare hup hbusy hdone hpos)
  case wake =>
    intro ch s hlive
    exact ⟨_, rfl, answers_of_live rfl hlive rfl⟩
  case engine =>
    intro ch s hlive hlt hok
    exact answers_of_live rfl hlive ((if_neg (by simpa [hlt] using hok)).trans (if_neg Bool.false_ne_true))
  case channel =>
    intro ch s hlive hlt hok
    exact answers_of_live rfl hlive ((if_neg (by simpa [hlt] using hok)).trans (if_pos rfl))
  case unresponsive =>
    intro ch s hlive hlt
    exact answers_of_live rfl hlive (if_pos hlt)
  case erase =>
    intro ch s u hlive hlt hu
    have hsled : ch / 16 % 4 = ch / 16 := Nat.mod_eq_of_lt (by omega)
    obtain ⟨y, hy⟩ : ∃ y, y = ledger (satF u TIER_WEAR.RETIRED (ch / 16)) 0x0506 1 none [ch] := ⟨_, rfl⟩
    have hspare : getF { y with fresh := y.fresh + 1 } TIER_WEAR.SPARE (ch / 16) = getF y TIER_WEAR.SPARE (ch / 16) := rfl
    refine ⟨y, getF y TIER_WEAR.SPARE (ch / 16) - Config.pick y.fresh % (getF y TIER_WEAR.SPARE (ch / 16) + 1), hy,
      Nat.sub_le _ _, answers_of_live rfl hlive ?_⟩
    simp only [hsled, ← hu, ← hy, takeFresh, hspare, Bool.false_eq_true, if_false]

end Sys2Proof.Machine
end

section
/-! Frame time and its synchronisation (O42). -/
namespace Sys2Proof.Machine

/-- With no exchange out there is none to give up. -/
theorem tim_of_noExchange {s : State} (hout : s.tim.out = none) :
    { s with tim := { s.tim with miss := s.tim.miss, out := none } } = s := by
  rw [← hout]

section
variable {s : State} (helig : eligible s = true) (hgm : getF s TIM_SYNC.GM = own s) (hknown : s.tim.known = true)
  (hext : tstF s TIM_CFG.EXTREF = true) (hoff : s.tim.refOff = false)
include helig hgm hknown hext hoff

/-- A locked reference of a grandmaster that follows it. -/
theorem answers_ptpReferenceMessage (hlive : live s = true) (ref : W64) : Answers (.ptpReferenceMessage ref true) s
    (if getF s TIM_EPOCH.EPOCH = 0 then regSet s .TIM_EPOCH 0 (ref - BitVec.ofNat 64 (s.tim.now.toNat / 256))
      else if 1000000 < (ref - (regGet s .TIM_EPOCH 0 + BitVec.ofNat 64 (s.tim.now.toNat / 256))).toInt.natAbs then
        setEvt { s with tim := { s.tim with refOff := true } } TIM_EVT.REFFAR
      else freeRate s 10 1000000) :=
  answers_of_live rfl hlive (if_neg (by simp [helig, hgm, hknown, hext, hoff]))

end

/-- Settles O42. -/
theorem timeCommands : Obligations.TimeCommands := by
  refine ⟨?start, ?request, ?reply, ?lost, ?epoch, ?steer⟩
  case start =>
    rintro s p hlive hen rfl hout hmiss hlt hup
    refine answers_of_live rfl hlive ((if_neg (by simp [hen])).trans ?_)
    have hfew : ¬ 8 ≤ s.tim.miss := Nat.not_le.mpr hmiss
    have hport : ¬ 12 ≤ getF s TIM_SYNC.PORT := Nat.not_le.mpr hlt
    simp only [hout, Option.isSome_none, Bool.false_eq_true, if_false, tim_of_noExchange hout, hfew, hport, hup, decide_false,
      Bool.false_and, Bool.not_true, Bool.or_false]
  case request =>
    intro p xid s hlive hen hup hedge
    refine answers_of_live rfl hlive (if_neg ?_)
    obtain h | h := hedge <;> simp [hen, hup, h]
  case reply =>
    rintro p w0 w1 s x t1 u y hlive hout rfl hxid rfl rfl
    refine answers_of_live rfl hlive ?_
    simp only [hout]
    rw [if_neg (by simp [hxid])]
    simp
  case lost =>
    intro s hlive hst
    exact answers_of_live rfl hlive (if_pos hst)
  case epoch =>
    rintro ref locked s hlive helig hgm hknown hext rfl hoff hepoch
    have h := answers_ptpReferenceMessage helig hgm hknown hext hoff hlive ref
    rwa [if_pos hepoch] at h
  case steer =>
    rintro ref locked s hlive helig hgm hknown hext rfl hoff hepoch hnear
    have h := answers_ptpReferenceMessage helig hgm hknown hext hoff hlive ref
    rwa [if_neg hepoch, if_neg (Nat.not_lt.mpr hnear)] at h

end Sys2Proof.Machine
end

section
/-! Flits, heartbeats and RETRAIN (O43). -/
namespace Sys2Proof.Machine

theorem tstF_setF_reg (s : State) (f g : Fld) (i j x : Nat) (hi : i < 65536) (hj : j < 65536) (h : g.reg ≠ f.reg) :
    tstF (setF s f i x) g j = tstF s g j := by rw [tstF, tstF, getF_setF_reg s f g i j x hi hj h]

section
variable {s : State} {p : Nat} (hlt : p < 12) (hactive : portSt s p = psActive)
include hlt hactive

/-- A port in service transmits. -/
theorem answers_flitTransmit (hfast : s.pwr.fast = true) : Answers (.flitTransmit p) s
    (match (portOf s p).replay with
      | some q => resendFlit s p q
      | none => if 512 ≤ (portOf s p).buf.length then s else newFlit s p) :=
  answers_of_clock rfl hfast (if_neg (by simp [hlt, hactive]))

/-- A port in service receives. -/
theorem answers_flitReceive (hfast : s.pwr.fast = true) (hdr : BitVec 128) (msgs : List (BitVec 128 × List Byte)) (cnt : Nat)
    (crcOk tagOk stomp cut : Bool) : Answers (.flitReceive p hdr msgs cnt crcOk tagOk stomp cut) s
      (flitReceive s p hdr msgs cnt crcOk tagOk stomp cut) :=
  answers_of_clock rfl hfast (if_neg (by simp [hlt, hactive]))

end

/-- A flit in sequence under the key in use. -/
theorem flitReceive_of_inSequence {s : State} {p : Nat} {hdr : BitVec 128} (msgs : List (BitVec 128 × List Byte))
    (stomp : Bool) (hactive : portSt s p = psActive) (hseq : bget hdr FLIT.SEQ = (portOf s p).rxSeq)
    (hnew : (portOf s p).rxNew = false) (hkey : bget hdr FLIT.KEYSEL = (portOf s p).rxSel) :
    flitReceive s p hdr msgs (portOf s p).rxCnt true true stomp false = acceptFlit s p hdr msgs stomp false := by
  simp [flitReceive, hactive, hseq, hnew, hkey]

/-- The window of a port in service ends without a heartbeat, or with one. -/
theorem answers_heartbeatWindowEnd {s : State} {p : Nat} (hlive : live s = true) (hlt : p < 12) (hup : portUp s p = true) :
    Answers (.heartbeatWindowEnd p) s (if (portOf s p).hbGot then modPort s p fun x => { x with hbGot := false } else
      if 3 ≤ getF s LNK_HB.MISSES p + 1 then portDown (setF s LNK_HB.MISSES p (getF s LNK_HB.MISSES p + 1)) p 0
      else setF s LNK_HB.MISSES p (getF s LNK_HB.MISSES p + 1)) :=
  answers_of_live rfl hlive (if_neg (by simp [hlt, hup]))

/-- Settles O43. -/
theorem linkCommands : Obligations.LinkCommands := by
  refine ⟨?new, ?resend, ?accept, ?reject, ?nak, ?retrained, ?retrainLate, ?heartbeat, ?send, ?heard, ?missed⟩
  case new =>
    intro p s hfast hlt hactive hreplay hroom
    have h := answers_flitTransmit hlt hactive hfast
    simp only [hreplay] at h
    rwa [if_neg (Nat.not_le.mpr hroom)] at h
  case resend =>
    intro p q s hfast hlt hactive hreplay
    have h := answers_flitTransmit hlt hactive hfast
    simpa only [hreplay] using h
  case accept =>
    rintro p hdr msgs cnt tagOk stomp s hfast hlt hactive hseq hnew hkey rfl rfl
    exact flitReceive_of_inSequence msgs stomp hactive hseq hnew hkey ▸
      answers_flitReceive hlt hactive hfast hdr msgs _ true true stomp false
  case reject =>
    intro p hdr msgs cnt tagOk stomp s hfast hlt hactive
    exact answers_flitReceive hlt hactive hfast hdr msgs cnt false tagOk stomp false
  case nak =>
    intro p s hfast hlt hdiscard
    exact answers_of_clock rfl hfast (if_pos (by simp [hlt, hdiscard]))
  case retrained =>
    intro p s hlive hlt hst hheld
    refine answers_of_live rfl hlive ((if_neg (by simp [hlt, hst])).trans ?_)
    simp only [hheld, Bool.false_eq_true, if_false]
  case retrainLate =>
    intro p s hlive hlt hst
    exact answers_of_live rfl hlive (if_pos (by simp [hlt, hst]))
  case heartbeat =>
    intro p hdr s hlive hlt hup hhealth hen
    refine answers_of_live rfl hlive ((if_neg (by simp [hlt, hup])).trans ((if_neg hhealth).trans (if_neg ?_)))
    have hp : p < 65536 := by omega
    rw [tstF_setF_reg _ _ _ _ _ _ hp (by decide) (by decide), tstF_setF_reg _ _ _ _ _ _ hp (by decide) (by decide)]
    exact ne_true_of_eq_false hen
  case send =>
    intro p s hlive hlt hst
    refine ⟨Config.pick s.fresh % 2, Nat.mod_lt _ (by decide), answers_of_live rfl hlive ?_⟩
    rw [if_neg (Nat.not_le.mpr hlt), if_pos hst]
    rfl
  case heard =>
    intro p s hlive hlt hup hgot
    have h := answers_heartbeatWindowEnd hlive hlt hup
    rwa [if_pos hgot] at h
  case missed =>
    rintro p s n hlive hlt hup hgot rfl
    have h := answers_heartbeatWindowEnd hlive hlt hup
    rwa [if_neg (by simp [hgot])] at h

end Sys2Proof.Machine
end

section
/-! Training, link exchange and the frame seed (O44). -/
namespace Sys2Proof.Machine

/-- The six credits of a PARAM are its six fields. -/
theorem getD_credits (w : BitVec 128) {i : Nat} (hi : i < 6) :
    ((List.range 6).map fun i => bget w ⟨16 * i, 16⟩).getD i 0 = bget w ⟨16 * i, 16⟩ := by
  simp [List.getD, hi]

/-- PARAM of a peer as R443 and R444 want it. -/
theorem answers_param_of_peer {s u : State} {p : Nat} {w0 w1 : BitVec 128} (hlive : live s = true) (hlt : p < 12) (hst : portSt s p = psParam)
    (hpeer : isPeer s p = true) (hedge : isEdge s p = false) (hver : bget w0 ⟨112, 8⟩ = 1) (hmode : bget w0 ⟨110, 2⟩ = 1)
    (hchip : bget w0 ⟨100, 10⟩ ≠ own s) (hcred : [0, 1, 2, 3, 4, 5].all (fun i => decide (22 ≤ bget w1 ⟨16 * i, 16⟩)) = true)
    (hu : u = setF (setF s LNK_STAT.PEER p (bget w0 ⟨100, 10⟩)) LNK_STAT.NRANK p (bget w0 ⟨76, 16⟩)) :
    Answers (.param p w0 w1) s (secStart (setPortSt (modPort u p fun x =>
      { x with adv := (List.range 6).foldl (fun m i => mputD 0 m i (bget w1 ⟨16 * i, 16⟩)) [] }) p psSecure) p) := by
  have hbad : [0, 1, 2, 3, 4, 5].any (fun i =>
      decide (((List.range 6).map fun i => bget w1 ⟨16 * i, 16⟩).getD i 0 < 22)) = false := by
    rw [List.all_eq_true] at hcred
    rw [List.any_eq_false]
    intro i hi
    have hi6 : i < 6 := by fin_cases hi <;> decide
    rw [getD_credits w1 hi6]
    simpa using of_decide_eq_true (hcred i hi)
  have hadv : (List.range 6).foldl (fun m i => mputD 0 m i (((List.range 6).map fun i => bget w1 ⟨16 * i, 16⟩).getD i 0)) [] =
      (List.range 6).foldl (fun m i => mputD 0 m i (bget w1 ⟨16 * i, 16⟩)) [] :=
    List.foldl_ext _ _ _ fun m i hi => by rw [getD_credits w1 (List.mem_range.mp hi)]
  refine answers_of_live rfl hlive ((if_neg (by simp [hlt, hst])).trans ?_)
  simp only [hpeer, hedge, hver, hmode, if_true, Bool.false_and, hadv, ← hu]
  exact if_neg (by rw [hbad]; simp [hchip])

/-- An exchange that is open takes a FINISH of an edge agent's first key. -/
theorem takeFinish_of_edge {s : State} {p : Nat} {body h e : List Byte} (hopen : secOpen s p = true)
    (hst : portSt s p = psSecure) (hpeer : isPeer s p = false) (hhello : mget (portOf s p).got secHello = some h)
    (hencap : mget (portOf s p).got secEncap = some e) (hlen : body.length = 3313) : takeFinish s p body =
      if Config.finishOk body ([h, e] ++ (portOf s p).sent.map (·.2)) then
        offerSeed (modPort (portActive s p) p fun x => { x with sent := [], frag := [] }) p (helloFsid h)
      else secFail s p := by
  have hkey : (psSecure == psActive) = false := by decide
  simp only [takeFinish, hopen, hhello, hencap, hlen, hst, hpeer, hkey, Bool.not_true, Bool.false_eq_true, if_false,
    Bool.false_and, Bool.or_false, bne_self_eq_false, Bool.false_or]
  cases Config.finishOk body ([h, e] ++ (portOf s p).sent.map (·.2)) <;> rfl

/-- Settles O44. -/
theorem trainingCommands : Obligations.TrainingCommands := by
  refine ⟨?enable, ?disable, ?detect, ?phy, ?fec, ?limit, ?param, ?hello, ?encap, ?finish, ?rekey, ?seed⟩
  case enable =>
    rintro p v s u hfast honly hlt hsealed hwas hen rfl hmode hslot
    refine answers_of_fast rfl hfast honly ((if_neg (Nat.not_le.mpr hlt)).trans ?_)
    simp only [hsealed, hwas, hen, hmode, hslot, if_true, Bool.not_true, Bool.false_or, Bool.false_eq_true, if_false]
  case disable =>
    rintro p v s u hfast honly hlt hsealed hen rfl
    refine answers_of_fast rfl hfast honly ((if_neg (Nat.not_le.mpr hlt)).trans ?_)
    simp only [hsealed, hen, if_true, Bool.not_false, Bool.false_eq_true, if_false]
  case detect =>
    intro p s hlive hlt hst
    exact answers_of_live rfl hlive (if_pos (by simp [hlt, hst]))
  case phy =>
    intro p s hlive hlt hst
    exact answers_of_live rfl hlive ((if_neg (Nat.not_le.mpr hlt)).trans (if_pos hst))
  case fec =>
    intro p s hlive hlt hst
    exact answers_of_live rfl hlive ((if_neg (Nat.not_le.mpr hlt)).trans
      ((if_neg (by rw [hst]; decide)).trans (if_pos hst)))
  case limit =>
    intro p s hlive hlt hlo hhi
    exact answers_of_live rfl hlive (if_pos (by simp [hlt, hlo, hhi]))
  case param =>
    intro p w0 w1 s u hlive hlt hst hpeer hedge hver hmode hchip hcred hu
    exact answers_param_of_peer hlive hlt hst hpeer hedge hver hmode hchip hcred hu
  case hello =>
    rintro p body s u hlive hopen rfl
    exact answers_of_live rfl hlive (if_neg (by simp [hopen]))
  case encap =>
    intro p body s hlive hopen hgot hlen
    refine answers_of_live rfl hlive ((if_neg (by simp [hopen])).trans ?_)
    have hsome : (mget (portOf s p).got secHello).isNone = false := by simpa [← Option.not_isSome] using hgot
    simp only [hsome, hlen, Bool.false_or, bne_self_eq_false]
    cases Config.encapOk body <;> rfl
  case finish =>
    intro p body s h e hlive hopen hst hpeer hhello hencap hlen
    exact answers_of_live rfl hlive (takeFinish_of_edge hopen hst hpeer hhello hencap hlen)
  case rekey =>
    intro p s hlive hlt hst hnew
    exact answers_of_live rfl hlive (if_pos (by simp [hlt, hst, hnew]))
  case seed =>
    intro p fsid seed s h hlive hlt hst hpeer hvault hhello hshown hne
    refine answers_of_live rfl hlive ((if_neg (by simp [hlt, hst, hpeer, hvault])).trans ?_)
    have hfsid : ¬ fsid = 0#64 := hne
    simp [hhello, hshown, hfsid]

end Sys2Proof.Machine
end

section
/-! Declaring, fencing and reports (O45), orders of the fault manager (O46). -/
namespace Sys2Proof.Machine

/-- A fence of an agent in service. -/
theorem fenceAgent_of_alive {s : State} {ag : Nat} (halive : ag ∉ s.home.dead) :
    fenceAgent s ag = setEvt (ledger (agentDead s ag) 0x0C01 3 none [ag, 0]) RED_EVT.FENCE := by
  simp [fenceAgent, halive]

/-- Settles O45. -/
theorem fenceCommands : Obligations.FenceCommands := by
  refine ⟨?declared, ?chip, ?agent, ?self, ?reports⟩
  case declared =>
    rintro chip s u hlive hmem rfl hfenced
    exact answers_of_live rfl hlive ((if_neg (by simpa using hmem)).trans (if_neg (ne_true_of_eq_false hfenced)))
  case chip =>
    intro subj fr tm s hlive hfr hsubj hfenced
    exact answers_of_live rfl hlive ((if_neg (ne_true_of_eq_false hfr)).trans
      ((if_neg Nat.one_ne_zero).trans (if_neg hsubj)))
  case agent =>
    intro ag fr tm s hlive hfr halive
    exact answers_of_live rfl hlive ((if_neg (ne_true_of_eq_false hfr)).trans ((if_pos rfl).trans (fenceAgent_of_alive halive)))
  case self =>
    intro fr tm s hlive hfr
    exact answers_of_live rfl hlive ((if_neg (ne_true_of_eq_false hfr)).trans ((if_neg Nat.one_ne_zero).trans (if_pos rfl)))
  case reports =>
    rintro s n hfast honly rfl
    exact answers_of_fast rfl hfast honly rfl

/-! ## Orders -/

section
variable {s : State} {oseq : Nat} {go : State → State}

/-- An authentic order with a rising OSEQ is carried out. -/
theorem order_of_rising (hseq : getF s SEC_OSEQ.OSEQ < oseq) : order s oseq true go = go (setF s SEC_OSEQ.OSEQ 0 oseq) :=
  if_pos (by simp [hseq])

theorem order_of_stale {ok : Bool} (hbad : ok = false ∨ oseq ≤ getF s SEC_OSEQ.OSEQ) :
    order s oseq ok go = setEvt (ledger s 0x0D01 1 none [oseq]) SEC_EVT.ORDER := by
  refine if_neg ?_
  obtain h | h := hbad <;> simp [h]

end

section
variable {s y : State} {src dst : Nat} {r x : BitVec 128} (hnone : s.red.rebuild = none)
include hnone

/-- At the target's chip a rebuild of a SYS extent writes the new partner's record. -/
theorem rebuild_of_target (hdst : saChip dst = own s) (hsrc : saChip src ≠ own s) (htier : saTier dst ≤ 1)
    (hpop : populated s (saTier dst) (saExt dst) = true) (hvalid : btst (extRec s (saTier dst) (saExt dst)) EXT.VALID = false)
    (hsys : btst r EXT.SYS = true) (hy : y = setExt s (saTier dst) (saExt dst) (rebuildRec src r)) :
    rebuild s src dst r = { y with red := { y.red with rebuild := some (src, dst, true) } } := by
  subst hy
  rw [rebuild, if_neg (by simp [hnone]), if_pos hdst]
  refine (if_neg (by simp [hsrc, htier, hpop, hvalid])).trans ?_
  simp only [hsys, if_true]

/-- At the source's chip a rebuild turns a mirrored extent to its new partner and copies it. -/
theorem rebuild_of_source (hdst : saChip dst ≠ own s) (hsrc : saChip src = own s)
    (hx : x = extRec s (saTier src) (saExt src)) (hvalid : btst x EXT.VALID = true) (hfenced : fencedChip s (saChip dst) = false)
    (hclass : bget x EXT.RCLASS = 1)
    (hy : y = setExt s (saTier src) (saExt src) (bset (bset (bset (bset (bset x EXT.ROLE 0) EXT.PCHIP (saChip dst)) EXT.PEXT
      (saExt dst)) EXT.PTIER (saTier dst)) EXT.STATE exRebuilding)) :
    rebuild s src dst r = emit (memPull { y with red := { y.red with rebuild := some (src, dst, false) } } src (2 ^ 24))
      (.copyExtent src dst) := by
  subst hy hx
  rw [rebuild, if_neg (by simp [hnone]), if_neg hdst, if_pos hsrc]
  refine (if_neg (by simp [hvalid, hfenced])).trans ?_
  simp only [hclass, if_true]

end

/-- Settles O46. -/
theorem orderCommands : Obligations.OrderCommands := by
  refine ⟨?ack, ?stale, ?target, ?source, ?copied, ?stopped, ?records⟩
  case ack =>
    rintro oseq sq s u n hfast honly hseq rfl rfl hlt
    exact answers_of_fast rfl hfast honly ((order_of_rising hseq).trans (if_pos hlt))
  case stale =>
    intro oseq ok sq s hfast honly hbad
    exact answers_of_fast rfl hfast honly (order_of_stale hbad)
  case target =>
    rintro oseq src dst r s u y hlive hseq rfl hnone hdst hsrc htier hpop hvalid hsys hy
    exact answers_of_live rfl hlive ((order_of_rising hseq).trans
      (rebuild_of_target hnone hdst hsrc htier hpop hvalid hsys hy))
  case source =>
    rintro oseq src dst r s u y x hlive hseq rfl hnone hdst hsrc hx hvalid hfenced hclass hy
    exact answers_of_live rfl hlive ((order_of_rising hseq).trans
      (rebuild_of_source hnone hdst hsrc hx hvalid hfenced hclass hy))
  case copied =>
    rintro src dst s u hlive hrebuild rfl
    exact answers_of_live rfl hlive (by simp only [hrebuild, Bool.false_and, Bool.false_eq_true, if_false])
  case stopped =>
    rintro oseq src dst s u hlive hseq rfl hrebuild
    refine answers_of_live rfl hlive ((order_of_rising hseq).trans ?_)
    simp only [setF_red, hrebuild, ne_eq, not_true_eq_false, Bool.false_eq_true, if_false]
  case records =>
    rintro oseq first count s u hfast honly hseq hlo hhi rfl
    have hok : (true && decide (1 ≤ count ∧ count ≤ 1024)) = true := by simp [hlo, hhi]
    refine answers_of_fast rfl hfast honly ?_
    rw [hok]
    exact order_of_rising hseq

end Sys2Proof.Machine
end

section
/-! Cuts (O47). -/
namespace Sys2Proof.Machine

/-- A CUT of a rising CUTID over a valid area freezes the chip. -/
theorem answers_cut_of_begins {sq : Nat} {sl : Slot} {s u : State} {n : Nat} (hb : Begins s ocCut sq sl)
    (hnone : s.red.cut = none) (hid : getF s RED_CUTSEAL.CUTID < cutId sl.d) (harea : cutAreaOk s = true)
    (hn : n = match s.red.newest with | some k => 1 - k | none => 0)
    (hu : u = setF (setF (setF (modSlot s sq fun x => { x with ph := .running, work := .await sq }) RED_CUTSTAT.STATE 0 csFreeze)
      RED_CUTSTAT.SLOT 0 n) RED_CUTSTAT.HOLDMS 0 0) :
    Answers (.cut sq) s (recallAll { u with red := { u.red with freeze := true, cut := some {
      sq := sq, id := cutId sl.d, stepb := cutStep sl.d, slot := n, t0 := s.tim.now } } }) := by
  refine answers_of_begins hb rfl ?_
  rw [if_neg (by simp [hnone]), if_neg (Nat.not_le.mpr hid), if_neg (by simp [harea])]
  extract_lets slot v w
  obtain rfl : n = slot := hn
  obtain rfl : u = w := hu
  have htime : w.tim = s.tim := by simp only [w, setF_tim]; rfl
  rw [htime]

/-! ## The drain -/

section
variable {s : State} {c : CutRun} {k : Nat} (hnext : nextNear c = some k)
include hnext

/-- A near-tier page is written to the slot of the cut. -/
theorem drainPage_of_near {sa : Nat} {l : List NearLine} {u : State} (hl : l = mgetD (nearPage s k) c.held k)
    (hsa : sa = mkSa (own s) 0 (4096 * k))
    (hu : u = setCutSlot s c.slot { mgetD {} s.red.slots c.slot with
      near := mput (mgetD {} s.red.slots c.slot).near k l
      index := mput (mgetD {} s.red.slots c.slot).index (sa / 4096) (pageCrc sa (linesBytes l)) }) :
    drainPage s c = { u with red := { u.red with cut := some { c with
      held := mdel c.held k, gone := insRising c.gone k, bytes := c.bytes + 4096 } } } := by
  subst hl hsa hu
  simp only [drainPage, hnext]

theorem drainNext_of_held (hheld : (mget c.held k).isSome = true) : drainNext s c = drainPage s c := by
  simp only [drainNext, drainReads, hnext, hheld, if_true]

/-- A page that the reserve does not hold is read in the store: its owners are asked first. -/
theorem drainNext_of_store (hk : k < 2 ^ 36) (hheld : (mget c.held k).isSome = false) (hpull : c.pull ≠ some (4096 * k)) :
    drainNext s c = if (ownedIn s (mkSa (own s) 0 (4096 * k)) 64).isEmpty then drainPage s c
      else memPull { s with red := { s.red with cut := some { c with pull := some (4096 * k) } } }
        (mkSa (own s) 0 (4096 * k)) 64 := by
  have hreads : drainReads c = some (4096 * k) := by
    simp only [drainReads, hnext, hheld, Bool.false_eq_true, if_false]
  have htier : 4096 * k / 2 ^ 48 = 0 := Nat.div_eq_of_lt (by omega)
  have hoff : 4096 * k % 2 ^ 48 = 4096 * k := Nat.mod_eq_of_lt (by omega)
  rw [drainNext, hreads]
  split
  next hno => exact absurd hno nofun
  next off hsome =>
  obtain rfl := Option.some.inj hsome
  rw [htier, hoff]
  exact if_neg hpull

end

/-- While pages are protected the drain takes the next of them. -/
theorem answers_cutPageDrain {s : State} {c : CutRun} (hlive : live s = true) (hcut : s.red.cut = some c)
    (hfrozen : c.frozen = false) : Answers .cutPageDrain s (drainNext s c) :=
  answers_of_live rfl hlive (by simp only [hcut, hfrozen, Bool.false_eq_true, if_false])

/-- Settles O47. -/
theorem cutCommands : Obligations.CutCommands := by
  refine ⟨?cut, ?frozen, ?again, ?drain, ?pull, ?reserve, ?sealed, ?limit⟩
  case cut =>
    intro sq sl s n u hb hnone hid harea hn hu
    exact answers_cut_of_begins hb hnone hid harea hn hu
  case frozen =>
    intro s c hlive hcut hfrozen hlines
    refine answers_of_live rfl hlive ?_
    simp only [hcut, hfrozen, hlines, List.isEmpty_nil, Bool.not_true, Bool.false_eq_true, if_false, if_true]
  case again =>
    intro s c hlive hcut hfrozen hlines
    refine answers_of_live rfl hlive ?_
    simp only [hcut, hfrozen, Bool.not_true, Bool.false_eq_true, if_false]
    exact if_neg (by simpa using hlines)
  case drain =>
    intro s c k sa l u hlive hcut hfrozen hnext hk hread hl hsa hu
    rw [← drainPage_of_near hnext hl hsa hu]
    by_cases hheld : (mget c.held k).isSome = true
    · exact drainNext_of_held hnext hheld ▸ answers_cutPageDrain hlive hcut hfrozen
    · obtain ⟨hpull, howned⟩ := hread.resolve_left hheld
      have h := answers_cutPageDrain hlive hcut hfrozen
      rwa [drainNext_of_store hnext hk (eq_false_of_ne_true hheld) hpull, if_pos (by rw [howned]; rfl)] at h
  case pull =>
    rintro s c k sa hlive hcut hfrozen hnext hk hheld hpull rfl howned
    have h := answers_cutPageDrain hlive hcut hfrozen
    rwa [drainNext_of_store hnext hk hheld hpull, if_neg (by simpa using howned)] at h
  case reserve =>
    rintro s c u hlive hcut hwaiting hroom rfl
    refine ⟨_, rfl, answers_of_live rfl hlive ?_⟩
    rw [reserveRun, hcut]
    exact (if_neg (by simp [hwaiting, hroom])).trans rfl
  case sealed =>
    rintro s c u y hlive hcut hfrozen hnext hstg rfl rfl
    refine answers_of_live rfl hlive ?_
    have hany : (c.stg.any fun b => !c.stgGone.contains b) = false := by
      rw [← List.not_all_eq_any_not, hstg]; rfl
    simp only [hcut, hfrozen, hnext, hany, Option.isSome_none, Bool.or_self, Bool.false_eq_true, if_false]
  case limit =>
    intro s c hlive hcut
    exact answers_of_live rfl hlive (by simp only [hcut])

end Sys2Proof.Machine
end

section
/-! Dumps, samples and the ledger's events (O48). -/
namespace Sys2Proof.Machine

/-- A write of CNT_DUMPCTL that disarms the timed dumps and asks for one now. -/
theorem dumpCtl_of_now {s : State} {v : W64} (hnow : btst v CNT_DUMPCTL.NOW.bf = true)
    (hmode : btst v CNT_DUMPCTL.MODE.bf = false) : dumpCtl s v =
      let u := setF (setF (setF s CNT_DUMPCTL.PERIOD 0 (bget v CNT_DUMPCTL.PERIOD.bf)) CNT_DUMPCTL.CLR 0
        (bget v CNT_DUMPCTL.CLR.bf)) CNT_DUMPCTL.MODE 0 0
      dump { u with obs := { u.obs with ddue := none } } 0 false true := by
  have hoff (t : State) : tstF (setF t CNT_DUMPCTL.MODE 0 0) CNT_DUMPCTL.MODE = false := by
    rw [tstF, getF_setF_same _ _ _ _ (by decide)]; rfl
  have hzero : bget v CNT_DUMPCTL.MODE.bf = 0 := by simpa [btst] using hmode
  simp only [dumpCtl, hzero, hoff, hnow, Bool.not_false, if_true]

/-- The next record of the ledger, where its ring was not full and no message or stream takes it. -/
theorem ledgerWrite_of_info {s : State} {r : LRec} {l : List LRec} {w : BitVec 512} (hqueue : s.obs.lqueue = r :: l)
    (hfull : s.obs.lfull = 0) (hsev : r.sev < 2) (hstream : tstF s LDG_STREAM.EN = false) (hw : w = ledgerRec s r) :
    ledgerWrite s = { s with obs := { s.obs with
      lqueue := l, lring := mput s.obs.lring ((s.obs.lseq - 1) % 16384) w, lseq := s.obs.lseq + 1 } } := by
  subst hw
  have h2 : r.sev ≠ 2 := by omega
  have h3 : r.sev ≠ 3 := by omega
  simp only [ledgerWrite, hqueue, hstream, h2, h3, hfull, Bool.false_and, Bool.false_eq_true, if_false, ne_eq,
    not_true_eq_false, false_and]

/-- Settles O48. -/
theorem counterCommands : Obligations.CounterCommands := by
  refine ⟨?now, ?timed, ?raise, ?sample, ?record, ?window, ?stream⟩
  case now =>
    intro v s hfast honly hnow hmode
    exact ⟨_, rfl, answers_of_fast rfl hfast honly ((if_pos hnow).trans (dumpCtl_of_now hnow hmode))⟩
  case timed =>
    intro s d hfast honly hdue hpast
    refine answers_of_fast rfl hfast honly ?_
    simp only [timedDump, hdue]
    exact if_neg (not_lt.mpr hpast)
  case raise =>
    intro s hlive hdue
    exact answers_of_live rfl hlive (congrArg raiseMatch (by simp only [timedDump, hdue]))
  case sample =>
    rintro s r l n t u hfast honly hbuf hroom rfl rfl rfl
    refine answers_of_fast rfl hfast honly ?_
    simp only [sampleWrite, hbuf, hroom, Bool.not_true, Bool.false_eq_true, if_false]
  case record =>
    intro s r l w hsill hqueue hfull hsev hstream hw
    exact answers_of_sill rfl hsill (ledgerWrite_of_info hqueue hfull hsev hstream hw)
  case window =>
    rintro s u hsill rfl
    exact answers_of_sill rfl hsill rfl
  case stream =>
    intro s hsill
    exact answers_of_sill rfl hsill rfl

end Sys2Proof.Machine
end

section
/-! Resets (O49). -/
namespace Sys2Proof.Machine

/-- Settles O49. -/
theorem resetCommands : Obligations.ResetCommands := by
  refine ⟨?warm, ?cold, ?assert, ?deassert, ?leaveSill, ?pf, ?vf, ?enable, ?disable, ?tenant, ?done, ?pages⟩
  case warm =>
    intro s hsill hstage
    exact .of_eq rfl (if_pos (by simp [hsill, hstage]))
  case cold =>
    intro s hsill hcur
    exact .of_eq rfl (if_pos (by simp [hsill, hcur]))
  case assert =>
    intro s hsill hcur
    exact .of_eq rfl (if_pos (Bool.and_eq_true_iff.mpr ⟨hsill, bne_iff_ne.mpr hcur⟩))
  case deassert =>
    intro s hsill hcur
    exact .of_eq rfl ((if_neg (by simp [hsill])).trans (if_neg hcur))
  case leaveSill =>
    intro s hsill hcur
    exact .of_eq rfl ((if_neg (by simp [hsill])).trans (if_pos hcur))
  case pf =>
    intro hot s hsill hstage
    exact answers_of_host rfl hsill hstage rfl
  case vf =>
    intro n s hsill hstage hen hpos hle
    exact answers_of_host rfl hsill hstage (if_pos ⟨hen, hpos, hle⟩)
  case enable =>
    rintro n s u hsill hstage rfl
    exact answers_of_host rfl hsill hstage (by simp only [if_true])
  case disable =>
    rintro n s u hsill hstage rfl
    exact answers_of_host rfl hsill hstage (by simp only [Bool.false_eq_true, if_false])
  case tenant =>
    intro t s hfast honly hlt hnew
    exact answers_of_fast rfl hfast honly rfl
  case done =>
    rintro t s u hfast honly hmem hclean rfl hnone
    refine answers_of_fast rfl hfast honly ?_
    simp [tenantResetDone, hmem, hclean, hnone]
  case pages =>
    intro t s hfast honly hmem hclean hsome
    refine answers_of_fast rfl hfast honly ?_
    simp [tenantResetDone, hmem, hclean, hsome]

end Sys2Proof.Machine
end

section
/-! Tenants and the frame seed (O50), what the functions may send (O51). -/
namespace Sys2Proof.Machine

/-! ## Flags of a written word -/

theorem btst_bset_apart {n : Nat} (v : BitVec n) (f g : BF) (x : Nat) (h : f.lo + f.w ≤ n)
    (hd : g.lo + g.w ≤ f.lo ∨ f.lo + f.w ≤ g.lo) : btst (bset v f x) g = btst v g := by
  rw [btst, btst, bget_bset_apart v f g x h hd]

theorem btst_bset_one {n : Nat} (v : BitVec n) (f : BF) (h : f.lo + f.w ≤ n) (hw : f.w = 1) : btst (bset v f 1) f = true := by
  rw [btst, bget_bset_same v f 1 h, hw]; rfl

/-! ## TEN_SECCTL -/

section
variable {s u : State} {t : Nat} {v : W64} (hlt : t < 512) (hreset : btst v TEN_SECCTL.RESET.bf = false)
include hlt hreset

/-- A write of TEN_SECCTL with EN alone starts key derivation, or is refused. -/
theorem secctlWrite_of_enable (hen : btst v TEN_SECCTL.EN.bf = true) (herase : btst v TEN_SECCTL.ERASE.bf = false) :
    secctlWrite s t v = tenantEnable (plainWrite s .TEN_SECCTL t (bset v TEN_SECCTL.EN.bf (getF s TEN_SECCTL.EN t))) t := by
  rw [secctlWrite, if_neg (Nat.not_le.mpr hlt)]
  simp only [hreset, hen, herase, Bool.false_eq_true, if_false, if_true]

/-- A write of TEN_SECCTL with ERASE alone disables the tenant before it erases it. -/
theorem secctlWrite_of_erase (hen : btst v TEN_SECCTL.EN.bf = false) (herase : btst v TEN_SECCTL.ERASE.bf = true) :
    secctlWrite s t v = tenantErase (tenantDisable
      (plainWrite s .TEN_SECCTL t (bset v TEN_SECCTL.EN.bf (getF s TEN_SECCTL.EN t))) t) t := by
  rw [secctlWrite, if_neg (Nat.not_le.mpr hlt)]
  simp only [hreset, hen, herase, Bool.false_eq_true, if_false, if_true]

end

/-- CREATE on a chip that holds no frame seed. -/
theorem seedCreate_of_none {s u : State} {b : List Byte} (hvault : tstF s SEC_BOOT.VAULT = false)
    (hb : (b, u) = freeBytes s 32) : seedCreate s = takeSeed u (Config.fsidOf b) := by
  rw [seedCreate, if_neg (ne_true_of_eq_false hvault), ← hb]

/-- Settles O50. -/
theorem tenancyCommands : Obligations.TenancyCommands := by
  refine ⟨?enable, ?installed, ?erase, ?erased, ?seed⟩
  case enable =>
    rintro t v s u hfast honly hlt hreset herase rfl hoff hnew hready hpart
    refine answers_of_fast rfl hfast honly ((secctlWrite_of_enable hlt ?_ ?_ ?_).trans ?_)
    · rwa [btst_bset_apart _ _ _ _ (by decide) (by decide)]
    · exact btst_bset_one _ _ (by decide) rfl
    · rwa [btst_bset_apart _ _ _ _ (by decide) (by decide)]
    · exact (if_neg (by simpa [hoff] using hnew)).trans (if_neg (by rw [hready, hpart]; exact Bool.false_ne_true))
  case installed =>
    intro t s hfast honly hmem hidle hseed
    exact answers_of_fast rfl hfast honly (if_neg (by simp [hmem, hidle, hseed]))
  case erase =>
    rintro t v s u y hfast honly hlt hreset hen rfl hoff hnew howns rfl
    refine answers_of_fast rfl hfast honly ((secctlWrite_of_erase hlt ?_ ?_ ?_).trans ?_)
    · rwa [btst_bset_apart _ _ _ _ (by decide) (by decide)]
    · rwa [btst_bset_apart _ _ _ _ (by decide) (by decide)]
    · exact btst_bset_one _ _ (by decide) rfl
    · exact if_neg (by simpa [hoff, howns] using hnew)
  case erased =>
    intro t s hfast honly hmem
    exact answers_of_fast rfl hfast honly (if_pos (by simpa using hmem))
  case seed =>
    intro v s hfast honly hcreate hvault
    obtain ⟨⟨b, u⟩, hb⟩ : ∃ e, e = freeBytes s 32 := ⟨_, rfl⟩
    exact ⟨b, u, hb, answers_of_fast rfl hfast honly ((if_pos hcreate).trans (seedCreate_of_none hvault hb))⟩

/-- Settles O51. -/
theorem hostFunctionCommands : Obligations.HostFunctionCommands := by
  refine ⟨?clear, ?set, ?d3hot, ?all, ?one, ?link⟩
  case clear | set =>
    intro fn s hsill hstage hfn
    exact answers_of_host rfl hsill hstage (if_pos hfn)
  case d3hot =>
    intro fn enter s hsill hstage hfn
    exact answers_of_host rfl hsill hstage (if_pos hfn)
  case all =>
    intro fn s hsill hstage hfn
    exact answers_of_host rfl hsill hstage (if_neg (by simp [hfn]))
  case one =>
    intro fn n s hsill hstage hfn hlt
    exact answers_of_host rfl hsill hstage ((if_neg (by simp [hfn])).trans (if_pos hlt))
  case link =>
    intro speed width flit s hsill hstage hok
    exact answers_of_host rfl hsill hstage (if_pos hok)

end Sys2Proof.Machine
end

section
/-! Debug unlock and SPDM attestation (O52). -/
namespace Sys2Proof.Machine

/-! ## The responder -/

section
variable {s : State} {doe : Bool} {n : Nat} {go : State → State} (hreach : spdmReach s doe = true) (hup : spdmUp s = true)
include hreach hup

/-- A request in a state of the connection that it needs is answered. -/
theorem spdmReq_of_ready (hst : n ≤ spdmSt s doe) : spdmReq s doe n go = go s := by
  simp [spdmReq, hreach, hup, hst]

/-- A request before its time is answered with an error. -/
theorem spdmReq_of_early (hst : spdmSt s doe < n) : spdmReq s doe n go = spdmError s doe 4 := by
  simp [spdmReq, hreach, hup, Nat.not_le.mpr hst]

end

theorem nonceWord_zero (s : State) :
    nonceWord s 0 = (BitVec.ofNat 64 (leNat ((freeBytes s 32).1.take 8)), nonceDraw s) := by
  simp only [nonceWord, nonceDraw, if_true, Option.getD_some, Nat.mul_zero, List.drop_zero]

/-- Settles O52. -/
theorem debugAndMeasureCommands : Obligations.DebugAndMeasureCommands := by
  refine ⟨?nonce, ?badLength, ?token, ?version, ?caps, ?capsEarly, ?algs, ?algsEarly, ?digests, ?cert, ?noCert, ?challenge,
    ?measure, ?count, ?noBlock⟩
  case nonce =>
    intro s hsill hfast
    exact answers_of_sill rfl hsill ((if_pos hfast).trans (by rw [nonceWord_zero]))
  case badLength =>
    intro len s hsill hfast hlen
    have hbad : tokenGood s len = false := by simp [tokenGood, hlen]
    refine answers_of_sill rfl hsill ((if_pos hfast).trans ?_)
    simp only [tokenCheck, hbad, Bool.false_eq_true, if_false]
  case token =>
    intro s l hsill hfast hl
    refine answers_of_sill rfl hsill ((if_pos hfast).trans ?_)
    simp only [tokenCheck, ← hl]
  case version =>
    intro doe s hreach hup
    exact .of_eq rfl (if_pos (by simp [hreach, hup]))
  case caps =>
    intro doe s hreach hup hst
    exact .of_eq rfl (spdmReq_of_ready hreach hup hst)
  case capsEarly =>
    intro doe s hreach hup hst
    exact .of_eq rfl (spdmReq_of_early hreach hup hst)
  case algs =>
    intro doe s hreach hup hst
    exact .of_eq rfl ((spdmReq_of_ready hreach hup hst).trans rfl)
  case algsEarly =>
    intro doe hash asym s hreach hup hst
    exact .of_eq rfl (spdmReq_of_early hreach hup hst)
  case digests =>
    intro doe s hreach hup hst
    exact .of_eq rfl (spdmReq_of_ready hreach hup hst)
  case cert =>
    intro doe off len s hreach hup hst
    refine .of_eq rfl ((spdmReq_of_ready hreach hup hst).trans ?_)
    simp only [ne_eq, not_true_eq_false, false_or]
  case noCert =>
    intro doe slot off len s hreach hup hst hslot
    exact .of_eq rfl ((spdmReq_of_ready hreach hup hst).trans (if_pos (.inl hslot)))
  case challenge =>
    intro doe s hreach hup hst
    refine .of_eq rfl ((spdmReq_of_ready hreach hup hst).trans ((if_neg (not_not.mpr rfl)).trans ?_))
    simp only [Nat.reduceAdd]
  case measure =>
    intro doe idx raw s hreach hup hst hlo hhi
    have h0 : idx ≠ 0 := by omega
    have h255 : idx ≠ 255 := by omega
    refine .of_eq rfl ((spdmReq_of_ready hreach hup hst).trans ((if_neg fun h => absurd h.1 (Nat.not_lt.mpr hhi)).trans ?_))
    simp only [if_neg h0, if_neg h255, if_true]
  case count =>
    intro doe raw s hreach hup hst
    refine .of_eq rfl ((spdmReq_of_ready hreach hup hst).trans ((if_neg (by decide)).trans ?_))
    simp only [Nat.reduceAdd, if_true]
  case noBlock =>
    intro doe idx raw sig s hreach hup hst hhi hall
    exact .of_eq rfl ((spdmReq_of_ready hreach hup hst).trans (if_pos ⟨hhi, hall⟩))

end Sys2Proof.Machine
end

section
/-! The DOE mailbox and IDE keys (O53). -/
namespace Sys2Proof.Machine

section
variable {s : State} {go : State → State}

/-- An object that verifies, inside a session. -/
theorem ideObject_of_session (hsess : s.sec.ideSess ≠ 0) :
    ideObject s true go = { go s with sec := { (go s).sec with ideN := (go s).sec.ideN + 1 } } :=
  if_neg (by simp [hsess])

/-- An object that fails ends the session. -/
theorem ideObject_of_bad :
    ideObject s false go = setEvt { s with sec := { s.sec with ideSess := 0 } } HST_EVT.IDEFAIL := if_pos rfl

end

/-- Settles O53. -/
theorem ideCommands : Obligations.IdeCommands := by
  refine ⟨?list0, ?list1, ?list2, ?exchange, ?query, ?key, ?noKey, ?go, ?noGo, ?stop, ?bad⟩
  case list0 | list1 | list2 =>
    intro s hsill hstage
    exact answers_of_host rfl hsill hstage rfl
  case exchange =>
    intro nonce ek s hsill hstage hnonce hek hup
    refine answers_of_host rfl hsill hstage ((if_neg (by simp [hnonce, hek, hup])).trans ?_)
    simp only [freeBytes, Nat.reduceAdd]
  case query =>
    intro port s hsill hstage hsess
    exact answers_of_host rfl hsill hstage (ideObject_of_session hsess)
  case key =>
    rintro stream set dir sub s u hsill hstage hsess hstream hset hdir hsub rfl
    have hok : ideKeyOk stream set dir sub = true := decide_eq_true ⟨hstream, hset, hdir, hsub⟩
    exact answers_of_host rfl hsill hstage ((ideObject_of_session hsess).trans (by rw [if_pos hok]; rfl))
  case noKey =>
    intro stream set dir sub s hsill hstage hsess hbad
    exact answers_of_host rfl hsill hstage
      ((ideObject_of_session hsess).trans (by rw [if_neg (ne_true_of_eq_false hbad)]; rfl))
  case go =>
    rintro stream set dir sub s u hsill hstage hsess hmem rfl
    have hc : s.sec.ideKeys.contains (ideKey stream set dir sub) = true := by simpa using hmem
    exact answers_of_host rfl hsill hstage ((ideObject_of_session hsess).trans (by simp only [hc, if_true]))
  case noGo =>
    rintro stream set dir sub s u hsill hstage hsess hmem rfl
    have hc : s.sec.ideKeys.contains (ideKey stream set dir sub) = false := by simpa using hmem
    exact answers_of_host rfl hsill hstage
      ((ideObject_of_session hsess).trans (by simp only [hc, Bool.false_eq_true, if_false]))
  case stop =>
    rintro stream set dir sub s u hsill hstage hsess rfl
    exact answers_of_host rfl hsill hstage (ideObject_of_session hsess)
  case bad =>
    intro stream set dir sub port s hsill hstage
    exact ⟨_, rfl, answers_of_host rfl hsill hstage ideObject_of_bad, answers_of_host rfl hsill hstage ideObject_of_bad,
      answers_of_host rfl hsill hstage ideObject_of_bad, answers_of_host rfl hsill hstage ideObject_of_bad⟩

end Sys2Proof.Machine
end

section
/-! Power states and gating (O54), power samples and throttling (O55). -/
namespace Sys2Proof.Machine

/-! ## PWR_STATE.REQ -/

section
variable {s : State} {mctp : Bool}

theorem pwrReq_run : pwrReq s mctp 0 = if powerSt s = psParked then leaveParked s
    else if powerSt s = psSill ∧ mctp ∧ !s.pwr.railFault then
      railsUp (coldReset { s with pwr := { s.pwr with lref := true } })
    else badReq s := rfl

theorem pwrReq_parked : pwrReq s mctp 2 = if powerSt s ≤ psIdle ∧ !tstF s HOME_DIRCFG.EN ∧ !s.pwr.parking then
    parkCheck { s with pwr := { s.pwr with parking := true } } else badReq s := rfl

theorem pwrReq_sill : pwrReq s mctp 3 = if 3 = psSill ∧ powerSt s = psParked then enterSill s else badReq s := rfl

end

/-- Settles O54. -/
theorem powerStateCommands : Obligations.PowerStateCommands := by
  refine ⟨?run, ?leaveSill, ?running, ?park, ?noPark, ?sill, ?noSill, ?idle, ?gate, ?wake⟩
  case run =>
    intro mctp s hreach hst
    exact .of_eq rfl ((if_pos hreach).trans (pwrReq_run.trans (if_pos hst)))
  case leaveSill =>
    intro s hsill hst hrail
    exact .of_eq rfl ((if_pos (by simp [pwrReach, hsill])).trans (pwrReq_run.trans
      ((if_neg (by rw [hst]; decide)).trans (if_pos ⟨hst, rfl, by rw [hrail]; rfl⟩))))
  case running =>
    intro mctp s hreach hst
    have hparked : powerSt s ≠ psParked := fun h => absurd (h ▸ hst) (by decide)
    have hsill : powerSt s ≠ psSill := fun h => absurd (h ▸ hst) (by decide)
    exact .of_eq rfl ((if_pos hreach).trans (pwrReq_run.trans ((if_neg hparked).trans (if_neg fun h => hsill h.1))))
  case park =>
    intro mctp s hreach hst hdir hparking
    exact .of_eq rfl ((if_pos hreach).trans (pwrReq_parked.trans (if_pos (by simp [hst, hdir, hparking]))))
  case noPark =>
    intro mctp s hreach hno
    refine .of_eq rfl ((if_pos hreach).trans (pwrReq_parked.trans (if_neg ?_)))
    obtain h | h := hno
    · simp [h]
    · exact fun hc => absurd hc.1 (Nat.not_le.mpr h)
  case sill =>
    intro mctp s hreach hst
    exact .of_eq rfl ((if_pos hreach).trans (pwrReq_sill.trans (if_pos ⟨rfl, hst⟩)))
  case noSill =>
    intro mctp s hreach hst
    exact .of_eq rfl ((if_pos hreach).trans (pwrReq_sill.trans (if_neg fun h => hst h.2)))
  case idle =>
    intro s hlive hst hslots hheld hwaiting hgated
    have hfast : s.pwr.fast = true := (Bool.and_eq_true_iff.mp hlive).1
    exact answers_of_clock rfl hfast (if_pos (by simp [hst, hslots, hheld, hwaiting, hgated]))
  case gate =>
    intro a s hfast hgate hpart hfree
    exact answers_of_clock rfl hfast (if_pos (by simp [hgate, hpart, hfree]))
  case wake =>
    intro a s hfast
    exact answers_of_clock rfl hfast rfl

/-! ## What a chip that fences itself leaves of the register file -/

section
variable {f : Fld} (hreg : f.reg ≠ .LNK_HB) (hevt : isEvtReg f.reg = false) {i : Nat} (hi : i < 65536)
include hreg hi

theorem getF_sendHeartbeat (s : State) {p : Nat} (hp : p < 65536) (health : Nat) :
    getF (sendHeartbeat s p health) f i = getF s f i :=
  getF_setF_reg s LNK_HB.TXSEQ f p i _ hp hi hreg

theorem getF_foldl_sendHeartbeat (health : Nat) {l : List Nat} (hl : ∀ p ∈ l, p < 65536) (s : State) :
    getF (l.foldl (fun s p => sendHeartbeat s p health) s) f i = getF s f i := by
  induction l generalizing s with
  | nil => rfl
  | cons p l ih =>
    rw [List.foldl_cons, ih (fun q hq => hl q (List.mem_cons_of_mem p hq)),
      getF_sendHeartbeat hreg hi s (hl p List.mem_cons_self)]

include hevt

theorem getF_selfFence (s : State) : getF (selfFence s) f i = getF s f i := by
  unfold selfFence
  split
  case isTrue => rfl
  case isFalse =>
    rw [getF_confine _ _ (by decide) (by decide), getF_setEvt_of_regs _ rfl hevt, getF_ledger _ _ _ _ _ hevt]
    have hlt (p : Nat) (hp : p ∈ portNums.filter fun p => portSt { s with txq := [] } p == psActive) : p < 65536 :=
      Nat.lt_trans (List.mem_range.mp (List.mem_filter.mp hp).1) (by decide)
    have hbeats := getF_foldl_sendHeartbeat hreg hi 2 hlt { s with txq := [] }
    generalize List.foldl _ _ _ = u at hbeats ⊢
    exact hbeats

end

/-! ## A sample within the sustained limit -/

section
variable {s u v : State} {w temp : Nat} (htemp : temp < 65536) (hw : w ≤ sustLimit s) (hcnt : s.pwr.cnt + 1 < 100000)
  (hhot : ¬ (getF s PWR_MON.STEP = 12 ∧ 105 ≤ temp))
  (hu : u = setF (setF s PWR_MON.LAST 0 w) PWR_MON.TMAX 0 temp)
  (hv : v = { u with pwr := { u.pwr with sum := s.pwr.sum + w, cnt := s.pwr.cnt + 1, over8 := 0, hot12 := 0 } })
include hu

theorem getF_sample {f : Fld} (hreg : f.reg ≠ .PWR_MON) : getF u f = getF s f := by
  rw [hu, getF_setF_reg _ _ _ _ _ _ (by decide) (by decide) hreg, getF_setF_reg _ _ _ _ _ _ (by decide) (by decide) hreg]

theorem getF_step_sample : getF u PWR_MON.STEP = getF s PWR_MON.STEP := by
  rw [hu, getF_setF_apart _ PWR_MON.TMAX PWR_MON.STEP _ _ rfl (by decide) (by decide),
    getF_setF_apart _ PWR_MON.LAST PWR_MON.STEP _ _ rfl (by decide) (by decide)]

theorem sample_pwr : u.pwr = s.pwr := by rw [hu, setF_pwr, setF_pwr]

include htemp hw hcnt hhot hv

/-- No count of the power manager runs but those of the mean and of the time without a cause. -/
theorem sampled_of_low : sampled s w temp =
    { v with pwr := { v.pwr with clear := if throttleCause v then 0 else s.pwr.clear + 1 } } := by
  have hw' : min w 65535 = w := min_eq_left (hw.trans ((min_le_left _ _).trans (by decide)))
  have htemp' : min temp 65535 = temp := min_eq_left (by omega)
  have hfull : decide (100000 ≤ s.pwr.cnt + 1) = false := decide_eq_false (Nat.not_le.mpr hcnt)
  have hsust : sustLimit u = sustLimit s := by rw [sustLimit, sustLimit, getF_sample hu (by decide)]
  have hover : ¬ sustLimit u < w := by rw [hsust]; exact Nat.not_lt.mpr hw
  have hstep : ¬ (getF u PWR_MON.STEP = 12 ∧ 105 ≤ temp) := by rwa [getF_step_sample hu]
  subst hv
  simp only [sampled, hw', htemp', ← hu, sample_pwr hu, hfull, hover, hstep, Bool.false_eq_true, if_false]

end

theorem parkCheck_of_not_parking {s : State} (h : s.pwr.parking = false) : parkCheck s = s := if_pos (by simp [h])

/-- The chip that trips outside SILL fences itself and enters SILL. -/
theorem thermTrip_of_running {s : State} (hfast : s.pwr.fast = true) (hst : powerSt s ≠ psSill) (sensor temp : Nat) :
    thermTrip s sensor temp = emit (enterSill (setEvt (ledger (selfFence s) 0x0E01 3 none [sensor, temp]) PWR_EVT.THERMTRIP))
      (.pin "THERMTRIP#" 0 false) := by
  have hst' : powerSt (setEvt (ledger (selfFence s) 0x0E01 3 none [sensor, temp]) PWR_EVT.THERMTRIP) ≠ psSill := by
    rwa [powerSt, getF_setEvt_of_regs _ rfl rfl, getF_ledger _ _ _ _ _ rfl, getF_selfFence (by decide) rfl (by decide)]
  simp only [thermTrip, hfast, if_true, hst', if_false]

theorem enterSill_parking (s : State) : (enterSill s).pwr.parking = false := by
  rw [enterSill, setF_pwr, regSet_pwr, railsDown_pwr]; rfl

section
variable {s : State} {w temp : Nat} (sensor : Nat)

theorem powerSample_of_quiet (htrips : trips (sampled s w temp) temp = false)
    (hparking : (sampled s w temp).pwr.parking = false) : powerSample s w temp sensor = sampled s w temp := by
  rw [powerSample, htrips, if_neg Bool.false_ne_true, parkCheck_of_not_parking hparking]

theorem powerSample_of_trip (htrips : trips (sampled s w temp) temp = true) (hfast : (sampled s w temp).pwr.fast = true)
    (hst : powerSt (sampled s w temp) ≠ psSill) : powerSample s w temp sensor =
      emit (enterSill (setEvt (ledger (selfFence (sampled s w temp)) 0x0E01 3 none [sensor, temp]) PWR_EVT.THERMTRIP))
        (.pin "THERMTRIP#" 0 false) := by
  rw [powerSample, htrips, if_pos rfl, thermTrip_of_running hfast hst, parkCheck_of_not_parking]
  rw [emit_pwr, enterSill_parking]

end

/-- A sample at 100 °C or more is a cause by itself. -/
theorem throttleCause_of_hot {s u v : State} {w temp : Nat} (htemp : temp < 65536) (hhot : 100 ≤ temp)
    (hu : u = setF (setF s PWR_MON.LAST 0 w) PWR_MON.TMAX 0 temp) (hv : v.regs = u.regs) : throttleCause v = true := by
  have hmax : getF v PWR_MON.TMAX = temp := by
    rw [getF_congr hv rfl, hu, getF_setF_same _ _ _ _ (by decide)]
    exact Nat.mod_eq_of_lt htemp
  rw [throttleCause, hmax, decide_eq_true hhot, Bool.or_true]

/-- Settles O55. -/
theorem powerLimitCommands : Obligations.PowerLimitCommands := by
  refine ⟨?low, ?trip, ?rise, ?first, ?fall⟩
  case low =>
    intro w temp sensor s hsill hparking htemp hw hcnt hhot
    obtain ⟨u, hu⟩ : ∃ u, u = setF (setF s PWR_MON.LAST 0 w) PWR_MON.TMAX 0 temp := ⟨_, rfl⟩
    obtain ⟨v, hv⟩ : ∃ v : State, v = { u with pwr :=
      { u.pwr with sum := s.pwr.sum + w, cnt := s.pwr.cnt + 1, over8 := 0, hot12 := 0 } } := ⟨_, rfl⟩
    have hlow := sampled_of_low (by omega) hw hcnt (fun h => absurd h.2 (by omega)) hu hv
    have hcount : (sampled s w temp).pwr.hot12 = 0 := by rw [hlow, hv]
    have hpark : (sampled s w temp).pwr.parking = s.pwr.parking := by rw [hlow, hv, ← sample_pwr hu]
    have hcool : ¬ 115 ≤ temp := by omega
    have htrips : trips (sampled s w temp) temp = false := by simp [trips, hcount, hcool]
    refine ⟨u, hu, answers_of_sill rfl hsill ((powerSample_of_quiet sensor htrips (hpark.trans hparking)).trans ?_)⟩
    rw [hlow, hv]
  case trip =>
    intro w temp sensor s hsill hparking hlo hhi hw hcnt hfast htrip hst hstep
    obtain ⟨u, hu⟩ : ∃ u, u = setF (setF s PWR_MON.LAST 0 w) PWR_MON.TMAX 0 temp := ⟨_, rfl⟩
    obtain ⟨v, hv⟩ : ∃ v : State, v = { u with pwr :=
      { u.pwr with sum := s.pwr.sum + w, cnt := s.pwr.cnt + 1, over8 := 0, hot12 := 0 } } := ⟨_, rfl⟩
    have hlow := sampled_of_low hhi hw hcnt (fun h => absurd h.1 (by omega)) hu hv
    rw [if_pos (throttleCause_of_hot hhi (by omega) hu (by rw [hv]))] at hlow
    have hregs {f : Fld} (hreg : f.reg ≠ .PWR_MON) : getF (sampled s w temp) f = getF s f := by
      rw [hlow, ← getF_sample hu hreg, hv]; rfl
    refine ⟨u, hu, answers_of_sill rfl hsill ((powerSample_of_trip sensor ?_ ?_ ?_).trans ?_)⟩
    · rw [trips, tstF, hregs (by decide), ← tstF, htrip, decide_eq_true hlo]; rfl
    · rw [hlow, hv]; exact (congrArg Pwr.fast (sample_pwr hu)).trans hfast
    · rwa [powerSt, hregs (by decide)]
    · rw [hlow, hv]
  case rise =>
    intro s hsill hcause hstep
    refine answers_of_sill rfl hsill ((if_pos hcause).trans (if_neg hstep.ne'))
  case first =>
    intro s hsill hcause hstep
    refine answers_of_sill rfl hsill ((if_pos hcause).trans ((if_pos hstep).trans ?_))
    rw [hstep]; rfl
  case fall =>
    intro s hsill hcause hstep hclear hlast
    exact answers_of_sill rfl hsill ((if_neg (ne_true_of_eq_false hcause)).trans (if_pos ⟨hstep, hclear, hlast⟩))

end Sys2Proof.Machine
end

section
/-! Rails, references and power-on (O56). -/
namespace Sys2Proof.Machine

/-- Settles O56. -/
theorem railCommands : Obligations.RailCommands := by
  refine ⟨?rail, ?vin, ?stack, ?fault, ?lref, ?pref, ?crystal, ?vstby, ?on⟩
  case rail =>
    rintro rail s u hsill hlt hneeds hvin hstack rfl
    refine answers_of_sill rfl hsill ((if_neg (by omega)).trans (congrArg startBringup ?_))
    exact (if_neg hvin).trans (if_neg hstack)
  case vin =>
    rintro s u hsill hrailen rfl
    refine answers_of_sill rfl hsill ((if_neg (by simp [hrailen, railNeeds])).trans (congrArg startBringup ?_))
    exact if_pos ⟨rfl, hrailen⟩
  case stack =>
    rintro s u hsill hrailen rfl
    refine answers_of_sill rfl hsill ((if_neg (by simp [hrailen, railNeeds])).trans (congrArg startBringup ?_))
    exact (if_neg fun h => absurd h.1 (by decide)).trans (if_pos ⟨rfl, hrailen⟩)
  case fault =>
    rintro rail s u hsill hst rfl
    exact answers_of_sill rfl hsill (if_neg hst)
  case lref =>
    intro s hsill hst
    exact answers_of_sill rfl hsill (if_neg hst)
  case pref =>
    intro s hsill hstage
    exact answers_of_host rfl hsill hstage rfl
  case crystal =>
    intro s hsill hcrystal
    exact answers_of_sill rfl hsill (if_pos hcrystal)
  case vstby =>
    intro s hsill
    exact answers_of_sill rfl hsill rfl
  case on =>
    intro s hsill
    exact .of_eq rfl (if_neg (ne_true_of_eq_false hsill))

end Sys2Proof.Machine
end

section
/-! Bring-up and restart (O58). -/
namespace Sys2Proof.Machine

section
variable {s : State} {e : StageEnd} (hready : tstF s GLB_STAT.READY = false) (hjoin : mayJoin s = true)
include hready hjoin

theorem readyEnd_of_fresh {p : Nat} (hrestore : s.red.restore = some (0, p)) : readyEnd s e = join s := by
  simp only [readyEnd, hready, hjoin, hrestore, Bool.not_true, Bool.or_self, Bool.false_eq_true, if_false]

theorem readyEnd_of_cut {id p : Nat} {c : CutSlot} (hrestore : s.red.restore = some (id, p)) (hid : id ≠ 0)
    (hcut : cutToRestore s id e.slot = some c) : readyEnd s e = join (restoreCut s c) := by
  obtain ⟨k, rfl⟩ := Nat.exists_eq_succ_of_ne_zero hid
  simp only [readyEnd, hready, hjoin, hrestore, hcut, Bool.not_true, Bool.or_self, Bool.false_eq_true, if_false]

end

section
variable {s : State} {e : StageEnd} (hruns : bringupRuns s = true)
include hruns

/-- While bring-up goes on the current stage ends. -/
theorem answers_bringupStageEnd : Answers (.bringupStageEnd e) s
    (match stage s with
      | 1 => hostupEnd s e
      | 2 => bootEnd s e
      | 3 => sealedEnd s
      | 4 => stacksEnd s e
      | 5 => toStage (boot s 6) 6
      | 6 => planEnd s e
      | 7 => readyEnd s e
      | _ => s) :=
  .of_eq rfl (if_neg (by simp [hruns]))

theorem answers_bringupStageLimit {i : Nat} (hfail : mayFail s i = true) : Answers (.bringupStageLimit i) s
    (if i = 0 then setF s GLB_STAT.FAILED 0 1 else setF (boot (setF s GLB_STAT.FAILED 0 1) (i - 1)) SEC_BOOT.ERR 0 i) :=
  .of_eq rfl (if_neg (by simp [hruns, hfail]))

end

/-- An authentic RESTART order with a rising OSEQ. -/
theorem answers_restart {s u : State} {oseq cut plan : Nat} (hsill : s.pwr.sill = true) (hboot : 4 ≤ getF s SEC_BOOT.STAGE)
    (honly : s.hst.only = false) (hseq : getF s SEC_OSEQ.OSEQ < oseq) (hu : u = setF s SEC_OSEQ.OSEQ 0 oseq) :
    Answers (.restart oseq true cut plan) s
      (let v := if stage u = 7 then warmReset u else u;
        { v with red := { v.red with restore := some (cut, plan) } }) := by
  subst hu
  exact .of_eq rfl ((if_neg (by simp [hsill, honly, Nat.not_lt.mpr hboot])).trans (order_of_rising hseq))

/-- Settles O58. -/
theorem bringupCommands : Obligations.BringupCommands := by
  refine ⟨?host, ?boot, ?settings, ?near, ?vault, ?plan, ?fresh, ?cut, ?limit, ?failed, ?held, ?reset⟩
  case host =>
    intro e s hruns hstage hlink
    have h := answers_bringupStageEnd (e := e) hruns
    rw [hstage] at h
    exact (if_pos hlink : hostupEnd s e = _) ▸ h
  case boot =>
    intro e s hruns hstage
    have h := answers_bringupStageEnd (e := e) hruns
    rwa [hstage] at h
  case settings =>
    rintro e s u hruns hstage rfl
    have h := answers_bringupStageEnd (e := e) hruns
    rwa [hstage] at h
  case near =>
    rintro e s b u hruns hstage rfl rfl
    have h := answers_bringupStageEnd (e := e) hruns
    rwa [hstage] at h
  case vault =>
    intro e s hruns hstage
    have h := answers_bringupStageEnd (e := e) hruns
    rwa [hstage] at h
  case plan =>
    rintro e s x u hruns hstage hrestore rfl
    have h := answers_bringupStageEnd (e := e) hruns
    rw [hstage] at h
    exact (if_neg (by simp [hrestore]) : planEnd s e = _) ▸ h
  case fresh =>
    intro e s p hruns hstage hready hjoin hrestore
    have h := answers_bringupStageEnd (e := e) hruns
    rw [hstage] at h
    exact readyEnd_of_fresh (e := e) hready hjoin hrestore ▸ h
  case cut =>
    intro e s id p c hruns hstage hready hjoin hrestore hid hcut
    have h := answers_bringupStageEnd (e := e) hruns
    rw [hstage] at h
    exact readyEnd_of_cut hready hjoin hrestore hid hcut ▸ h
  case limit =>
    intro s hruns hfail
    exact answers_bringupStageLimit hruns hfail
  case failed =>
    intro i s hruns hlo hhi hstage
    have hi : i ≠ 0 := by omega
    have h := answers_bringupStageLimit hruns (i := i) (by simp [mayFail, hi, hhi, hstage])
    rwa [if_neg hi] at h
  case held =>
    intro oseq cut plan s u hsill hboot honly hseq hu hstage
    have h := answers_restart (cut := cut) (plan := plan) hsill hboot honly hseq hu
    rwa [if_neg hstage] at h
  case reset =>
    intro oseq cut plan s u hsill hboot honly hseq hu hstage
    have h := answers_restart (cut := cut) (plan := plan) hsill hboot honly hseq hu
    rwa [if_pos hstage] at h

end Sys2Proof.Machine
end

section
/-! Register accesses by the host (O59) and over MCTP (O60). -/
namespace Sys2Proof.Machine

/-! ## The word that an access names, and the write latch -/

theorem word_of_high {off : Nat} (h : off % 8 = 4) : off / 8 * 8 = off - 4 := by omega

theorem accessOk_half {off : Nat} (h : off % 8 = 0 ∨ off % 8 = 4) : accessOk off 4 = true := by
  have h4 : off % 4 = 0 := by omega
  simp [accessOk, h4]

theorem dropLatch_of_same {s : State} {fn b : Nat} {l : BitVec 32} (h : (fnOf s fn).wlatch = some (b, l)) :
    dropLatch s fn b = s := by
  simp [dropLatch, h]

/-! ## Reads of BAR0 -/

section
variable {s : State} {fn off : Nat} (halias : inAlias fn off = false)
include halias

section
variable (hlatch : (fnOf s fn).wlatch = none)
include hlatch

theorem bar0Read_low (h : off % 8 = 0) : bar0Read s fn off 4 = ((loHalf (bar0Word s (bar0Off fn off))).setWidth 64,
    setFn s fn { fnOf s fn with rlatch := some (off, hiHalf (bar0Word s (bar0Off fn off))) }) := by
  simp [bar0Read, halias, accessOk_half (.inl h), Nat.div_mul_cancel (Nat.dvd_of_mod_eq_zero h), dropLatch_of_none _ hlatch, h]

theorem bar0Read_high {w : BitVec 32} (h : off % 8 = 4) (hread : (fnOf s fn).rlatch = some (off - 4, w)) :
    bar0Read s fn off 4 = (w.setWidth 64, s) := by
  simp [bar0Read, halias, accessOk_half (.inr h), word_of_high h, dropLatch_of_none _ hlatch, h, hread]

theorem bar0Write_low (h : off % 8 = 0) (v : W64) :
    bar0Write s fn off 4 v = setFn s fn { fnOf s fn with wlatch := some (off, loHalf v) } := by
  simp [bar0Write, halias, accessOk_half (.inl h), Nat.div_mul_cancel (Nat.dvd_of_mod_eq_zero h), dropLatch_of_none _ hlatch, h]

end

theorem bar0Write_high {l : BitVec 32} (h : off % 8 = 4) (hlatch : (fnOf s fn).wlatch = some (off - 4, l)) (v : W64) :
    bar0Write s fn off 4 v =
      bar0Put (setFn s fn { fnOf s fn with wlatch := none }) fn (bar0Off fn (off - 4)) (loHalf v ++ l) := by
  simp [bar0Write, halias, accessOk_half (.inr h), word_of_high h, dropLatch_of_same hlatch, h, hlatch]

end

theorem regOpen_setFn (s : State) (fn : Nat) (h : Fn) (r : Reg) : regOpen (setFn s fn h) r = regOpen s r := rfl

/-- A word of BAR0 of the physical function, written. -/
theorem bar0Put_of_open {s : State} {b i : Nat} {r : Reg} (hreg : regAt b = some (r, i)) (hopen : regOpen s r = true) (v : W64) :
    bar0Put s 0 (bar0Off 0 b) v = writeReg s r i v := by
  simp [bar0Put, bar0Off, hreg, hopen]

/-! ## The accesses as the host makes them -/

section
variable {s : State} {fn off size : Nat} (hserves : fnServes s fn = true) (hide : ideOk s = true)
include hserves hide

theorem answers_registerRead_bar0 (hbar : inBar0 fn off = true) {v : W64} {u : State}
    (hread : bar0Read s fn off size = (v, u)) : Answers (.registerRead fn 0 off size) s (emit u (.readData fn v)) := by
  refine .of_eq rfl ((if_neg (by simp [hserves])).trans ((if_neg (by simp [hide])).trans ?_))
  simp only [hbar, if_true, hread]

theorem answers_registerWrite_bar0 (hbar : inBar0 fn off = true) {v : Line} {u : State}
    (hwrite : bar0Write s fn off size (v.setWidth 64) = u) : Answers (.registerWrite fn 0 off size v) s u := by
  refine .of_eq rfl ((if_neg (by simp [hserves])).trans ((if_neg (by simp [hide])).trans ?_))
  simp only [hbar, if_true, hwrite]

/-- A write at a doorbell of a chip that runs. -/
theorem answers_registerWrite_bell (hlive : live s = true) {b : Bell} {o : Nat} (hbell : bellAt fn off = some (b, o)) (v : Line) :
    Answers (.registerWrite fn 2 off size v) s (confine workParts s (
      if size = 8 ∧ off % 8 = 0 then layerTick (ringWord s b o (v.setWidth 64))
      else if size = 64 ∧ off % 64 = 0 then layerTick (ringWide s b v)
      else misBell s b.prv (if fn = 0 then off / 4096 % 512 else fn - 1) (off % 4096))) := by
  refine .of_eq rfl ((if_neg (by simp [hserves])).trans ((if_neg (by simp [hide])).trans ?_))
  simp only [bar2Write, hlive, hbell, Bool.not_true, Bool.false_eq_true, if_false]

end

/-- Settles O59. -/
theorem hostAccessCommands : Obligations.HostAccessCommands := by
  refine ⟨?word, ?low, ?high, ?bad, ?bar4, ?wordW, ?lowW, ?highW, ?badW, ?bell, ?wide, ?bar4W, ?asleep⟩
  case word =>
    intro fn off s hserves hide hbar halias hoff hlatch
    exact answers_registerRead_bar0 hserves hide hbar ((bar0Read_word halias hoff s).trans (by rw [dropLatch_of_none _ hlatch]))
  case low =>
    intro fn off s hserves hide hbar halias hoff hlatch
    exact answers_registerRead_bar0 hserves hide hbar (bar0Read_low halias hlatch hoff)
  case high =>
    intro fn off h s hserves hide hbar halias hoff hlatch hread
    exact answers_registerRead_bar0 hserves hide hbar (bar0Read_high halias hlatch hoff hread)
  case bad =>
    intro fn off size s hserves hide hbar halias hbad
    exact answers_registerRead_bar0 hserves hide hbar (bar0Read_of_bad halias s hbad)
  case bar4 =>
    intro fn off size s hserves hide
    exact .of_eq rfl ((if_neg (by simp [hserves])).trans (if_neg (by simp [hide])))
  case wordW =>
    intro off v r i s hserves hide hbar halias hoff hlatch hreg hopen
    exact answers_registerWrite_bar0 hserves hide hbar
      ((bar0Write_word halias hoff s _).trans (by rw [dropLatch_of_none _ hlatch, bar0Put_of_open hreg hopen]))
  case lowW =>
    intro fn off v s hserves hide hbar halias hoff hlatch
    exact answers_registerWrite_bar0 hserves hide hbar (bar0Write_low halias hlatch hoff _)
  case highW =>
    intro off v l r i s hserves hide hbar halias hoff hlatch hreg hopen
    exact answers_registerWrite_bar0 hserves hide hbar
      ((bar0Write_high halias hoff hlatch _).trans (bar0Put_of_open hreg ((regOpen_setFn ..).trans hopen) _))
  case badW =>
    intro fn off size v s hserves hide hbar halias hbad
    exact answers_registerWrite_bar0 hserves hide hbar (bar0Write_of_bad halias s _ hbad)
  case bell =>
    intro fn off v b o s hserves hide hlive hbell hoff
    have h := answers_registerWrite_bell (size := 8) hserves hide hlive hbell v
    rwa [if_pos ⟨rfl, hoff⟩] at h
  case wide =>
    intro fn off v b o s hserves hide hlive hbell hoff
    have h := answers_registerWrite_bell (size := 64) hserves hide hlive hbell v
    rwa [if_neg fun hc => absurd hc.1 (by decide), if_pos ⟨rfl, hoff⟩] at h
  case bar4W =>
    intro fn off size v s hserves hide
    exact .of_eq rfl ((if_neg (by simp [hserves])).trans (if_neg (by simp [hide])))
  case asleep =>
    intro fn bar off size v s hserves
    exact ⟨s, rfl, .of_eq rfl (if_pos (by simp [hserves])), .of_eq rfl (if_pos (by simp [hserves]))⟩

/-! ## MCTP -/

/-- Settles O60. -/
theorem mctpAccessCommands : Obligations.MctpAccessCommands := by
  refine ⟨?read, ?window, ?dark, ?nothing, ?write, ?token⟩
  case read =>
    intro off r i s hsill hat hpower hsel hwin
    have hopen : (!sillReg r && !mctpFast s) = false := by obtain h | h := hpower <;> simp [h]
    refine answers_of_sill rfl hsill ?_
    simp only [hat, hopen, Bool.false_eq_true, if_false]
  case window =>
    intro off i s hsill hat
    refine answers_of_sill rfl hsill ?_
    simp only [hat, sillReg, Bool.not_true, Bool.false_and, Bool.false_eq_true, if_false]
  case dark =>
    intro off r i s v hsill hat hreg hfast
    have hdark : (!sillReg r && !mctpFast s) = true := by simp [hreg, hfast]
    refine ⟨_, rfl, answers_of_sill rfl hsill ?_, answers_of_sill rfl hsill ?_⟩ <;> simp only [hat, hdark, if_true]
  case nothing =>
    intro off v s hsill hat
    refine ⟨_, rfl, answers_of_sill rfl hsill ?_, answers_of_sill rfl hsill ?_⟩ <;> simp only [hat]
  case write =>
    intro off r i v s hsill hat hpower
    have hopen : (!sillReg r && !mctpFast s) = false := by obtain h | h := hpower <;> simp [h]
    refine answers_of_sill rfl hsill ?_
    simp only [hat, hopen, Bool.false_eq_true, if_false]
  case token =>
    intro off w v s hsill hat hfast hw
    refine answers_of_sill rfl hsill ?_
    simp only [hat, hfast, hw, Bool.not_true, Bool.false_eq_true, if_false]

end Sys2Proof.Machine
end

section
/-! Leases (O29): CREATE speaks of a descriptor by the number that its slot holds, not by the number of its command. -/
namespace Sys2Proof.Machine
open Tests

/-! ## A store of a descriptor that the table does not hold -/

theorem modSlot_of_absent {s : State} {sq : Nat} (h : slotOf s sq = none) (f : Slot → Slot) : modSlot s sq f = s := by
  have hmod : mmod s.que.slots sq f = s.que.slots := by
    unfold mmod
    rw [show mget s.que.slots sq = none from h]
  simp only [modSlot, hmod]

theorem tryFinish_of_absent {s : State} {sq : Nat} (h : slotOf s sq = none) : tryFinish s sq = s := by
  simp only [tryFinish, h]

theorem finish_of_absent {s : State} {sq : Nat} (h : slotOf s sq = none) (st sub res : Nat) : finish s sq st sub res = s := by
  simp only [finish, h]

theorem storeAt_of_absent {s : State} {sq : Nat} (h : slotOf s sq = none) (sa : Nat) (bs : List Byte) : storeAt s sq sa bs = s := by
  simp only [storeAt, h]

theorem failed_of_absent {s : State} {q : HomeReq} {sq : Nat} (hwho : q.who = .slot sq) (h : slotOf s sq = none) (st sub : Nat) :
    failed s q st sub = s := by
  unfold failed
  rw [hwho]
  simp only
  rw [modSlot_of_absent h, tryFinish_of_absent h]

theorem staleNote_que (s : State) (prv : Bool) (ten sa st : Nat) : (staleNote s prv ten sa st).que = s.que := by
  unfold staleNote
  split
  · exact ledgerFF_que ..
  · rfl

/-- A line that no extent covers is refused, and its writer would be told: the table holds no such writer. -/
theorem putLine_que_of_absent {s : State} {sl : Slot} {l : Nat} (hhome : servedBy s l = own s) (htier : saTier l ≠ 2)
    {st sub : Nat} (hstop : extentStop s l = some (st, sub)) (h : slotOf s sl.seq = none) (o : Nat) (bs : List Byte)
    (tally hint : Nat) (poison fill : Bool) : (putLine s sl l o bs tally hint poison fill).que = s.que := by
  have habs : slotOf (staleNote s (slotReq s sl .engWr l).prv (slotReq s sl .engWr l).ten l st) sl.seq = none := by
    rw [slotOf, staleNote_que]
    exact h
  simp only [putLine, if_pos hhome, if_neg htier, hstop, modSlot_of_absent h]
  rw [failed_of_absent rfl habs, staleNote_que]

/-! ## Reads of a chip without extents -/

theorem extentStop_of_noExtent {s : State} (hext : s.store.ext = []) {l : Nat} (htier : saTier l ≤ 1) (hchip : saChip l = own s) :
    extentStop s l = some (stAccess, 0x0017) := by
  have hrec : recOf s l = 0 := by simp [recOf, hchip, extRec, hext, mgetD]
  have hlost : ¬ bget (0 : BitVec 128) EXT.STATE = exLost := by decide
  rw [extentStop, if_neg (Nat.not_lt.mpr htier), hrec]
  simp only [if_neg hlost, hchip, ne_eq, not_true, if_false]
  exact if_pos (by decide)

theorem cutLines_of_line {sa : Nat} (h : sa % 64 = 0) : cutLines sa 8 = [(sa, 0, 8, 0)] := by
  have hlast : (sa + 8 - 1) / 64 + 1 - sa / 64 = 1 := by omega
  have hfirst : (sa / 64 + 0) * 64 = sa := by omega
  simp only [cutLines, hlast, List.range_one, List.map_cons, List.map_nil, hfirst]
  simp

/-- A write at an SA of this chip's tier 0, for a descriptor whose slot holds a number that is not in the table. -/
theorem storeAt_que_of_stray {s : State} {sq sa : Nat} {sl : Slot} (hslot : slotOf s sq = some sl) (habs : slotOf s sl.seq = none)
    (hext : s.store.ext = []) (hown : own s = 0) (hfence : fencedChip s 0 = false) (hsa : sa < 2 ^ 48) (hline : sa % 64 = 0) :
    (storeAt s sq sa (List.replicate 8 0)).que = s.que := by
  have hchip : saChip sa = 0 := by simp only [saChip]; omega
  have htier : saTier sa = 0 := by simp only [saTier]; omega
  have hhome : servedBy s sa = own s := by simp [servedBy, hchip, hfence, hown]
  simp only [storeAt, hslot, List.length_replicate, cutLines_of_line hline, List.foldl_cons, List.foldl_nil]
  exact putLine_que_of_absent hhome (htier ▸ by decide)
    (extentStop_of_noExtent hext (htier ▸ by decide) (hchip.trans hown.symm)) habs ..

theorem kvSlotSa_bound {s : State} {t k : Nat} (hown : own s = 0) (htier : getF s TEN_KVPOOL.TIER t = 0)
    (hfirst : getF s TEN_KVPOOL.FIRST t = 0) (hslot : kvSlot s t = 0 ∨ kvSlot s t = 4) (hk : k < 2 ^ 32) :
    kvSlotSa s t k < 2 ^ 48 ∧ kvSlotSa s t k % 64 = 0 := by
  have hsa : kvSlotSa s t k = k / (262144 / kvSlot s t) * 1073741824 + k % (262144 / kvSlot s t) * kvSlot s t * 4096 := by
    unfold kvSlotSa kvSpe mkSa
    rw [hown, htier, hfirst]
    omega
  obtain h | h := hslot <;> rw [h] at hsa <;> constructor <;> omega

theorem layerSa_zero (s : State) (i : Nat) : layerSa s i 0 = kvSlotSa s (lease s i LEASE.OWNER) (leaseMap s i 0) := by
  simp [layerSa]

/-! ## The state that refutes CREATE's clause -/

/-- A launched CREATE of one layer, listed as number 0 while its slot holds number 1; five writes of it are owed. -/
def strayCreate : Slot := { slot0 (bset (bset 0x203 ⟨8 * 56, 16⟩ 1) ⟨8 * 60, 8⟩ 1) .launched with seq := 1, owed := 5 }

/-- A chip that runs, with that descriptor, no extents, and a pool of one extent for tenant 0. -/
def strayPool : State :=
  setF (setF (setF (setF (setCtx (upSlot strayCreate) 0 0) TEN_KVPOOL.EN 0 1) TEN_KVPOOL.SLOT 0 4) TEN_KVPOOL.COUNT 0 1) TEN_KVLEASE.LIMIT 0 8

theorem begins_strayCreate : Begins strayPool ocKvLease 0 strayCreate := by decide +kernel

theorem regGet_strayPool {t : Nat} (h0 : t ≠ 0) (ht : t < 512) : regGet strayPool .TEN_KVPOOL t = 0 := by
  have h : t < 65536 := by omega
  have hup : regGet up .TEN_KVPOOL t = 0 := by
    unfold up setF
    rw [regGet_regSet_ne _ _ (by decide) h (.inl (by decide)), regGet_regSet_ne _ _ (by decide) h (.inl (by decide)),
      regGet_regSet_ne _ _ (by decide) h (.inl (by decide)), regGet_regSet_ne _ _ (by decide) h (.inl (by decide))]
    exact (show regGet State.reset .TEN_KVPOOL t = regReset .TEN_KVPOOL from rfl).trans (by decide)
  unfold strayPool setF
  rw [regGet_regSet_ne _ _ (by decide) h (.inl (by decide)), regGet_regSet_ne _ _ (by decide) h (.inr ⟨by decide, h0⟩),
    regGet_regSet_ne _ _ (by decide) h (.inr ⟨by decide, h0⟩), regGet_regSet_ne _ _ (by decide) h (.inr ⟨by decide, h0⟩)]
  simpa only [regGet, setCtx, upSlot, setSlot] using hup

/-- Of every tenant's pool the first extent is near extent 0, and its slots measure 4 units or none. -/
theorem pool_strayPool {t : Nat} (ht : t < 512) : getF strayPool TEN_KVPOOL.TIER t = 0 ∧ getF strayPool TEN_KVPOOL.FIRST t = 0
    ∧ (kvSlot strayPool t = 0 ∨ kvSlot strayPool t = 4) := by
  by_cases h0 : t = 0
  · subst h0
    decide +kernel
  · have hreg := regGet_strayPool h0 ht
    refine ⟨(congrArg (bget · TEN_KVPOOL.TIER.bf) hreg).trans (by decide),
      (congrArg (bget · TEN_KVPOOL.FIRST.bf) hreg).trans (by decide),
      .inl ((congrArg (bget · TEN_KVPOOL.SLOT.bf) hreg).trans (by decide))⟩

/-- What stays of `strayPool` while CREATE takes slots and writes the lease record. -/
structure StrayPool (s : State) : Prop where
  regs : ∀ r, isEvtReg r = false → r ≠ .TEN_KVLEASE → ∀ t < 512, regGet s r t = regGet strayPool r t
  ext : s.store.ext = []
  slots : s.que.slots = strayPool.que.slots

theorem StrayPool.setF_used {s : State} (h : StrayPool s) {n : Nat} (hn : n < 512) (x : Nat) :
    StrayPool (setF s TEN_KVLEASE.USED n x) where
  regs r hr hne t ht := (regGet_regSet_ne _ _ (by omega) (by omega) (.inl hne)).trans (h.regs r hr hne t ht)
  ext := (congrArg Store.ext (setF_store ..)).trans h.ext
  slots := (congrArg Que.slots (setF_que ..)).trans h.slots

theorem strayPool_self : StrayPool strayPool := ⟨fun _ _ _ _ _ => rfl, by decide +kernel, rfl⟩

theorem StrayPool.getF {s : State} (h : StrayPool s) {f : Fld} (hf : isEvtReg f.reg = false) (hne : f.reg ≠ .TEN_KVLEASE)
    {t : Nat} (ht : t < 512) : getF s f t = getF strayPool f t :=
  congrArg (bget · f.bf) (h.regs f.reg hf hne t ht)

theorem StrayPool.nextChoice {s : State} (h : StrayPool s) : StrayPool { s with fresh := s.fresh + 1 } := ⟨h.regs, h.ext, h.slots⟩

theorem StrayPool.kvTake {s : State} (h : StrayPool s) (t i n : Nat) : StrayPool (kvTake s t i n).2 := by
  unfold Machine.kvTake
  refine List.foldlRecOn (motive := fun (a : List Nat × State) => StrayPool a.2) _ _ h fun a ha _ _ => ?_
  exact ⟨ha.regs, ha.ext, ha.slots⟩

theorem StrayPool.sysPut {s : State} (h : StrayPool s) (sa : Nat) (d : Line) : StrayPool (sysPut s sa d) := by
  unfold Machine.sysPut nearWrite cutCopy
  split
  · split <;> exact ⟨h.regs, h.ext, h.slots⟩
  · exact ⟨h.regs, h.ext, h.slots⟩

theorem StrayPool.absent {s : State} (h : StrayPool s) : slotOf s strayCreate.seq = none :=
  (congrArg (mget · 1) h.slots).trans (by decide +kernel)

/-- What CREATE's clause says of a state in which the lease record is written: descriptor 0 ends. -/
theorem slotOf_finish_strayPool {w : State} (h : StrayPool w) (i res : Nat) :
    ∃ x, slotOf (finish (storeAt w 0 (layerSa w i 0) (List.replicate 8 0)) 0 stOk 0 res) 0 = some x ∧ x.ph = .finishing := by
  have hslot : slotOf w 0 = some strayCreate := (congrArg (mget · 0) h.slots).trans (by decide +kernel)
  have hown : own w = 0 := (h.getF (f := GLB_CHIPID.CHIP) (by decide) (by decide) (by decide)).trans (by decide +kernel)
  have hfence : fencedChip w 0 = false :=
    (congrArg (·.getLsbD 0) (h.regs .RED_FENCED (by decide) (by decide) 0 (by decide))).trans (by decide +kernel)
  have howner : lease w i LEASE.OWNER < 512 := bget_lt ..
  obtain ⟨htier, hfirst, hunits⟩ := pool_strayPool howner
  obtain ⟨hsa, hline⟩ : layerSa w i 0 < 2 ^ 48 ∧ layerSa w i 0 % 64 = 0 := by
    rw [layerSa_zero]
    refine kvSlotSa_bound hown ((h.getF (by decide) (by decide) howner).trans htier)
      ((h.getF (by decide) (by decide) howner).trans hfirst) ?_ (bget_lt ..)
    rwa [kvSlot, h.getF (f := TEN_KVPOOL.SLOT) (by decide) (by decide) howner]
  have hend : slotOf (storeAt w 0 (layerSa w i 0) (List.replicate 8 0)) 0 = some strayCreate := by
    rw [slotOf, storeAt_que_of_stray hslot h.absent h.ext hown hfence hsa hline]
    exact hslot
  refine ⟨{ strayCreate with ph := .finishing, fin := some (stOk, 0, res) }, ?_, rfl⟩
  generalize storeAt w 0 (layerSa w i 0) (List.replicate 8 0) = w' at hend
  have howed : ¬ ((strayCreate.owed = 0 : Bool) && !unissued w' 0) = true := by simp [strayCreate]
  rw [finish, hend]
  refine (congrArg (slotOf · 0) (if_neg howed)).trans ?_
  simp only [slotOf, modSlot, mmod, show mget w'.que.slots 0 = some strayCreate from hend, mget_mput_same]
  rfl

/-- CREATE itself ends descriptor 1, which is not there. -/
theorem slots_leaseCreate_stray {s : State} (h : StrayPool s) : (leaseCreate s strayCreate).que.slots = strayPool.que.slots := by
  have hfinish {w : State} (hw : StrayPool w) (st sub res : Nat) :
      (finish w strayCreate.seq st sub res).que.slots = strayPool.que.slots := by
    rw [finish_of_absent hw.absent]
    exact hw.slots
  have hstores {w : State} (hw : StrayPool w) (i : Nat) (ls : List Nat) :
      ls.foldl (fun w l => storeAt w strayCreate.seq (layerSa w i l) (List.replicate 8 0)) w = w := by
    induction ls with
    | nil => rfl
    | cons l ls ih => rw [List.foldl_cons, storeAt_of_absent hw.absent, ih]
  unfold leaseCreate
  extract_lets d t
  split
  next => exact hfinish h ..
  next n hn =>
  split
  · exact hfinish h ..
  split
  · exact hfinish h ..
  split
  next => exact hfinish h ..
  next i hi =>
  have htaken : StrayPool (kvTake { s with fresh := s.fresh + 1 } t i n).2 := h.nextChoice.kvTake t i n
  generalize kvTake { s with fresh := s.fresh + 1 } t i n = taken at htaken
  obtain ⟨maps, u⟩ := taken
  refine hfinish ?_ ..
  rw [hstores] <;> exact (htaken.sysPut ..).setF_used (bget_lt ..) _

theorem answers_leaseCreate {s : State} {sq : Nat} {sl : Slot} (hb : Begins s ocKvLease sq sl) (hop : subOp sl.d = 0) :
    Answers (.kvLeaseCreate sq) s (leaseCreate s sl) :=
  answers_of_begins (go := fun s sl => if subOp sl.d = 0 then leaseCreate s sl else s) hb rfl (if_pos hop)

theorem slotOf_confine_kvLeaseCreate (s t : State) (sq n : Nat) :
    slotOf (confine (touches (.kvLeaseCreate sq)) s t) n = slotOf t n := rfl

theorem Answers.confine_eq {c : Instr} {s t u : State} (ht : Answers c s t) (hu : Answers c s u) :
    confine (touches c) s t = confine (touches c) s u :=
  Host.Outcome.next.inj (ht.symm.trans hu)

/-- Refutes O29: listed as number 0 while its slot holds number 1, a descriptor that CREATE serves stays launched, for CREATE
ends the descriptor of the slot's number; the clause has descriptor 0 end. -/
theorem not_leaseCommands : ¬ Obligations.LeaseCommands := by
  unfold Obligations.LeaseCommands
  intro hall
  obtain ⟨i, maps, u, v, -, -, -, htake, hv, hans⟩ := hall.1 0 strayCreate strayPool 1 1 begins_strayCreate (by decide +kernel)
    (by decide +kernel) (by decide +kernel) (by decide +kernel) (by decide) (by decide) (by decide +kernel)
  have hsame := congrArg (slotOf · 0) ((answers_leaseCreate begins_strayCreate (by decide +kernel)).confine_eq hans)
  simp only [slotOf_confine_kvLeaseCreate] at hsame
  have hmodel : slotOf (leaseCreate strayPool strayCreate) 0 = some strayCreate :=
    (congrArg (mget · 0) (slots_leaseCreate_stray strayPool_self)).trans (by decide +kernel)
  have hrange : List.range (crLayers strayCreate.d + 1) = [0] := by decide +kernel
  have htaken : StrayPool u := by
    have hkeep := strayPool_self.nextChoice.kvTake (qTen strayPool strayCreate.ctx) i 1
    rwa [htake] at hkeep
  have hput : StrayPool v := hv ▸ htaken.sysPut ..
  rw [hrange, List.foldl_cons, List.foldl_nil] at hsame
  obtain ⟨x, hx, hph⟩ := slotOf_finish_strayPool (hput.setF_used (n := qTen strayPool strayCreate.ctx) (bget_lt ..) _) i _
  have heq : some strayCreate = some x := hmodel.symm.trans (hsame.trans hx)
  rw [← Option.some.inj heq] at hph
  exact absurd hph (by decide)

end Sys2Proof.Machine
end
